-- ==== Sys2Proof/Word.lean ====
section
/-! DEFINITION. The word types of the OZ3-768H (00 R3, 06 R176): bytes, 32-bit register elements, 64-bit composer
registers and lane words. -/

namespace Sys2Proof

/-- One byte of any memory. -/
abbrev Byte := BitVec 8

/-- A strand's register element, a uniform register, a composer instruction word. -/
abbrev Word32 := BitVec 32

/-- A composer register, a lane instruction word, a virtual address. -/
abbrev Word64 := BitVec 64

end Sys2Proof
end

