-- ==== Sys2Proof/Machine/Bits.lean ====
section
/-! DEFINITION. Bit fields of natural numbers and lists, as the spec's tables slice them (00 R3, R5). -/

namespace Sys2Proof.Bits

/-- Bits [lo + n - 1 : lo] of a number. -/
def field (x lo n : Nat) : Nat := x / 2 ^ lo % 2 ^ n

/-- Bit `k` of a number. -/
def bit (x k : Nat) : Bool := x / 2 ^ k % 2 = 1

/-- `x` with bits [lo + n - 1 : lo] replaced by the low n bits of `v`. -/
def setField (x lo n v : Nat) : Nat := x - field x lo n * 2 ^ lo + v % 2 ^ n * 2 ^ lo

/-- The n-bit field `x` as a signed number. -/
def signed (x n : Nat) : Int := if x % 2 ^ n < 2 ^ (n - 1) then (x % 2 ^ n : Nat) else (x % 2 ^ n : Nat) - (2 ^ n : Nat)

/-- A signed number modulo 2^n. -/
def wrap (n : Nat) (z : Int) : Nat := (z % (2 ^ n : Nat)).toNat

/-- log2 of a number of at least 1, rounded down; 0 for 0. -/
def log2 (n : Nat) : Nat := Nat.log2 n

/-- The element at a position of a list replaced. -/
def setAt {α : Type} (l : List α) (k : Nat) (x : α) : List α := l.set k x

/-- An element changed in place; no effect beyond the end. -/
def updAt {α : Type} (l : List α) (k : Nat) (f : α → α) : List α :=
  match l, k with
  | [], _ => []
  | x :: r, 0 => f x :: r
  | x :: r, k + 1 => x :: updAt r k f

/-- The number of a bit as 0 or 1. -/
def ofBool (b : Bool) : Nat := if b then 1 else 0

/-- The low bytes of a number, least significant first. -/
def toBytes : Nat → Nat → List Byte
  | 0, _ => []
  | n + 1, v => BitVec.ofNat 8 v :: toBytes n (v / 256)

/-- The number whose bytes these are, least significant first. -/
def ofBytes : List Byte → Nat
  | [] => 0
  | b :: r => b.toNat + 256 * ofBytes r

end Sys2Proof.Bits
end

