-- ==== Sys2Proof/Machine/Formats.lean ====
section
/-! DEFINITION. The format codes of 02 Table 2.1 and the size codes of 06 Table 6.12: which codes are defined, the
width of an element, how many lie in a container. -/

namespace Sys2Proof.Fmt

def I32 : BitVec 6 := 0x00
def I16x2 : BitVec 6 := 0x01
def I8x4 : BitVec 6 := 0x02
def I64 : BitVec 6 := 0x03
def N32 : BitVec 6 := 0x08
def N16x2 : BitVec 6 := 0x09
def N8x4 : BitVec 6 := 0x0A
def N64 : BitVec 6 := 0x0B
def F32 : BitVec 6 := 0x10
def F16x2 : BitVec 6 := 0x11
def BF16x2 : BitVec 6 := 0x12
def E4M3x4 : BitVec 6 := 0x13
def E5M2x4 : BitVec 6 := 0x14
def A4G32 : BitVec 6 := 0x20
def A4G64 : BitVec 6 := 0x21
def A4G128 : BitVec 6 := 0x22
def A8G32 : BitVec 6 := 0x24
def A8G64 : BitVec 6 := 0x25
def A8G128 : BitVec 6 := 0x26
def MX4 : BitVec 6 := 0x28
def MX8E4 : BitVec 6 := 0x29
def MX8E5 : BitVec 6 := 0x2A

def ints : List (BitVec 6) := [I32, I16x2, I8x4, I64, N32, N16x2, N8x4, N64]
def ints32 : List (BitVec 6) := [I32, I16x2, I8x4, N32, N16x2, N8x4]
def vecFloats : List (BitVec 6) := [F32, F16x2, BF16x2]
def floats : List (BitVec 6) := [F32, F16x2, BF16x2, E4M3x4, E5M2x4]
def narrowFloats : List (BitVec 6) := [F16x2, BF16x2, E4M3x4, E5M2x4]
def asyms : List (BitVec 6) := [A4G32, A4G64, A4G128, A8G32, A8G64, A8G128]
def mxs : List (BitVec 6) := [MX4, MX8E4, MX8E5]
/-- Every defined code of Table 2.1; every other code is reserved. -/
def defined : List (BitVec 6) := ints ++ floats ++ asyms ++ mxs
/-- The matrix formats of 10 Table 10.1. -/
def matrix : List (BitVec 6) := narrowFloats ++ asyms

/-- Bits of one element (Table 2.1, 10 R326). -/
def elemBits (f : BitVec 6) : Nat :=
  if f = I64 ∨ f = N64 then 64
  else if f = I32 ∨ f = N32 ∨ f = F32 then 32
  else if f = I16x2 ∨ f = N16x2 ∨ f = F16x2 ∨ f = BF16x2 then 16
  else if f = A4G32 ∨ f = A4G64 ∨ f = A4G128 ∨ f = MX4 then 4
  else 8

/-- Elements in one 32-bit container, or 1 for a register pair (Table 2.1). -/
def perContainer (f : BitVec 6) : Nat := if elemBits f = 64 then 1 else 32 / elemBits f

def is64 (f : BitVec 6) : Bool := f = I64 || f = N64
/-- Signed integer formats (R48). -/
def isSigned (f : BitVec 6) : Bool := f = I32 || f = I16x2 || f = I8x4 || f = I64
def isInt (f : BitVec 6) : Bool := ints.contains f
def isFloat (f : BitVec 6) : Bool := floats.contains f
def isAsym (f : BitVec 6) : Bool := asyms.contains f
def isMx (f : BitVec 6) : Bool := mxs.contains f
/-- Whether an asymmetric format has 4-bit codes. -/
def isA4 (f : BitVec 6) : Bool := f = A4G32 || f = A4G64 || f = A4G128

/-- Elements per scale of an asymmetric format; MX blocks are 32 (R56, R58). -/
def block (f : BitVec 6) : Nat :=
  if f = A4G64 ∨ f = A8G64 then 64 else if f = A4G128 ∨ f = A8G128 then 128 else 32

/-- The format code of a page whose leaf holds FMT and GEOM (R45); FMT 0 has none. -/
def ofPage (fmt geom : Nat) : Option (BitVec 6) :=
  match fmt with
  | 1 => some (BitVec.ofNat 6 (0x20 + geom))
  | 2 => some (BitVec.ofNat 6 (0x24 + geom))
  | 3 => some MX4
  | 4 => some MX8E4
  | 5 => some MX8E5
  | _ => none

/-! Size codes of 06 Table 6.12, used only in SZF. -/
def szB : BitVec 6 := 0x38
def szH : BitVec 6 := 0x39
def szW : BitVec 6 := 0x3A
def szD : BitVec 6 := 0x3B
def szBS : BitVec 6 := 0x3D
def szHS : BitVec 6 := 0x3E
def sizes : List (BitVec 6) := [szB, szH, szW, szD, szBS, szHS]

/-- Bytes of the container that an SZF code moves (R190). -/
def container (z : BitVec 6) : Nat :=
  if z = szB ∨ z = szBS then 1
  else if z = szH ∨ z = szHS then 2
  else if z = szD ∨ z = I64 ∨ z = N64 then 8
  else 4

end Sys2Proof.Fmt
end

