-- ==== Sys2Proof/Machine/Float.lean ====
section
/-! DEFINITION. Floating-point values and their rounding (02 R49 to R55): a finite value is a sign, an integer
significand and a power of two, every operation is computed exactly and rounded once. Flags are those of R54, tininess
detected after rounding, in the bit order of ASF (09 Table 9.8). -/

namespace Sys2Proof.Fl

open Sys2Proof

/-- A floating-point value: sign, significand, exponent. -/
inductive FVal where
  | nan
  | inf (neg : Bool)
  | fin (neg : Bool) (m : Nat) (e : Int)
  deriving DecidableEq, Repr

/-- An element layout of Table 2.2: exponent bits, mantissa bits, bias, whether it has infinities. -/
structure FF where
  eb : Nat
  mb : Nat
  bias : Nat
  ieee : Bool
  deriving DecidableEq, Repr

def f32 : FF := { eb := 8, mb := 23, bias := 127, ieee := true }
def f16 : FF := { eb := 5, mb := 10, bias := 15, ieee := true }
def bf16 : FF := { eb := 8, mb := 7, bias := 127, ieee := true }
def e4m3 : FF := { eb := 4, mb := 3, bias := 7, ieee := false }
def e5m2 : FF := { eb := 5, mb := 2, bias := 15, ieee := true }
def e2m1 : FF := { eb := 2, mb := 1, bias := 1, ieee := false }

/-- The layout of an element of a format code. -/
def ffOf (f : BitVec 6) : FF :=
  if f = Fmt.F16x2 then f16 else if f = Fmt.BF16x2 then bf16
  else if f = Fmt.E4M3x4 then e4m3 else if f = Fmt.E5M2x4 then e5m2 else f32

/-- Rounding modes (R52). -/
inductive RMode where
  | rn | rz | rp | rm
  deriving DecidableEq, Repr

/-- The mode of a rounding field (06 Table 6.8). -/
def RMode.ofField (x : BitVec 2) : RMode := if x = 0 then .rn else if x = 1 then .rz else if x = 2 then .rp else .rm

/-- Flags: invalid, divide-by-zero, overflow, underflow, inexact. -/
abbrev Flags := BitVec 5
def NV : Flags := 0b10000
def DZ : Flags := 0b01000
def OF : Flags := 0b00100
def UF : Flags := 0b00010
def NX : Flags := 0b00001

/-- Exponent of the least subnormal bit. -/
def FF.qmin (f : FF) : Int := 1 - (f.bias : Int) - f.mb
def FF.sign (f : FF) (neg : Bool) : Nat := if neg then 2 ^ (f.eb + f.mb) else 0
/-- Code of the largest finite magnitude. -/
def FF.maxCode (f : FF) : Nat :=
  if f.ieee then (2 ^ f.eb - 1) * 2 ^ f.mb - 1 else if f = e2m1 then 7 else 2 ^ (f.eb + f.mb) - 2
def FF.infCode (f : FF) : Nat := (2 ^ f.eb - 1) * 2 ^ f.mb
/-- Canonical NaN (Table 2.3). -/
def FF.nan (f : FF) : Nat :=
  if f.ieee then f.infCode + 2 ^ (f.mb - 1) else 2 ^ (f.eb + f.mb) - 1

/-- The value of an encoding (R49). -/
def decode (f : FF) (w : Nat) : FVal :=
  let neg := Bits.bit w (f.eb + f.mb)
  let e := Bits.field w f.mb f.eb
  let m := Bits.field w 0 f.mb
  if f.ieee && e = 2 ^ f.eb - 1 then (if m = 0 then .inf neg else .nan)
  else if f = e4m3 && e = 15 && m = 7 then .nan
  else if e = 0 then .fin neg m f.qmin
  else .fin neg (2 ^ f.mb + m) (f.qmin + (e : Int) - 1)

/-- .FZ applies to F32, F16 and BF16 only (R53). -/
def FF.flushes (f : FF) : Bool := decide (7 ≤ f.mb)

/-- The value with a subnormal read as a zero of its sign, as .FZ does (R53). -/
def decodeFz (f : FF) (fz : Bool) (w : Nat) : FVal :=
  match decode f w with
  | .fin neg m e => if fz && f.flushes && e = f.qmin && m < 2 ^ f.mb then .fin neg 0 e else .fin neg m e
  | v => v

/-- A result word with its flags. -/
structure FRes where
  w : Nat
  fl : Flags := 0
  deriving DecidableEq, Repr

/-- Whether a magnitude k + rem / 2^shift is rounded up. -/
def roundsUp (mode : RMode) (neg : Bool) (k rem shift : Nat) : Bool :=
  match mode with
  | .rn => decide (2 ^ shift < 2 * rem) || (2 * rem = 2 ^ shift && k % 2 = 1)
  | .rz => false
  | .rp => !neg && rem ≠ 0
  | .rm => neg && rem ≠ 0

/-- m × 2^e as a multiple of 2^q, rounded: the multiple and whether it is inexact. -/
def quantize (mode : RMode) (neg : Bool) (m : Nat) (e q : Int) : Nat × Bool :=
  if q ≤ e then (m * 2 ^ (e - q).toNat, false)
  else
    let sh := (q - e).toNat
    let k := m / 2 ^ sh
    let rem := m % 2 ^ sh
    (if roundsUp mode neg k rem sh then k + 1 else k, rem ≠ 0)

/-- The overflow result of a sign in a mode (R55). -/
def overflow (f : FF) (mode : RMode) (sat neg : Bool) : Nat :=
  f.sign neg +
    (if sat then f.maxCode
     else if !f.ieee then 2 ^ (f.eb + f.mb) - 1
     else
       match mode with
       | .rn => f.infCode
       | .rz => f.maxCode
       | .rp => if neg then f.maxCode else f.infCode
       | .rm => if neg then f.infCode else f.maxCode)

/-- The finite value (−1)^neg × m × 2^e rounded once to a format (R52, R53, R55). An overflow without .SAT of a format
that has no infinities gives its canonical NaN, whose sign is clear. -/
def roundPack (f : FF) (mode : RMode) (sat fz neg : Bool) (m : Nat) (e : Int) : FRes :=
  if m = 0 then { w := f.sign neg }
  else
    let top : Int := Nat.log2 m + e
    let q0 := top - f.mb
    let q := if q0 < f.qmin then f.qmin else q0
    let r := quantize mode neg m e q
    let code := ((q - f.qmin).toNat) * 2 ^ f.mb + r.1
    let u := quantize mode neg m e q0
    let tiny := q0 < f.qmin && decide (u.1 < 2 ^ (f.mb + 1 + (f.qmin - q0).toNat - 1))
    if f.maxCode < code then
      { w := if !f.ieee && !sat then f.nan else overflow f mode sat neg, fl := OF ||| NX }
    else if fz && f.flushes && decide (code < 2 ^ f.mb) then { w := f.sign neg, fl := UF ||| NX }
    else
      { w := f.sign neg + code,
        fl := (if r.2 then NX else 0) ||| (if tiny && r.2 then UF else 0) }

/-- A value rounded to a format; an infinity of a format that has none follows R55. -/
def pack (f : FF) (mode : RMode) (sat fz : Bool) : FVal → FRes
  | .nan => { w := f.nan }
  | .inf neg => { w := if sat then f.sign neg + f.maxCode else if f.ieee then f.sign neg + f.infCode else f.nan }
  | .fin neg m e => roundPack f mode sat fz neg m e

/-- narrow (06 Table 6.17): an F32 word rounded to a format. -/
def narrow (f : FF) (mode : RMode) (sat fz : Bool) (x : Nat) : FRes := pack f mode sat fz (decodeFz f32 fz x)

/-! ## Exact arithmetic -/

/-- A finite value as a multiple of 2^q, for q at or below its exponent. -/
def scaled (neg : Bool) (m : Nat) (e q : Int) : Int :=
  let k : Int := m * 2 ^ (e - q).toNat
  if neg then -k else k

/-- The sum of two values; an exact zero sum of unlike signs is +0, or −0 toward −∞. -/
def addV (mode : RMode) : FVal → FVal → FVal × Flags
  | .nan, _ => (.nan, 0)
  | _, .nan => (.nan, 0)
  | .inf a, .inf b => if a = b then (.inf a, 0) else (.nan, NV)
  | .inf a, _ => (.inf a, 0)
  | _, .inf b => (.inf b, 0)
  | .fin a m e, .fin b n k =>
    let q := if e < k then e else k
    let z := scaled a m e q + scaled b n k q
    if z = 0 then
      (.fin (if m = 0 && n = 0 && a = b then a else mode = .rm) 0 q, 0)
    else (.fin (z < 0) z.natAbs q, 0)

def negV : FVal → FVal
  | .nan => .nan
  | .inf a => .inf (!a)
  | .fin a m e => .fin (!a) m e

def mulV : FVal → FVal → FVal × Flags
  | .nan, _ => (.nan, 0)
  | _, .nan => (.nan, 0)
  | .inf a, .inf b => (.inf (a != b), 0)
  | .inf a, .fin b n _ => if n = 0 then (.nan, NV) else (.inf (a != b), 0)
  | .fin a m _, .inf b => if m = 0 then (.nan, NV) else (.inf (a != b), 0)
  | .fin a m e, .fin b n k => (.fin (a != b) (m * n) (e + k), 0)

/-- Order of two values that are not NaN: minus, zero or plus one; zeros compare equal. -/
def cmpV : FVal → FVal → Int
  | .inf a, .inf b => if a = b then 0 else if a then -1 else 1
  | .inf a, _ => if a then -1 else 1
  | _, .inf b => if b then 1 else -1
  | .fin a m e, .fin b n k =>
    let q := if e < k then e else k
    let x := scaled a m e q
    let y := scaled b n k q
    if x < y then -1 else if x = y then 0 else 1
  | _, _ => 0

def FVal.isNan : FVal → Bool | .nan => true | _ => false
def FVal.neg? : FVal → Bool | .fin a _ _ => a | .inf a => a | .nan => false
def FVal.isZero : FVal → Bool | .fin _ m _ => m = 0 | _ => false
def FVal.isInf : FVal → Bool | .inf _ => true | _ => false

/-! ## Operations on words of one format -/

def add (f : FF) (mode : RMode) (fz : Bool) (x y : Nat) : FRes :=
  let r := addV mode (decodeFz f fz x) (decodeFz f fz y)
  let p := pack f mode false fz r.1
  { p with fl := p.fl ||| r.2 }

def neg (f : FF) (x : Nat) : Nat := x ^^^ 2 ^ (f.eb + f.mb)

def sub (f : FF) (mode : RMode) (fz : Bool) (x y : Nat) : FRes := add f mode fz x (neg f y)

def mul (f : FF) (mode : RMode) (fz : Bool) (x y : Nat) : FRes :=
  let r := mulV (decodeFz f fz x) (decodeFz f fz y)
  let p := pack f mode false fz r.1
  { p with fl := p.fl ||| r.2 }

def fma (f : FF) (mode : RMode) (fz : Bool) (x y z : Nat) : FRes :=
  let r := mulV (decodeFz f fz x) (decodeFz f fz y)
  let r2 := addV mode r.1 (decodeFz f fz z)
  let p := pack f mode false fz r2.1
  { p with fl := p.fl ||| r.2 ||| r2.2 }

/-- minimumNumber and maximumNumber of IEEE 754-2019: a NaN loses, −0 is below +0. -/
def minMax (f : FF) (max fz : Bool) (x y : Nat) : FRes :=
  let a := decodeFz f fz x
  let b := decodeFz f fz y
  let out (v : FVal) : FRes := pack f .rn false false v
  if a.isNan then out b
  else if b.isNan then out a
  else
    let c := cmpV a b
    let aFirst := if c = 0 then (if max then !a.neg? else a.neg?) else if max then decide (0 < c) else decide (c < 0)
    out (if aFirst then a else b)

/-- F32 addition to nearest even, subnormals kept, as atomics and commutative updates use it (03 Table 3.5a). -/
def addF32 (x y : Nat) : Nat := (add f32 .rn false x y).w

/-! ## Error-feedback narrowing (R66) -/

/-- The narrowed element, the new residue and the flags. -/
def errorFeedback (f : FF) (sat : Bool) (x e : Nat) : Nat × Nat × Flags :=
  let t := add f32 .rn false x e
  let y := narrow f .rn sat false t.w
  let tv := decode f32 t.w
  let yv := decode f y.w
  let finite (v : FVal) : Bool := match v with | .fin _ _ _ => true | _ => false
  let e' := if finite tv && finite yv then (pack f32 .rn false false (addV .rn tv (negV yv)).1).w else 0
  (y.w, e', t.fl ||| y.fl)

end Sys2Proof.Fl
end

