-- ==== Sys2Proof/Machine/Dequant.lean ====
section
/-! DEFINITION. Decoding of asymmetric and MX elements (02 R50, R56 to R58) and quantization (08 R259). -/

namespace Sys2Proof.Machine

open Sys2Proof Fl

/-- Zero point and scale word of an asymmetric scale entry (Table 2.4). -/
def scaleZ (entry : Nat) : Nat := Bits.field entry 16 8
def scaleS (entry : Nat) : FVal := decode f16 (entry % 65536)

/-- The entry is malformed for 4-bit or 8-bit codes. -/
def scaleBad (a4 : Bool) (entry : Nat) : Bool := Bits.field entry 24 8 ≠ 0 || (a4 && decide (15 < scaleZ entry))

/-- (q − Z) × S (R57); a zero is +0. -/
def asymValue (a4 : Bool) (q entry : Nat) : FVal :=
  if scaleBad a4 entry then .nan
  else
    let k : Int := (q : Int) - scaleZ entry
    match scaleS entry with
    | .nan => .nan
    | .inf n => if k = 0 then .nan else .inf (n != decide (k < 0))
    | .fin n m e => if k = 0 || m = 0 then .fin false 0 0 else .fin (n != decide (k < 0)) (k.natAbs * m) e

/-- Layout of an MX element. -/
def mxFF (fmt : BitVec 6) : FF := if fmt = Fmt.MX4 then e2m1 else if fmt = Fmt.MX8E4 then e4m3 else e5m2

/-- The element times 2^(E − 127) (R58). -/
def mxValue (fmt : BitVec 6) (code e8 : Nat) : FVal :=
  if e8 = 0xFF then .nan
  else
    match decode (mxFF fmt) code with
    | .fin n m e => .fin n m (e + e8 - 127)
    | v => v

/-- The value of a code of an asymmetric or MX format under its scale, a scale entry or an E8M0 byte. -/
def codeValue (fmt : BitVec 6) (code scale : Nat) : FVal :=
  if Fmt.isAsym fmt then asymValue (Fmt.isA4 fmt) code scale else mxValue fmt code (scale % 256)

/-- Decoded to F32, F16x2 or BF16x2: one rounding to nearest even, without flags. -/
def decodeCode (dst fmt : BitVec 6) (code scale : Nat) : Nat := (pack (ffOf dst) .rn false false (codeValue fmt code scale)).w

/-- A magnitude n / d rounded to an integer in a mode, and whether it changed. -/
def roundRatio (mode : RMode) (neg : Bool) (n d : Nat) : Nat × Bool :=
  let q := n / d
  let r := n % d
  let up := match mode with
    | .rn => decide (d < 2 * r) || (2 * r = d && q % 2 = 1)
    | .rz => false
    | .rp => !neg && r ≠ 0
    | .rm => neg && r ≠ 0
  (if up then q + 1 else q, r ≠ 0)

/-- The code of one value in QZ (R259), with its flags. -/
def quantCode (a4 : Bool) (mode : RMode) (entry x : Nat) : FRes :=
  let top : Int := if a4 then 15 else 255
  let z : Int := scaleZ entry
  let bad : FRes := { w := if a4 then scaleZ entry % 16 else scaleZ entry, fl := NV }
  match scaleS entry with
  | .nan => bad
  | .inf _ => bad
  | .fin sn sm se =>
    if sm = 0 || scaleBad a4 entry then bad
    else
      match decode f32 x with
      | .nan => { w := scaleZ entry, fl := NV }
      | .inf n => { w := if n != sn then 0 else top.toNat, fl := NX }
      | .fin n m e =>
        let neg := n != sn
        let d := e - se
        let r := if 0 ≤ d then roundRatio mode neg (m * 2 ^ d.toNat) sm else roundRatio mode neg m (sm * 2 ^ (-d).toNat)
        let t : Int := (if neg then -(r.1 : Int) else r.1) + z
        let q := if t < 0 then 0 else if top < t then top else t
        { w := q.toNat, fl := if r.2 || q ≠ t then NX else 0 }

end Sys2Proof.Machine
end

