-- ==== Sys2Proof/Machine/Dot.lean ====
section
/-! DEFINITION. The value of one accumulator cell after a matrix step (02 R67 to R70). -/

namespace Sys2Proof.Fl

/-- What the live products of a cell come to: a NaN, an infinity, or their sum as an integer multiple of 2^q with the
sign of a zero sum and whether some product was truncated. -/
inductive DotSum where
  | nan
  | inf (neg : Bool)
  | sum (neg : Bool) (m : Nat) (q : Int) (sticky : Bool)
  deriving DecidableEq, Repr

/-- Exponent of the leading bit of a product that is not zero. -/
def topOf : FVal → Option Int
  | .fin _ m e => if m = 0 then none else some (Nat.log2 m + e)
  | _ => none

/-- The greatest leading exponent. -/
def topAll (ps : List FVal) : Option Int :=
  ps.foldl (fun acc p =>
    match acc, topOf p with
    | some a, some b => some (if a < b then b else a)
    | none, b => b
    | a, none => a) none

/-- A product truncated toward zero to a multiple of 2^q, as that multiple, and whether that changed it. -/
def truncTo (q : Int) : FVal → Int × Bool
  | .fin neg m e =>
    let k := if q ≤ e then m * 2 ^ (e - q).toNat else m / 2 ^ (q - e).toNat
    let cut := !decide (q ≤ e) && decide (m % 2 ^ (q - e).toNat ≠ 0)
    (if neg then -(k : Int) else k, cut)
  | _ => (0, false)

def FVal.isNegZero : FVal → Bool
  | .fin true 0 _ => true
  | _ => false

/-- The sum of the exact products within the 96-bit window of R68. -/
def dotSum (ps : List FVal) : DotSum :=
  let pos := ps.any fun p => p = .inf false
  let neg := ps.any fun p => p = .inf true
  if ps.any FVal.isNan || (pos && neg) then .nan
  else if pos || neg then .inf neg
  else
    match topAll ps with
    | none => .sum (!ps.isEmpty && ps.all FVal.isNegZero) 0 0 false
    | some top =>
      let q := top - 87
      let ts := ps.map (truncTo q)
      let z := (ts.map (·.1)).sum
      .sum (z < 0) z.natAbs q (ts.any (·.2))

/-- acc + S rounded once; a sticky sum that is not zero is moved by less than any distance toward its sign. -/
def addSum (acc : FVal) (neg : Bool) (m : Nat) (q : Int) (sticky : Bool) : Nat :=
  let s := addV .rn acc (.fin neg m q)
  let v :=
    if sticky && m ≠ 0 then
      match s.1 with
      | .fin a n e =>
        let low := (if e < -150 then e else -150) - 2
        (addV .rn (.fin a n e) (.fin neg 1 low)).1
      | x => x
    else s.1
  (pack f32 .rn false false v).w

/-- One cell: the accumulator word and the live pairs of element values (R68). -/
def dotCell (acc : Nat) (pairs : List (FVal × FVal)) : Nat :=
  let a := decode f32 acc
  if a.isNan then f32.nan
  else
    match dotSum (pairs.map fun p => (mulV p.1 p.2).1) with
    | .nan => f32.nan
    | .inf neg => if a = .inf (!neg) then f32.nan else f32.infCode + f32.sign neg
    | .sum neg m q sticky => addSum a neg m q sticky

end Sys2Proof.Fl
end

