-- ==== Sys2Proof/Syntax.lean ====
section
/-! DEFINITION. The instructions of the OZ3-768H: one constructor of `Instr` per row of spec/opcode_table.json.
Constructors beginning with `c` are composer words (06 Tables 6.1 to 6.4), those beginning with `l` are lane words
(06 Tables 6.5 to 6.17a), and those beginning with `e` are the events of the die services, which no word encodes.
Operands are held in records of the fields the formats name, each at its own width. -/

namespace Sys2Proof

/-- Fields of a format V word (06 Table 6.6) other than its opcode. -/
structure VOps where
  keepa : BitVec 1 := 0
  dst   : BitVec 8 := 0
  sa    : BitVec 8 := 0
  sb    : BitVec 8 := 0
  mod   : BitVec 12 := 0
  sc    : BitVec 8 := 0
  fmt   : BitVec 6 := 0
  qual  : BitVec 5 := 0
  deriving DecidableEq, Repr

/-- Fields of a format I word (06 Table 6.9). -/
structure IOps where
  dst : BitVec 8 := 0
  imm : BitVec 32 := 0
  deriving DecidableEq, Repr

/-- Fields of a format M word (06 Table 6.10). -/
structure MOps where
  data : BitVec 8 := 0
  base : BitVec 6 := 0
  ofs  : BitVec 8 := 0
  scl  : BitVec 2 := 0
  imm  : BitVec 20 := 0
  szf  : BitVec 6 := 0
  mode : BitVec 6 := 0
  deriving DecidableEq, Repr

/-- Fields of a format X word (06 Table 6.13). -/
structure XOps where
  ra  : BitVec 8 := 0
  rb  : BitVec 8 := 0
  tr  : BitVec 4 := 0
  tc  : BitVec 4 := 0
  bat : BitVec 4 := 0
  cnt : BitVec 12 := 0
  fmt : BitVec 6 := 0
  xq  : BitVec 10 := 0
  deriving DecidableEq, Repr

/-- Fields of a format C word (06 Table 6.15). -/
structure COps where
  cond : BitVec 8 := 0
  link : BitVec 8 := 0
  t1   : BitVec 12 := 0
  t2   : BitVec 12 := 0
  k    : BitVec 8 := 0
  neg  : BitVec 1 := 0
  deriving DecidableEq, Repr

/-- Containers moved per strand: the base opcode, .X2 or .X4 (06 R190). -/
inductive Cnt where
  | x1 | x2 | x4
  deriving DecidableEq, Repr

/-- The integer instructions, which have a .W form at opcode + 0x20 (08 R251). -/
inductive IntOp where
  | iadd | isub | imul | imulh | imad | imin | imax | iabs | idot4
  | and | or | xor | andn | not | shl | shr | sha | rotl | popc | clz | brev
  | bfe | bfi | icmp | sel
  deriving DecidableEq, Repr

/-- A party of one core whose stores enter the core's store order S (04 R103, R110). -/
inductive Party where
  | composer
  | group (g : Nat)
  deriving DecidableEq, Repr

/-- The moves of a queued write (04 R110, Table 4.3): the oldest write of a party enters S, the cluster crossbar accepts
the k-th write of S, or that write reaches its home slice or target bank. -/
inductive StoreStage where
  | enterS (p : Party)
  | accept (k : Nat)
  | perform (k : Nat)
  deriving DecidableEq, Repr

/-- A copy engine: that of a core, or the die's (10 R327). -/
inductive CopyEng where
  | core (c : Nat)
  | die
  deriving DecidableEq, Repr

/-- What a peer request asks of the exporter (01 R23). -/
inductive PeerOp where
  | read (n : Nat)
  | write (bytes : List Byte)
  | atomic (op : BitVec 5) (fmt : BitVec 6) (x y : Word64)
  | cu (op : BitVec 5) (fmt : BitVec 6) (x : Word64) (pkg die unit : Nat)   -- with its holder's key (03 R94)
  deriving DecidableEq, Repr

/-- A peer request as it reaches the exporting die: the export it names, the generation under which its import
was made, the byte offset in the export, and whether the handle grants writes and atomics (01 R22 to R24). -/
structure PeerReq where
  expDie : Nat
  exp    : Nat
  gen    : BitVec 16
  off    : Nat
  rw     : Bool
  ra     : Bool
  op     : PeerOp
  pkg    : Nat := 0     -- the requester, which takes the answer
  die    : Nat := 0
  deriving DecidableEq, Repr

/-- A READY message of a gang member (11 R361, R362). -/
structure ReadyMsg where
  gangId : Word32
  tick   : Word64
  nm1    : BitVec 4
  self   : BitVec 4
  crc    : Word32
  pkg    : BitVec 14
  die    : BitVec 2
  deriving DecidableEq, Repr

/-- A power-intent message (12 Table 12.16). -/
structure IntentMsg where
  job   : Word32
  dw    : Nat
  slot  : Nat
  ktick : Nat
  kpkg  : BitVec 14
  deriving DecidableEq, Repr

/-- A Myhagen image (14 R406): its header of 512 bytes, its body, its public key and its signature. -/
structure Image where
  header   : List Byte
  body     : List Byte
  key      : List Byte
  signature : List Byte
  deriving DecidableEq, Repr

/-- A host request to a function: an offset in a BAR, and a load of n bytes or a store (14 R398). -/
inductive HostOp where
  | read (n : Nat)
  | write (bytes : List Byte)
  | unit (j : Nat)         -- the j-th unit left of the function's request under way is served (04 Table 4.4)
  deriving DecidableEq, Repr

/-- Which party asks for a pre-emption (13 R389). -/
inductive PreemptBy where
  | dispatcher | quota | firmware
  deriving DecidableEq, Repr

/-- What firmware resumes (13 R382, R386), and what else it does between faults: its debug agent sets or clears GSW.STEP
of a group (R394), and a management core takes its next event or ends the one it handles (11 R364). -/
inductive Master where
  | composer
  | group (g : Nat)
  | team
  | arm (g : Nat) (on : Bool)
  | core (k : Nat)
  deriving DecidableEq, Repr

/-- The name of a launch on its die: its queue (1,024 + n for package queue n) and its slot number (11 R359). -/
structure LKey where
  q    : Nat
  slot : Nat
  deriving DecidableEq, Repr

/-- A register block that a register write addresses (01 R18, 11 R347, 12 R368, 14 R402). -/
inductive RegBlock where
  | die (d : Nat)          -- die register block of core die d
  | control                -- control-die register block
  | queue (d q : Nat)      -- control page of queue q of die d; q at or above 1,024 is package queue q - 1,024
  | table (d : Nat)        -- table memory of die d (01 R9)
  | route                  -- Swiax routing table (14 R403)
  | window (fn : Nat)      -- host-window page map of a function (14 R398)
  | import (d : Nat)       -- import entry of die d (01 R25)
  | memory (d : Nat) (write : Bool)   -- HBM of die d by physical address, written, or read (04 Table 4.1)
  | context (d : Nat) (l : LKey) (core : Nat)   -- the saved context of a core of a pre-empted launch, read (13 R393)
  deriving DecidableEq, Repr

/-- A link that comes up or goes down: a die link of the triangle, or a Swiax link (10 R345, 14 R403). -/
inductive LinkId where
  | die (k : Nat)
  | swiax (k : Nat)
  deriving DecidableEq, Repr

/-- A Swiax flit (14 Table 14.3). -/
structure Flit where
  dpkg : BitVec 14
  ddie : BitVec 2
  vc   : Byte
  seq  : Byte
  ack  : Byte
  payload : List Byte
  crc  : Word64
  deriving DecidableEq, Repr

/-- The instructions and events, one constructor per row of spec/opcode_table.json. An event of a die service
happens on the die that the executing agent names (`State.cur`). -/
inductive Instr where
  -- composer ALU group (06 Table 6.3, 07 R208)
  | cAdd (d a b : BitVec 5)
  | cSub (d a b : BitVec 5)
  | cMul (d a b : BitVec 5)
  | cMulh (d a b : BitVec 5)
  | cDivu (d a b : BitVec 5)
  | cRemu (d a b : BitVec 5)
  | cAnd (d a b : BitVec 5)
  | cOr (d a b : BitVec 5)
  | cXor (d a b : BitVec 5)
  | cShl (d a b : BitVec 5)
  | cShr (d a b : BitVec 5)
  | cSra (d a b : BitVec 5)
  | cSlt (d a b : BitVec 5)
  | cSltu (d a b : BitVec 5)
  | cMin (d a b : BitVec 5)
  | cMax (d a b : BitVec 5)
  | cAddi (d a : BitVec 5) (i : BitVec 16)
  | cAndi (d a : BitVec 5) (i : BitVec 16)
  | cOri (d a : BitVec 5) (i : BitVec 16)
  | cXori (d a : BitVec 5) (i : BitVec 16)
  | cShli (d a : BitVec 5) (n : BitVec 6)
  | cShri (d a : BitVec 5) (n : BitVec 6)
  | cSrai (d a : BitVec 5) (n : BitVec 6)
  | cSlti (d a : BitVec 5) (i : BitVec 16)
  | cLui (d : BitVec 5) (i : BitVec 16)
  | cInsf (d a : BitVec 5) (l p : BitVec 6)
  | cExtf (d a : BitVec 5) (l p : BitVec 6)
  -- composer memory (06 Table 6.4, 07 R210 to R213)
  | cLd (d a : BitVec 5) (z s : BitVec 2) (o : BitVec 12)
  | cSt (d a : BitVec 5) (z s : BitVec 2) (o : BitVec 12)
  | cAmo (d a b : BitVec 5) (o : BitVec 2) (s : BitVec 1) (z r : BitVec 2) (c : BitVec 3)
  | cFence (k : BitVec 2) (c : BitVec 3)
  -- composer branches (07 R214)
  | cBeq (a b : BitVec 5) (o : BitVec 16)
  | cBne (a b : BitVec 5) (o : BitVec 16)
  | cBlt (a b : BitVec 5) (o : BitVec 16)
  | cBge (a b : BitVec 5) (o : BitVec 16)
  | cBltu (a b : BitVec 5) (o : BitVec 16)
  | cBgeu (a b : BitVec 5) (o : BitVec 16)
  | cJal (d : BitVec 5) (o : BitVec 21)
  | cJalr (d a : BitVec 5) (i : BitVec 16)
  -- composer events and ends (07 R231, R232, R238, R239)
  | cEvwait (d : BitVec 5)
  | cBrkc (i : BitVec 16)
  -- emission (07 R215 to R223)
  | cEmit (a : BitVec 5)
  | cEmitt (a b c : BitVec 5)
  | cEmitb (a b : BitVec 5)
  | cEmitr (a b c : BitVec 5)
  | cEmith (a : BitVec 5)
  | cSeal (d : BitVec 5)
  -- groups and frames (07 R224 to R229)
  | cRun (a b : BitVec 5)
  | cWaitf (a b : BitVec 5)
  | cFree (a : BitVec 5)
  | cGctlStop (a : BitVec 5)
  | cGctlResume (a : BitVec 5)
  | cGctlStep (a : BitVec 5)
  | cGctlKill (a : BitVec 5)
  -- work, shapes, dependences, special registers (07 R233 to R237)
  | cWfetch (d : BitVec 5)
  | cMkshp (d a : BitVec 5)
  | cMfs (d : BitVec 5) (s : BitVec 12)
  | cMts (a : BitVec 5) (s : BitVec 12)
  -- lane integer instructions (08 R246 to R251)
  | lIadd (o : VOps)
  | lIsub (o : VOps)
  | lImul (o : VOps)
  | lImulh (o : VOps)
  | lImad (o : VOps)
  | lImin (o : VOps)
  | lImax (o : VOps)
  | lIabs (o : VOps)
  | lIdot4 (o : VOps)
  | lAnd (o : VOps)
  | lOr (o : VOps)
  | lXor (o : VOps)
  | lAndn (o : VOps)
  | lNot (o : VOps)
  | lShl (o : VOps)
  | lShr (o : VOps)
  | lSha (o : VOps)
  | lRotl (o : VOps)
  | lPopc (o : VOps)
  | lClz (o : VOps)
  | lBrev (o : VOps)
  | lBfe (o : VOps)
  | lBfi (o : VOps)
  | lIcmp (o : VOps)
  | lSel (o : VOps)
  | lWform (op : IntOp) (o : VOps)
  -- lane floating point (08 R252, R253) and special functions (08 R254)
  | lFadd (o : VOps)
  | lFsub (o : VOps)
  | lFmul (o : VOps)
  | lFfma (o : VOps)
  | lFmin (o : VOps)
  | lFmax (o : VOps)
  | lFcmp (o : VOps)
  | lFclass (o : VOps)
  | lFscale (o : VOps)
  | lFrnd (o : VOps)
  | lFrcp (o : VOps)
  | lFrsq (o : VOps)
  | lFsqrt (o : VOps)
  | lFexp2 (o : VOps)
  | lFlog2 (o : VOps)
  | lFsin (o : VOps)
  | lFcos (o : VOps)
  | lFtanh (o : VOps)
  | lFsigm (o : VOps)
  -- lane conversion (08 R255 to R260)
  | lCvt (o : VOps)
  | lCvtn (o : VOps)
  | lCvtw (o : VOps)
  | lDq (o : VOps)
  | lQz (o : VOps)
  | lEfclr (o : VOps)
  | lEfmov (o : VOps)
  -- moves, masked operations, index registers (08 R261 to R269)
  | lMov (o : VOps)
  | lMovi (o : IOps)
  | lWmov (o : VOps)
  | lPrmt (o : VOps)
  | lShfl (o : VOps)
  | lVote (o : VOps)
  | lGred (o : VOps)
  | lXset (o : VOps)
  | lXadd (o : VOps)
  | lXld (o : VOps)
  | lXst (o : VOps)
  -- lane memory (09 R270 to R283)
  | lLd (n : Cnt) (o : MOps)
  | lSt (n : Cnt) (o : MOps)
  | lLds (n : Cnt) (o : MOps)
  | lSts (n : Cnt) (o : MOps)
  | lFeopSetf (o : MOps)
  | lFeopSete (o : MOps)
  | lFeopRdf (o : MOps)
  | lAtom (o : MOps)
  | lRed (o : MOps)
  | lRedCu (o : MOps)
  | lPref (o : MOps)
  | lFence (o : MOps)
  -- lane synchronisation (09 R286 to R293)
  | lSync (o : VOps)
  | lRvinit (o : VOps)
  | lArrive (o : VOps)
  | lWait (o : VOps)
  | lRarrive (o : VOps)
  | lSpana (o : VOps)
  | lSpanw (o : VOps)
  -- lane control (09 R294 to R301)
  | lBra (o : COps)
  | lBrx (o : COps)
  | lCall (o : COps)
  | lRet (o : COps)
  | lIf (o : COps)
  | lElse (o : COps)
  | lEndif (o : COps)
  | lLoop (o : COps)
  | lBreak (o : COps)
  | lCont (o : COps)
  | lEndl (o : COps)
  | lExit (o : COps)
  | lYield (o : COps)
  | lNop (o : COps)
  -- lane system (09 R302 to R306)
  | lTfence (o : VOps)
  | lTrap (o : VOps)
  | lBrk (o : VOps)
  | lRds (o : VOps)
  | lWrs (o : VOps)
  -- matrix, copy and collective (10 R307 to R345)
  | lMma (o : XOps)
  | lMloop (o : XOps)
  | lMbatch (o : XOps)
  | lMwait (o : XOps)
  | lAclr (o : XOps)
  | lAld (o : XOps)
  | lAst (o : XOps)
  | lScfeed (o : XOps)
  | lCpy (o : XOps)
  | lCwait (o : XOps)
  | lColl (o : XOps)
  | lCtrig (o : XOps)
  | lCdisarm (o : XOps)
  -- events inside a core and its memory path
  | eRendezvousRelease (c g slot : Nat)
  | eSpanRelease (c g slot : Nat)
  | eFeGranuleServe (c g slot granule : Nat)
  | eLoadReturn (c g : Nat)
  | eStorePerformed (c : Nat) (st : StoreStage)
  | eHomeAgentAccess (c k : Nat)
  | eTlbInvalidateRange (v : Word64)
  | eTlbInvalidateAll (v : Word64)
  | ePeerRequest (r : PeerReq)
  | eRevocationComplete (e : Nat)
  | eMatrixStep (c : Nat)
  | eMatrixAction (c : Nat)
  | eCopyChunk (e : CopyEng) (k : Nat)
  | eCopyCompletion (e : CopyEng) (k : Nat)
  -- Hawker, queues and dispatch
  | eClaim (q : Nat)
  | eCommit (q : Nat) (data : Word64)
  | eLaunch (q : Nat)
  | eTemplateImageLoad (l : LKey)
  | eTeamStart (c : Nat) (l : LKey)
  | eTeamRetire (c : Nat)
  | eCopy (q : Nat)
  | eWaitdep (q : Nat)
  | eWaitdepPoll (q : Nat)
  | eSignal (q : Nat)
  | eGang (q : Nat)
  | eGangReady (q : Nat) (m : ReadyMsg)
  | eGangGo (q : Nat)
  | eGangStart (q : Nat)
  | eCollective (q : Nat)
  | eNopPacket (q : Nat)
  | eQuotaExhausted (l : LKey)
  -- power
  | ePermitRefill (c : Nat)
  | eIntentMessage (m : IntentMsg)
  -- pre-emption, firmware, debug
  | ePreemptionRequest (l : LKey) (why : PreemptBy)
  | ePreemptionAck (c : Nat)
  | eLaunchResume (l : LKey)
  | eFirmwareResume (c : Nat) (m : Master)
  | eFirmwareEndLaunch (l : LKey) (status cause : Byte)
  | eComposerDebugStep (c : Nat)
  | eClusterGate (n : Nat)
  | eClusterUngate (n : Nat)
  -- host and management mailbox
  | eHostRequest (fn bar off : Nat) (op : HostOp)
  | eFunctionLevelReset (fn : Nat)
  | eExport (d : Nat) (va len : Word64) (rw ra : Bool)
  | eImport (d : Nat) (handle : BitVec 128) (off : Word64)
  | eRevoke (d e : Nat)
  | eFnclear (fn : Option Nat) (d imp : Nat)
  | eDieoff (d : Nat)
  | eDieon (d : Nat)
  -- fabric, time base, bring-up, registers
  | eSwiaxFlit (link : Nat) (f : Flit)
  | eFlitReplay (link : Nat)
  | eLinkDown (link : Nat)
  | eDieLinkFailure (link : Nat)
  | eTimeMessage (master : Word64) (hops : BitVec 16)
  | ePackageReset (images : List Image) (answers : BitVec 3) (trained : BitVec 3)
  | eRegisterWrite (b : RegBlock) (off : Nat) (v : Word64)
  | eLinkUp (l : LinkId)
  | eApertureRequestUnanswered (c : Nat) (p : Party)
  -- words that are no instruction
  | xAbsentComposerOpcode (w : Word32)
  | xUnallocatedLaneOpcode (w : Word64)
  -- instructions and events without operands, wherever their rows stand in the table
  | cEret
  | cDone
  | cLtrig
  | cDepwait
  | eTranslationWalk
  | eTlbInvalidationComplete
  | eCollectiveChunkSelect
  | eHopFwd
  | eHopRedaddF32
  | eHopRedaddBf16
  | eHopMin
  | eHopMax
  | eHopDeposit
  | eHopMcast
  | eHopSignal
  | eCollectiveCompletion
  | eHawkerFetchServe
  | eDispatchDraw
  | eWatchItemRetry
  | eDieInterval
  | eBucketInstallment
  | ePackageBell
  | eGrantArrival
  | eFloorTimeout
  | eIntentDecision
  | eAttest
  | eIdent
  | eTimeBaseLost
  deriving DecidableEq, Repr

end Sys2Proof
end

