-- ==== Sys2Proof/Machine/Checks.lean ====
section
/-! DEFINITION. The checks that a lane word passes before it has any effect, by their numbers (06 R197), and the
checks of a composer word (06 R180). Each function answers whether the instruction passes. -/

namespace Sys2Proof.Checks

open Sys2Proof

/-! ## Operand specifiers (06 R183) -/

/-- A specifier from 192 to 255 names a uniform register. -/
def isUni (s : BitVec 8) : Bool := decide (192 ≤ s.toNat)

/-- The specifier names a vector register that the team declares, or a uniform register. -/
def specOk (vregs : Nat) (s : BitVec 8) : Bool := isUni s || decide (s.toNat < vregs)

/-- The specifier names a declared vector register. -/
def vecOk (vregs : Nat) (s : BitVec 8) : Bool := decide (s.toNat < vregs) && !isUni s

/-- First register of a 64-bit operand: even, and neither v191 nor w62 (02 R47). -/
def pairOk (s : BitVec 8) : Bool := decide (s.toNat % 2 = 0) && decide (s.toNat ≠ 254)

/-- A run of n registers from the specifier stays within v0 to v(vregs - 1), or within w0 to w62 (09 R270). -/
def runOk (vregs : Nat) (s : BitVec 8) (n : Nat) : Bool :=
  if isUni s then decide (s.toNat + n ≤ 255) else decide (s.toNat + n ≤ vregs)

/-! ## Format V -/

/-- How an instruction uses an operand field of a V word. -/
inductive Use where
  | none   -- the field must be zero
  | any    -- vector or uniform
  | vec    -- vector only
  | uni    -- uniform only
  | ext    -- an instruction-specific rule of `vExtra5` covers it
  deriving DecidableEq, Repr

/-- How an instruction uses SC. -/
inductive ScUse where
  | none              -- must be zero
  | src               -- source C specifier
  | code (n : Nat)    -- a code below n; the rest are reserved
  | bits (m : BitVec 8) -- the bits of m are used, the others must be zero
  deriving DecidableEq, Repr

/-- The field use of one V instruction (08 Tables 8.2 to 8.5, 09 Tables 9.4 and 9.6). -/
structure VUse where
  dst  : Use := .vec
  a    : Use := .any
  b    : Use := .none
  bmod : Bool := true         -- source B takes the modifier of R184
  sc   : ScUse := .none
  fmts : List (BitVec 6) := []  -- accepted formats; [] means FMT must be zero
  qual : BitVec 5 := 0        -- qualifier bits that may be set
  p64  : Bool := false        -- 64-bit formats make A, B, DST register pairs
  b64  : Bool := true         -- ... B among them
  d64  : Bool := true         -- ... DST among them
  deriving Repr

/-- The .SAT bit of the integer class (06 Table 6.8). -/
def satBit : BitVec 5 := 0b10000

def int2 (fmts : List (BitVec 6)) (sat : Bool) : VUse :=
  { b := .any, fmts := fmts, qual := if sat then satBit else 0, p64 := true }
def int1 (fmts : List (BitVec 6)) (sat : Bool) : VUse :=
  { fmts := fmts, qual := if sat then satBit else 0, p64 := true }
def int3 (fmts : List (BitVec 6)) (sat : Bool) : VUse :=
  { b := .any, sc := .src, fmts := fmts, qual := if sat then satBit else 0 }

/-- Table 8.2. -/
def intUse : IntOp → VUse
  | .iadd | .isub => int2 Fmt.ints true
  | .imul => int2 Fmt.ints32 true
  | .imulh => int2 [Fmt.I32, Fmt.N32] false
  | .imad => int3 Fmt.ints32 true
  | .imin | .imax => int2 Fmt.ints false
  | .iabs => int1 [Fmt.I32, Fmt.I16x2, Fmt.I8x4, Fmt.I64] true
  | .idot4 => int3 [Fmt.I8x4, Fmt.N8x4] true
  | .and | .or | .xor | .andn => int2 Fmt.ints false
  | .not => int1 Fmt.ints false
  | .shl | .shr | .sha => { int2 Fmt.ints false with b64 := false }
  | .rotl => int2 [Fmt.I32, Fmt.N32] false
  | .popc | .clz | .brev => int1 [Fmt.I32, Fmt.N32] false
  | .bfe => int2 [Fmt.I32, Fmt.N32] false
  | .bfi => int3 [Fmt.I32, Fmt.N32] false
  | .icmp => { int2 Fmt.ints false with sc := .code 6, d64 := false }
  | .sel => int3 Fmt.ints32 false

/-- Every specifier of a .W form names a uniform register and MOD is zero (06 R186). -/
def wUse (op : IntOp) : VUse :=
  let u := intUse op
  { u with dst := .uni, a := .uni, b := if u.b = .none then .none else .uni }

def flt2 (rnd : Bool) : VUse :=
  { b := .any, fmts := Fmt.vecFloats, qual := if rnd then 0b11100 else 0b00100 }
def flt1 (q : BitVec 5) : VUse := { fmts := Fmt.vecFloats, qual := q }

/-- Synchronisation and system instructions take no format (09 R286, R302). -/
def sysUse (dst a : Use) (sc : ScUse) : VUse := { dst := dst, a := a, sc := sc }

/-- Field use of every V instruction with its operands; `none` for an instruction of another format. -/
def vUse : Instr → Option (VUse × VOps)
  | .lIadd o => some (intUse .iadd, o) | .lIsub o => some (intUse .isub, o)
  | .lImul o => some (intUse .imul, o) | .lImulh o => some (intUse .imulh, o)
  | .lImad o => some (intUse .imad, o) | .lImin o => some (intUse .imin, o)
  | .lImax o => some (intUse .imax, o) | .lIabs o => some (intUse .iabs, o)
  | .lIdot4 o => some (intUse .idot4, o) | .lAnd o => some (intUse .and, o)
  | .lOr o => some (intUse .or, o) | .lXor o => some (intUse .xor, o)
  | .lAndn o => some (intUse .andn, o) | .lNot o => some (intUse .not, o)
  | .lShl o => some (intUse .shl, o) | .lShr o => some (intUse .shr, o)
  | .lSha o => some (intUse .sha, o) | .lRotl o => some (intUse .rotl, o)
  | .lPopc o => some (intUse .popc, o) | .lClz o => some (intUse .clz, o)
  | .lBrev o => some (intUse .brev, o) | .lBfe o => some (intUse .bfe, o)
  | .lBfi o => some (intUse .bfi, o) | .lIcmp o => some (intUse .icmp, o)
  | .lSel o => some (intUse .sel, o)
  | .lWform op o => some (wUse op, o)
  | .lFadd o | .lFsub o | .lFmul o => some (flt2 true, o)
  | .lFfma o => some ({ flt2 true with sc := .src }, o)
  | .lFmin o | .lFmax o => some (flt2 false, o)
  | .lFcmp o => some ({ flt2 false with sc := .code 8 }, o)
  | .lFclass o => some (flt1 0, o)
  | .lFscale o => some (flt2 true, o)
  | .lFrnd o | .lFsqrt o => some (flt1 0b11100, o)
  | .lFrcp o | .lFrsq o | .lFexp2 o | .lFlog2 o | .lFsin o | .lFcos o | .lFtanh o | .lFsigm o =>
      some (flt1 0b00100, o)
  | .lCvt o => some ({ sc := .bits 0xFF, fmts := [Fmt.I32, Fmt.N32, Fmt.F32], qual := 0b11110 }, o)
  | .lCvtn o => some ({ a := .ext, sc := .bits 0x07, qual := 0b11111, fmts := Fmt.narrowFloats ++ [Fmt.I16x2, Fmt.I8x4, Fmt.N16x2, Fmt.N8x4] }, o)
  | .lCvtw o => some ({ a := .ext, dst := .ext, sc := .bits 0x3F, qual := 0b11010, fmts := [Fmt.I32, Fmt.N32, Fmt.I64, Fmt.N64, Fmt.F32] }, o)
  | .lDq o => some ({ dst := .ext, b := .any, sc := .bits 0x3F, fmts := Fmt.vecFloats }, o)
  | .lQz o => some ({ a := .ext, b := .any, fmts := Fmt.asyms, qual := 0b11000 }, o)
  | .lEfclr o => some ({ dst := .none, a := .none, sc := .bits 0x07 }, o)
  | .lEfmov o => some ({ dst := .ext, a := .ext, sc := .bits 0x47 }, o)
  | .lMov o => some ({ dst := .any, a := .none, b := .any, fmts := Fmt.defined.filter (fun f => !Fmt.is64 f) }, o)
  | .lWmov o => some ({ dst := .uni, a := .vec, sc := .bits 0x1F }, o)
  | .lPrmt o => some ({ b := .any, sc := .src }, o)
  | .lShfl o => some ({ b := .uni, bmod := false, sc := .src }, o)
  | .lVote o => some ({ dst := .any, b := .uni, bmod := false, sc := .code 6 }, o)
  | .lGred o => some ({ dst := .any, b := .uni, bmod := false, sc := .code 6, fmts := [Fmt.I32, Fmt.N32, Fmt.F32] }, o)
  | .lXset o | .lXadd o => some ({ dst := .none, a := .uni, sc := .bits 0x03 }, o)
  | .lXld o => some ({ sc := .bits 0x03 }, o)
  | .lXst o => some ({ dst := .none, b := .any, sc := .bits 0x03 }, o)
  | .lSync o | .lSpana o | .lSpanw o => some (sysUse .none .uni .none, o)
  | .lRvinit o | .lWait o | .lRarrive o => some (sysUse .none .uni (.code 24), o)
  | .lArrive o => some (sysUse .uni .none (.code 24), o)
  | .lTfence o => some (sysUse .none .none .none, o)
  | .lTrap o | .lBrk o => some (sysUse .none .none (.bits 0xFF), o)
  | .lRds o => some (sysUse .any .none (.bits 0xFF), o)
  | .lWrs o => some (sysUse .none .uni (.bits 0xFF), o)
  | _ => none

/-- Rounding field of QUAL, .FZ, .SAT and .EF (06 Table 6.8). -/
def rnd (o : VOps) : BitVec 2 := o.qual.extractLsb' 3 2
def fz (o : VOps) : Bool := o.qual.getLsbD 2
def sat (o : VOps) : Bool := o.qual.getLsbD 1
def ef (o : VOps) : Bool := o.qual.getLsbD 0
/-- Source format in SC[5:0] (08 Table 8.5). -/
def srcFmt (o : VOps) : BitVec 6 := o.sc.extractLsb' 0 6

/-- Check 2 for a V word: every must-be-zero field and bit is zero (06 R182). -/
def v2 (u : VUse) (o : VOps) : Bool :=
  (u.a != .none || (o.keepa = 0 && o.sa = 0)) &&
  (u.dst != .none || o.dst = 0) &&
  (u.b != .none || o.sb = 0) &&
  ((u.b != .none && u.bmod) || o.mod = 0) &&
  (match u.sc with | .none => o.sc = 0 | .bits m => o.sc &&& ~~~m = 0 | _ => true) &&
  (!u.fmts.isEmpty || o.fmt = 0) &&
  (o.qual &&& ~~~u.qual = 0)

/-- The lane special registers of 09 Table 9.7. -/
def rdsNumbers : List Nat :=
  [0x00, 0x01, 0x02, 0x03, 0x04, 0x05, 0x06, 0x08, 0x09, 0x0A, 0x0B, 0x0C, 0x0D, 0x10, 0x11, 0x12, 0x13, 0x14]

/-- The 64-bit registers of Table 9.7. -/
def rds64 (n : Nat) : Bool := n = 0x04 || n = 0x05 || n = 0x0A || n = 0x0C || (0x10 ≤ n && n ≤ 0x14)

/-- SC of a CVT: a source format of 08 R255, and an element that its container has. -/
def cvtSource (o : VOps) : Bool :=
  let s := srcFmt o
  (Fmt.isInt s && !Fmt.is64 s || Fmt.isFloat s) && decide ((o.sc.extractLsb' 6 2).toNat < Fmt.perContainer s)

/-- The source format code of a CVTW, in SC, is one of those that R256 gives it. -/
def cvtwSource (o : VOps) : Bool := [Fmt.I32, Fmt.N32, Fmt.I64, Fmt.N64, Fmt.F32].contains (srcFmt o)

/-- Check 3 for a V word: no reserved sub-field value. The source formats of CVT and DQ stand in SC alone. -/
def v3 (i : Instr) (u : VUse) (o : VOps) : Bool :=
  (match u.sc with | .code n => decide (o.sc.toNat < n) | _ => true) &&
  (match i with
   | .lCvtn o => if ef o then rnd o = 0 && !fz o else o.sc = 0
   | .lRds o => rdsNumbers.contains o.sc.toNat
   | .lWrs o => o.sc = 0x08 || o.sc = 0x09
   | .lEfmov o => o.keepa = 0 || o.sc.getLsbD 6
   | .lCvt o => cvtSource o
   | .lCvtw o => cvtwSource o
   | .lDq o => Fmt.isAsym (srcFmt o) || Fmt.isMx (srcFmt o)
   | _ => true)

/-- The pairs of formats that CVTW accepts, destination first (08 R256). -/
def cvtwPairs : List (BitVec 6 × BitVec 6) :=
  [(Fmt.I64, Fmt.I32), (Fmt.N64, Fmt.N32), (Fmt.I32, Fmt.I64), (Fmt.N32, Fmt.N64), (Fmt.F32, Fmt.I64),
   (Fmt.F32, Fmt.N64), (Fmt.I64, Fmt.F32), (Fmt.N64, Fmt.F32)]

/-- Check 4 for a V word: the format code is defined and accepted, with every rule that relates it to a
qualifier, a source format or an operation. -/
def v4 (i : Instr) (u : VUse) (o : VOps) : Bool :=
  (u.fmts.isEmpty || u.fmts.contains o.fmt) &&
  (match i with
   | .lCvt o =>
      let s := srcFmt o
      (sat o → (Fmt.isInt s && Fmt.isInt o.fmt)) &&
      (rnd o ≠ 0 → (Fmt.isInt s != Fmt.isInt o.fmt))
   | .lCvtn o => Fmt.isFloat o.fmt || (rnd o = 0 && !fz o && !ef o)
   | .lCvtw o =>
      cvtwPairs.contains (o.fmt, srcFmt o) &&
      (sat o → (Fmt.is64 (srcFmt o) && Fmt.isInt o.fmt)) &&
      (rnd o ≠ 0 → (o.fmt = Fmt.F32 || srcFmt o = Fmt.F32))
   | .lGred o => o.fmt ≠ Fmt.F32 || decide (o.sc.toNat < 3)
   | _ => true)

def useOk (vregs : Nat) : Use → BitVec 8 → Bool
  | .none, _ => true
  | .any, s => specOk vregs s
  | .vec, s => vecOk vregs s
  | .uni, s => isUni s
  | .ext, _ => true

/-- Codes per container and destination elements per register of a DQ (08 R258): registers it writes. -/
def dqRegs (o : VOps) : Nat :=
  Fmt.perContainer (srcFmt o) / (if o.fmt = Fmt.F32 then 1 else 2)

/-- Check 5 for a V word: the specifiers meet R183 and R186, the pair rules of R47 and the run rules of the
conversions (08 R257 to R260). -/
def v5 (vregs : Nat) (i : Instr) (u : VUse) (o : VOps) : Bool :=
  useOk vregs u.dst o.dst && useOk vregs u.a o.sa && useOk vregs u.b o.sb &&
  (match u.sc with
   | .src => (match i with | .lWform _ _ => isUni o.sc | _ => specOk vregs o.sc)
   | _ => true) &&
  (if u.p64 && Fmt.is64 o.fmt then
     (u.a = .none || pairOk o.sa) && (u.b = .none || !u.b64 || pairOk o.sb) && (!u.d64 || pairOk o.dst)
   else true) &&
  (match i with
   | .lCvtn o => decide (o.sa.toNat % Fmt.perContainer o.fmt = 0) && runOk vregs o.sa (Fmt.perContainer o.fmt)
   | .lCvtw o => vecOk vregs o.dst && specOk vregs o.sa &&
      (!Fmt.is64 o.fmt || pairOk o.dst) && (!Fmt.is64 (srcFmt o) || pairOk o.sa)
   | .lDq o => !isUni o.dst && decide (o.dst.toNat % dqRegs o = 0) && runOk vregs o.dst (dqRegs o)
   | .lQz o => decide (o.sa.toNat % Fmt.perContainer o.fmt = 0) && runOk vregs o.sa (Fmt.perContainer o.fmt)
   | .lEfmov o =>
      if o.sc.getLsbD 6 then o.dst = 0 && !isUni o.sa && decide (o.sa.toNat % 4 = 0) && runOk vregs o.sa 4
      else o.sa = 0 && !isUni o.dst && decide (o.dst.toNat % 4 = 0) && runOk vregs o.dst 4
   | .lMov o => !isUni o.dst || isUni o.sb
   | .lRds o => (o.sc ≠ 0x01 || !isUni o.dst) && (!rds64 o.sc.toNat || pairOk o.dst)
   | _ => true)

/-- Check 6 for a V word: the source-B modifier meets R184. -/
def v6 (i : Instr) (u : VUse) (o : VOps) : Bool :=
  if u.b = .none || !u.bmod then true
  else
    let cls := o.mod.extractLsb' 10 2
    let lseg := (o.mod.extractLsb' 7 3).toNat
    let dist := (o.mod.extractLsb' 2 5).toNat
    let negAbs := o.mod.extractLsb' 0 2
    (!isUni o.sb || o.mod = 0) &&
    decide (lseg ≤ 5) && decide (dist < 2 ^ lseg) &&
    (cls ≠ 0 || (lseg = 0 && dist = 0)) &&
    (negAbs = 0 || (!(Fmt.isAsym o.fmt || Fmt.isMx o.fmt) &&
      (match i with | .lDq _ => false | .lQz _ => false | _ => true)))

/-! ## Format M -/

def mIsGlobal : Instr → Bool
  | .lLd _ _ | .lSt _ _ | .lAtom _ | .lRed _ | .lRedCu _ | .lPref _ => true
  | _ => false

/-- Operation code of an atomic or reduction, IMM20[31:27] of the word (06 Table 6.11). -/
def mOp (o : MOps) : BitVec 5 := o.imm.extractLsb' 15 5
/-- Ordering kind, IMM20[26:25] of the word. -/
def mOrd (o : MOps) : BitVec 2 := o.imm.extractLsb' 13 2
/-- REM bit of a scratchpad access. -/
def mRem (o : MOps) : Bool := o.imm.getLsbD 19
def mScope (o : MOps) : BitVec 3 := o.mode.extractLsb' 1 3
def mPol (o : MOps) : BitVec 2 := o.mode.extractLsb' 4 2
def mFlag (o : MOps) : Bool := o.mode.getLsbD 0

def Cnt.num : Cnt → Nat | .x1 => 1 | .x2 => 2 | .x4 => 4

/-- Check 2 for an M word. -/
def m2 (i : Instr) (o : MOps) : Bool :=
  (!mIsGlobal i || !o.base.getLsbD 5) &&
  (match i with
   | .lRed o | .lRedCu o => mOrd o = 0
   | .lPref o => o.data = 0 && o.szf = 0 && o.mode.extractLsb' 0 4 = 0
   | .lFence o => o.data = 0 && o.base = 0 && o.ofs = 0 && o.scl = 0 && o.imm = 0 && o.szf = 0 && !mFlag o
   | .lFeopSetf o | .lFeopSete o | .lFeopRdf o => o.mode = 0
   | _ => true)

/-- A size code that only a load takes (09 R270). -/
def loadOnly (z : BitVec 6) : Bool := z = Fmt.szBS || z = Fmt.szHS

/-- A size code that no instruction takes (06 Table 6.12). -/
def reservedSize (z : BitVec 6) : Bool := z = 0x3C || z = 0x3F

/-- The SZF of an access holds no reserved size code. -/
def sizeOk : Instr → Bool
  | .lLd _ o | .lSt _ o | .lLds _ o | .lSts _ o | .lAtom o | .lRed o | .lRedCu o => !reservedSize o.szf
  | _ => true

/-- Check 3 for an M word: reserved MODE, scope, operation, ordering and size codes (06 R189, R190, 09 R270). -/
def m3 (i : Instr) : Bool :=
  sizeOk i &&
  match i with
  | .lLd _ o => decide ((mScope o).toNat ≤ 5)
  | .lSt _ o => decide ((mScope o).toNat ≤ 5) && !loadOnly o.szf
  | .lLds _ o => decide ((mScope o).toNat ≤ 5) && mPol o ≠ 3
  | .lSts _ o => decide ((mScope o).toNat ≤ 5) && decide ((mPol o).toNat ≤ 1) && !loadOnly o.szf
  | .lAtom o => decide ((mScope o).toNat ≤ 5) && (mFlag o || mOrd o = 0) && mOrd o ≠ 3 && decide ((mOp o).toNat ≤ 8) && !loadOnly o.szf
  | .lRed o | .lRedCu o => decide ((mScope o).toNat ≤ 5) &&
      (decide ((mOp o).toNat ≤ 5) || mOp o = 8) && !loadOnly o.szf
  | .lFence o => decide ((mScope o).toNat ≤ 5)
  | .lFeopSetf o => o.szf = 0
  | .lFeopSete o => o.szf = 1
  | .lFeopRdf o => o.szf = 2
  | _ => true

/-- Operation and format pairs of 09 Table 9.1. -/
def atomPair (cu : Bool) (op : BitVec 5) (f : BitVec 6) : Bool :=
  if op = 8 then f = Fmt.F32
  else if (op = 1 || op = 2) && cu then
    f = Fmt.I32 || f = Fmt.N32 || f = Fmt.I64 || f = Fmt.N64 || f = Fmt.F32
  else f = Fmt.I32 || f = Fmt.N32 || f = Fmt.I64 || f = Fmt.N64

/-- Containers that .X2 and .X4 accept (06 R190). -/
def cntOk (n : Cnt) (z : BitVec 6) : Bool :=
  match n with
  | .x1 => true
  | .x2 => decide (4 ≤ Fmt.container z)
  | .x4 => Fmt.container z = 4

/-- Check 4 for an M word: the code in SZF. -/
def m4 (i : Instr) : Bool :=
  match i with
  | .lLd _ o | .lLds _ o | .lSt _ o | .lSts _ o => Fmt.defined.contains o.szf || Fmt.sizes.contains o.szf
  | .lAtom o | .lRed o => atomPair false (mOp o) o.szf
  | .lRedCu o => atomPair true (mOp o) o.szf
  | _ => true

/-- Registers in the run that DATA begins (09 R270); CAS takes its second operand from the registers above. -/
def mRun : Instr → Nat
  | .lLd n o | .lLds n o | .lSt n o | .lSts n o => Cnt.num n * (if Fmt.container o.szf = 8 then 2 else 1)
  | .lAtom o => (if Fmt.is64 o.szf then 2 else 1) * (if mOp o = 7 then 2 else 1)
  | .lRed o | .lRedCu o => if Fmt.is64 o.szf then 2 else 1
  | .lFeopRdf _ => 1
  | _ => 0

/-- Check 5 for an M word. -/
def m5 (vregs : Nat) (i : Instr) (o : MOps) : Bool :=
  (match i with | .lFence _ => true | _ => specOk vregs o.ofs) &&
  (match i with
   | .lLd _ _ | .lLds _ _ | .lAtom _ | .lFeopRdf _ => !isUni o.data && runOk vregs o.data (mRun i)
   | .lSt _ _ | .lSts _ _ | .lRed _ | .lRedCu _ => runOk vregs o.data (mRun i)
   | .lFeopSetf _ | .lFeopSete _ => o.data = 0
   | _ => true) &&
  (match i with
   | .lLd n o | .lLds n o | .lSt n o | .lSts n o => cntOk n o.szf && (Fmt.container o.szf ≠ 8 || pairOk o.data)
   | .lAtom o | .lRed o | .lRedCu o => !Fmt.is64 o.szf || pairOk o.data
   | _ => true)

def mOps : Instr → Option MOps
  | .lLd _ o | .lSt _ o | .lLds _ o | .lSts _ o | .lFeopSetf o | .lFeopSete o | .lFeopRdf o | .lAtom o
  | .lRed o | .lRedCu o | .lPref o | .lFence o => some o
  | _ => none

/-! ## Format C -/

def cOps : Instr → Option COps
  | .lBra o | .lBrx o | .lCall o | .lRet o | .lIf o | .lElse o | .lEndif o | .lLoop o | .lBreak o | .lCont o
  | .lEndl o | .lExit o | .lYield o | .lNop o => some o
  | _ => none

/-- Check 2 for a C word: the fields that Table 6.16 does not name are zero. -/
def c2 (i : Instr) (o : COps) : Bool :=
  let useCond := match i with | .lBra _ | .lBrx _ | .lIf _ | .lBreak _ | .lCont _ => true | _ => false
  let useLink := match i with | .lCall _ | .lRet _ => true | _ => false
  let useT1 := match i with | .lBra _ | .lBrx _ | .lCall _ | .lIf _ | .lElse _ | .lEndl _ => true | _ => false
  let useT2 := match i with | .lCall _ => true | _ => false
  let useK := match i with | .lBreak _ | .lCont _ => true | _ => false
  (useCond || (o.cond = 0 && o.neg = 0)) && (useLink || o.link = 0) && (useT1 || o.t1 = 0) &&
  (useT2 || o.t2 = 0) && (useK || o.k = 0)

/-- Check 3 for a C word: K is at most 253. -/
def c3 (o : COps) : Bool := decide (o.k.toNat ≤ 253)

/-- Check 5 for a C word. -/
def c5 (vregs : Nat) (i : Instr) (o : COps) : Bool :=
  match i with
  | .lBra _ => isUni o.cond
  | .lBrx _ | .lIf _ | .lBreak _ | .lCont _ => specOk vregs o.cond
  | .lCall _ => isUni o.link && o.link ≠ 255
  | .lRet _ => isUni o.link
  | _ => true

/-! ## Format X -/

/-- Field use of an X instruction (06 Table 6.14): RA, RB's run, tile, batch, count, format, XQ bits. -/
structure XUse where
  ra   : Use := .none
  rb   : Nat := 0
  tile : Bool := false
  bat  : Bool := false
  cnt  : Bool := false
  fmts : List (BitVec 6) := []
  xq   : BitVec 10 := 0
  deriving Repr

def xUse : Instr → Option (XUse × XOps)
  | .lMma o => some ({ ra := .ext, rb := 2, tile := true, fmts := Fmt.matrix }, o)
  | .lMloop o => some ({ ra := .ext, rb := 2, tile := true, cnt := true, fmts := Fmt.matrix, xq := 0x3FE }, o)
  | .lMbatch o | .lMwait o | .lCwait o => some ({ bat := true }, o)
  | .lAclr o => some ({ tile := true }, o)
  | .lAld o => some ({ rb := 1, tile := true, fmts := Fmt.floats }, o)
  | .lAst o => some ({ rb := 1, tile := true, fmts := Fmt.floats, xq := 0x3F8 }, o)
  | .lScfeed o => some ({ ra := .vec, bat := true, cnt := true }, o)
  | .lCpy o => some ({ rb := 8, bat := true, fmts := Fmt.defined, xq := 0x380 }, o)
  | .lColl o => some ({ rb := 2 }, o)
  | .lCtrig o => some ({ ra := .uni, rb := 8, xq := 0x003 }, o)
  | .lCdisarm o => some ({ rb := 1 }, o)
  | _ => none

def x2 (u : XUse) (o : XOps) : Bool :=
  (u.ra != .none || o.ra = 0) && (u.rb ≠ 0 || o.rb = 0) && (u.tile || (o.tr = 0 && o.tc = 0)) &&
  (u.bat || o.bat = 0) && (u.cnt || o.cnt = 0) && (!u.fmts.isEmpty || o.fmt = 0) && (o.xq &&& ~~~u.xq = 0)

/-- AST's qualifiers in XQ (Table 6.14): rounding, .SAT, .EF, residue register. -/
def astRnd (o : XOps) : BitVec 2 := o.xq.extractLsb' 8 2
def astSat (o : XOps) : Bool := o.xq.getLsbD 7
def astEf (o : XOps) : Bool := o.xq.getLsbD 6
def astRes (o : XOps) : Nat := (o.xq.extractLsb' 3 3).toNat

def x3 (i : Instr) : Bool :=
  match i with
  | .lAst o => if astEf o then astRnd o = 0 else astRes o = 0
  | _ => true

def cpyDec (o : XOps) : Bool := o.xq.getLsbD 9

def x4 (i : Instr) (u : XUse) (o : XOps) : Bool :=
  match i with
  | .lCpy o => if cpyDec o then Fmt.vecFloats.contains o.fmt else o.fmt = 0
  | .lAst o => u.fmts.contains o.fmt && (o.fmt ≠ Fmt.F32 || o.xq.extractLsb' 6 4 = 0)
  | _ => u.fmts.isEmpty || u.fmts.contains o.fmt

/-- RB names a uniform register that is a multiple of n and whose run ends at or below w62 (06 R193). -/
def rbOk (n : Nat) (rb : BitVec 8) : Bool :=
  n = 0 || (isUni rb && decide ((rb.toNat - 192) % n = 0) && decide (rb.toNat - 192 + n ≤ 63))

/-- MLOOP advances in XQ (Table 6.14): B windows, A register groups, tile columns. -/
def badv (o : XOps) : Nat := (o.xq.extractLsb' 5 5).toNat
def aadv (o : XOps) : Nat := (o.xq.extractLsb' 3 2).toNat
def cadv (o : XOps) : Nat := (o.xq.extractLsb' 1 2).toNat

/-- Check 5 for an X word, with the limits of 10 R312 for MMA and MLOOP. -/
def x5 (vregs : Nat) (i : Instr) (u : XUse) (o : XOps) : Bool :=
  useOk vregs u.ra o.ra && rbOk u.rb o.rb && decide (o.tr.toNat ≤ 7) && decide (o.tc.toNat ≤ 7) &&
  (match i with
   | .lMma o => !isUni o.ra && decide (o.ra.toNat + 16 ≤ vregs)
   | .lMloop o => decide (1 ≤ o.cnt.toNat) && !isUni o.ra &&
      decide (o.ra.toNat + 16 * aadv o * (o.cnt.toNat - 1) + 16 ≤ vregs) &&
      decide (o.tc.toNat + cadv o * (o.cnt.toNat - 1) ≤ 7)
   | .lScfeed o => decide (1 ≤ o.cnt.toNat) && decide (o.cnt.toNat ≤ 32)
   | _ => true)

/-! ## The lane word checks together -/

/-- The first of checks 2 to 6 that the instruction fails in a team of `vregs` vector registers (06 R197). -/
def lane (vregs : Nat) (i : Instr) : Option Nat :=
  match vUse i with
  | some (u, o) =>
    if !v2 u o then some 2 else if !v3 i u o then some 3 else if !v4 i u o then some 4
    else if !v5 vregs i u o then some 5 else if !v6 i u o then some 6 else none
  | none =>
  match mOps i with
  | some o =>
    if !m2 i o then some 2 else if !m3 i then some 3 else if !m4 i then some 4
    else if !m5 vregs i o then some 5 else none
  | none =>
  match cOps i with
  | some o =>
    if !c2 i o then some 2 else if !c3 o then some 3 else if !c5 vregs i o then some 5 else none
  | none =>
  match xUse i with
  | some (u, o) =>
    if !x2 u o then some 2 else if !x3 i then some 3 else if !x4 i u o then some 4
    else if !x5 vregs i u o then some 5 else none
  | none =>
  match i with
  | .lMovi o => if specOk vregs o.dst then none else some 5
  | _ => none

/-! ## Composer words (06 R180) -/

/-- The sub-fields of a composer instruction hold no reserved value. -/
def composer : Instr → Bool
  | .cInsf _ _ l p | .cExtf _ _ l p => decide (p.toNat + l.toNat + 1 ≤ 64)
  | .cLd _ _ _ s _ | .cSt _ _ _ s _ => s ≠ 3
  | .cAmo _ _ _ _ _ z _ c => decide (2 ≤ z.toNat) && decide (c.toNat ≤ 5)
  | .cFence _ c => decide (c.toNat ≤ 5)
  | .cRun _ b => decide (b.toNat ≤ 24)
  | _ => true

end Sys2Proof.Checks
end

