-- ==== Sys2Proof/Config.lean ====
section
/-! DEFINITION. What the spec leaves to the implementation or to the world outside the package: constants without a
body, so that nothing can be proved of their values (log 6). -/

namespace Sys2Proof.Config

/-- A free value, by the number of free values taken before it (`State.freeCtr`). -/
opaque free : Nat → Word64

/-- The security engine's check code over bits [111:0] of a handle (01 R22). -/
opaque handleCheck : BitVec 112 → BitVec 16

/-- The public exponent of the Myhagen key: an image carries the 512-byte modulus (14 R406; log 45). -/
opaque rsaExponent : Nat

/-- Where a field of an image's header stands, its first byte and its length: 1 version, 2 anti-rollback counter, 3 length, 4 load
address; the spec gives their order alone (14 R406; log 45). -/
opaque headerField (k : Nat) : Nat × Nat

/-- The signature of the device identity key over bytes (14 R407), 512 bytes. -/
opaque identitySign : List Byte → List Byte

/-- The identity certificate chain in DER, leaf first (14 R407). -/
opaque identityChain : List Byte

/-- The digest of the Myhagen key fused in the control die (14 R406). -/
opaque fusedKeyDigest : List Byte

/-- The fused anti-rollback counter (14 R406). -/
opaque fusedCounter : Nat

/-- The bus address of BAR `k` of function `fn`, assigned by the host (14 R400). -/
opaque bar (fn k : Nat) : Nat

/-- The bytes of a message to another package: the spec gives no layout of most of them (log 26). -/
opaque messageBytes {M : Type} (m : M) : List Byte

/-- The payloads of a VC so far end with a whole message (14 Table 14.3; log 26). -/
opaque messageWhole : Byte → List Byte → Bool

/-- The collective packets that whole messages carry, each with its payload, origin package and origin die: the spec gives
no layout of these messages (log 26). -/
opaque collMessages : List Byte → List (List Word64 × List Byte × Nat × Nat)

/-- The whole messages that the payloads of VC 7 gathered so far are (14 Table 14.3; log 26). -/
opaque managementMessages : List Byte → List (List Byte)

/-- The time message that a whole message of VC 7 is, if it is one: the sender's TICK, the receiver's distance to the time master
by it, and whether the sender is the one farther from the master, so that it is answered (14 R404; log 35). -/
opaque timeMessage : List Byte → Option (Word64 × BitVec 16 × Bool)

/-- Whether a whole message of VC 7 is an intent message (12 Table 12.16): the spec gives no layout of the time-base
messages that travel there too (log 35). -/
opaque intentPayload : List Byte → Bool

/-- A byte of a part of a saved context whose contents 13 Table 13.5 names without a layout: of the state saved, the part's
number and the byte's offset in it (log 14). -/
opaque contextByte {S : Type} (saved : S) (part ofs : Nat) : Byte

/-- The CRC-64 of a Swiax flit's bytes 0 to 247 (14 Table 14.3): the spec names no polynomial. -/
opaque crc64 : List Byte → Word64

end Sys2Proof.Config
end

