-- ==== Sys2Proof/Machine/Map.lean ====
section
/-! DEFINITION. Sparse maps from natural numbers: lists of pairs in rising order of the key, without repeats. A map
with a default lists no entry equal to it, so equal contents are equal lists. Memories and register files are such
maps. -/

namespace Sys2Proof

/-- Sparse contents by number. -/
abbrev SMap (α : Type) := List (Nat × α)

namespace SMap

/-- What the map lists at a key. -/
def find? {α : Type} (m : SMap α) (k : Nat) : Option α :=
  match m with
  | [] => none
  | (j, x) :: r => if j = k then some x else find? r k

/-- The map with `x` listed at `k`. -/
def insert {α : Type} (m : SMap α) (k : Nat) (x : α) : SMap α :=
  match m with
  | [] => [(k, x)]
  | (j, y) :: r => if k < j then (k, x) :: (j, y) :: r else if k = j then (k, x) :: r else (j, y) :: insert r k x

/-- The map with nothing listed at `k`. -/
def erase {α : Type} (m : SMap α) (k : Nat) : SMap α :=
  match m with
  | [] => []
  | (j, y) :: r => if k = j then erase r k else (j, y) :: erase r k

/-- The contents at a key; `d` where nothing is listed. -/
def get {α : Type} (d : α) (m : SMap α) (k : Nat) : α := (find? m k).getD d

/-- Contents written at a key; the default is listed nowhere. -/
def set {α : Type} [DecidableEq α] (d : α) (m : SMap α) (k : Nat) (x : α) : SMap α :=
  if x = d then erase m k else insert m k x

/-- Every key is above `lo`, and the keys rise. -/
def rising {α : Type} (lo : Nat) (m : SMap α) : Bool :=
  match m with
  | [] => true
  | (k, _) :: r => decide (lo ≤ k) && rising (k + 1) r

/-- The canonical form of a map with a default. -/
def wf {α : Type} [DecidableEq α] (d : α) (m : SMap α) : Bool :=
  rising 0 m && m.all (fun e => decide (e.2 ≠ d))

end SMap

/-- Bytes by address; an unlisted byte reads 0. -/
abbrev Mem := SMap Byte

namespace Mem

/-- One byte. -/
def byte (m : Mem) (a : Nat) : Byte := SMap.get 0 m a

/-- One byte written. -/
def setByte (m : Mem) (a : Nat) (b : Byte) : Mem := SMap.set 0 m a b

/-- `n` bytes from `a`, least significant first (00 R3). -/
def read (m : Mem) (a : Nat) : Nat → Nat
  | 0 => 0
  | n + 1 => (byte m a).toNat + 256 * read m (a + 1) n

/-- The low `n` bytes of `v` written from `a`, least significant first. -/
def write (m : Mem) (a : Nat) : Nat → Nat → Mem
  | 0, _ => m
  | n + 1, v => write (setByte m a (BitVec.ofNat 8 v)) (a + 1) n (v / 256)

/-- `n` bytes from `a` as a list. -/
def bytes (m : Mem) (a n : Nat) : List Byte := (List.range n).map (fun i => byte m (a + i))

/-- A list of bytes written from `a`. -/
def writeBytes (m : Mem) (a : Nat) : List Byte → Mem
  | [] => m
  | b :: r => writeBytes (setByte m a b) (a + 1) r

/-- The canonical form: addresses strictly rise and no listed byte is 0. -/
def wf (m : Mem) : Bool := SMap.wf 0 m

end Mem

end Sys2Proof
end

