-- ==== Sys2Proof/Machine/State.lean ====
section
/-! DEFINITION. The state of one OZ3-768H package: everything the spec names, as plain data, and the state after
reset. INVENTORY.md gives the rule behind every field and its reset value. Fields marked "model" are the model's own
(log 1, log 6). Sizes and limits that the spec fixes are kept by the operations, not by the types. -/

namespace Sys2Proof.Machine

open Sys2Proof

/-! ## Who acts -/

/-- The party whose instruction executes: a composer, a PC slot of a group, or the services of a die. -/
inductive Agent where
  | composer (d c : Nat)
  | lane (d c g slot : Nat)
  | service (d : Nat)
  deriving DecidableEq, Repr

/-- One move of the machine (log 1). -/
inductive Turn where
  | composer (d c : Nat)
  | lane (d c g slot : Nat)
  | service (d : Nat) (i : Instr)
  | choice (d : Nat) (i : Instr) (j : Nat)  -- the same, where the service has several moves to choose from: its j-th
  | clock (n : Nat)            -- n master-clock cycles pass
  deriving DecidableEq, Repr

/-! ## Translation (01) -/

/-- A leaf with the page size as a power of two: 16, 21 or 30 (Table 1.3, Table 1.1). -/
structure Leaf where
  frame : Nat
  peer  : Bool
  sdx   : Nat
  geom  : Nat
  fmt   : Nat
  cache : Nat
  x     : Bool
  w     : Bool
  size  : Nat
  deriving DecidableEq, Repr

/-- A scale descriptor (Table 1.6). -/
structure Desc where
  valid  : Bool := false
  geom   : Nat := 0
  fmt    : Nat := 0
  shadow : Nat := 0
  limit  : Nat := 0
  base   : Nat := 0
  deriving DecidableEq, Repr

/-- A TLB entry: the page's first address, its leaf, and the descriptor copied at the fill (R20). -/
structure TlbEntry where
  va   : Nat
  leaf : Leaf
  desc : Option Desc
  deriving DecidableEq, Repr

/-- A pointer-cache entry: level 0 (A) or 1 (B), its tag, the next table's offset (R419). -/
structure PtrEntry where
  level : Nat
  tag   : Nat
  next  : Nat
  deriving DecidableEq, Repr

/-- The party of a core that a translation serves. -/
inductive Req where
  | composer
  | slot (g s : Nat)
  deriving DecidableEq, Repr

/-- An outstanding miss of a core on a 64 KiB page, with those who wait for it (R33). -/
structure Miss where
  core : Nat
  page : Nat
  who  : List Req
  deriving DecidableEq, Repr

/-- A line of another package's memory of which a core has a partial, in its buffer or parked; its data is with the exporter (03
R94). -/
structure FarLine where
  unit : Nat          -- the core
  pkg  : Nat
  die  : Nat
  exp  : Nat
  line : Nat          -- byte offset in the export / 128
  seq  : Nat          -- recency
  parked : Bool := false
  deriving DecidableEq, Repr

/-- An export (R21, R22). -/
structure Export where
  used : Bool := false
  base : Nat := 0
  len  : Nat := 0      -- 64 KiB units
  rw   : Bool := false
  ra   : Bool := false
  gen  : BitVec 16 := 0
  revoking : Bool := false
  deriving DecidableEq, Repr

/-- An import (R21 to R25). -/
structure Import where
  pkg : Nat
  die : Nat
  exp : Nat
  gen : BitVec 16
  len : Nat
  rw  : Bool
  ra  : Bool
  win : Nat            -- peer-window offset in 64 KiB units
  frozen : Bool
  deriving DecidableEq, Repr

/-! ## Memory accesses (03, 04) -/

/-- The memory that a byte of an import's export is, as far as it is known when an access is checked (04 R106). -/
inductive Place where
  | unknown
  | own (pa : Nat)                   -- HBM of the importing die itself
  | mem (die pa : Nat)               -- HBM of another die of the package
  | ctl (die ofs : Nat)              -- queue-control range of a die of the package
  | far (pkg die exp ofs : Nat)      -- an export of another package
  deriving DecidableEq, Repr

/-- A location once an address is resolved. -/
inductive Loc where
  | hbm (pa : Nat)         -- local HBM
  | sp (c ofs : Nat)       -- scratchpad byte of logical core c of the die
  | peer (imp ofs : Nat) (place : Place := .unknown)   -- byte of an import's export
  | host (b : Nat)         -- host bus address
  | qctl (ofs : Nat)       -- queue-control range, byte offset
  deriving DecidableEq, Repr

/-- Where an access is served. -/
inductive Site where
  | at (d : Nat) (l : Loc) (ll : Option Nat := none)  -- at a die of the package; an exporter's own treatment
  | far (d imp pkg die : Nat) (r : PeerReq)           -- at another package, through an import of die d
  deriving DecidableEq, Repr

/-- What a queued write does once performed. -/
inductive WriteKind where
  | store (n : Nat) (v : Nat)                        -- n bytes
  | fill (m : Nat) (v : Nat)                         -- STS.FE: the bytes of a granule that m names, granule FULL
  | empty (n : Nat)                                  -- FEOP.SETE
  | full (n : Nat)                                   -- FEOP.SETF
  | atomic (op : Nat) (n : Nat) (fmt : BitVec 6) (x y : Nat)  -- returns the old value
  | red (op : Nat) (n : Nat) (fmt : BitVec 6) (x : Nat)
  | cu (op : Nat) (n : Nat) (fmt : BitVec 6) (x : Nat)
  | fence                                            -- FENCE.REL or .AR of the party
  | span (cell phase : Nat)                          -- SPANA arrival, for a phase of the cell
  | arrive (point : Nat)                             -- RARRIVE arrival at the core of the location
  | ltrig                                            -- LTRIG
  deriving DecidableEq, Repr

/-- A write in a store queue or in S. `rel` is the scope of a release, `strand` the strand of an atomic or the PC slot
of a RARRIVE, `no` the number of its instruction in the order of issue of the core's lanes; `accepted` says that the cluster crossbar has accepted it (03 R90), `site` where its exporter has
accepted it (01 R24). -/
structure Write where
  party  : Party
  loc    : Loc
  kind   : WriteKind
  rel    : Option Nat := none
  strand : Nat := 0
  va     : Nat := 0
  treat  : Nat := 0      -- last-level treatment (R100)
  accepted : Bool := false
  site   : Option Site := none
  no     : Nat := 0      -- the core's issue number of its instruction (model, log 1)
  deriving DecidableEq, Repr

/-- One single-copy unit of a load in flight. `l1` and `ll` are the treatments of Table 3.6: 0 allocate, 1
evict-first, 2 none. -/
structure LUnit where
  strand : Nat
  part   : Nat         -- byte offset in the strand's bytes, or 32 + b for the scale of its block b
  loc    : Loc
  va     : Nat
  n      : Nat
  l1     : Nat := 2
  ll     : Nat := 2
  lone   : Bool := false       -- on a device page, or a queue register: an access of its own (01 Table 1.10, 11 R348)
  val    : Option Nat := none
  deriving DecidableEq, Repr

/-- How a strand's elements decode: the page's format code and the index of its first element (R59, R62). -/
structure Decoding where
  fmt : BitVec 6
  i0  : Nat
  deriving DecidableEq, Repr

/-- A load in flight (R119, R148): LD, LDS or FEOP.RDF. It is bound once every unit has its value, from when its slot
goes on; its return writes the registers. -/
structure LoadOp where
  i     : Instr
  slot  : Nat
  mask  : BitVec 32
  units : List LUnit
  decs  : SMap Decoding := []          -- strands that decode
  noInstall : List Nat := []           -- lines invalidated while in flight (R83)
  no    : Nat := 0                     -- the core's issue number of the load (model, log 1)
  deriving DecidableEq, Repr

/-- Identity of an L1 or last-level line. -/
inductive LineId where
  | hbm (line : Nat)
  | peer (imp line : Nat)
  deriving DecidableEq, Repr

/-- An L1 line with its data (R80) and its first byte; `bad` where it fails its parity check (R84). -/
structure L1Line where
  id   : LineId
  loc  : Loc := .hbm 0
  bad  : Bool := false
  set  : Nat
  data : Nat           -- 128 bytes
  evictFirst : Bool
  deriving DecidableEq, Repr

/-- A line of the last-level cache (R91). -/
structure LlcLine where
  line : Nat
  evictFirst : Bool
  deriving DecidableEq, Repr

/-- One holder's partial of a commutative-update line (R94): key (PKG, DIE, unit), 128 bytes. `parts` holds what a collective
engine has contributed, by SEQ, byte in the line and value, in the order of SEQ (10 R341); `asked` the parties of a core that
have contributed, of the team that it held, with the 64-bit words of the line (13 R388). -/
structure Partial where
  pkg  : Nat
  die  : Nat
  unit : Nat
  data : Nat
  parts : List (Nat × Nat × Nat) := []
  asked : List (LKey × Party × Nat) := []
  parked : Bool
  seq  : Nat           -- recency, and age of the parking
  deriving DecidableEq, Repr

/-- A commutative-update episode (R93). -/
structure Episode where
  line : Nat
  op   : Nat
  fmt  : BitVec 6
  partials : List Partial
  deriving DecidableEq, Repr

/-- Owner of a range-lock entry (Table 4.5). -/
inductive LockOwner where
  | copy (n : Nat)
  | matrix (n : Nat)
  | coll (n : Nat)
  deriving DecidableEq, Repr

/-- A range-lock entry, in scratchpad offsets or in virtual addresses (R123). -/
structure Lock where
  owner : LockOwner
  write : Bool
  sp    : Bool
  lo    : Nat
  hi    : Nat          -- exclusive
  deriving DecidableEq, Repr

/-! ## Faults (13) -/

/-- A fault record (Table 13.1). -/
structure FaultRec where
  code   : Nat := 0
  levelG : Bool := false
  cause  : Nat := 0
  fid    : Nat := 0
  slot   : Nat := 0
  group  : Nat := 0
  log    : Nat := 0     -- logical index 16y + x
  phys   : Nat := 0
  die    : Nat := 0
  mask   : BitVec 32 := 0
  access : Nat := 0
  va     : Nat := 0
  provn  : Word32 := 0
  woff   : Nat := 0
  cpc    : Nat := 0
  tick   : Nat := 0
  aux    : Nat := 0
  deriving DecidableEq, Repr

/-! ## Groups (05, 03) -/

inductive GState where
  | idle | running | stopped
  deriving DecidableEq, Repr

inductive SlotState where
  | empty | live | waiting
  deriving DecidableEq, Repr

/-- One strand's granule access of a waiting full/empty load (09 R276). -/
structure FeStrand where
  strand : Nat
  core   : Nat
  ofs    : Nat
  deriving DecidableEq, Repr

/-- What an issued instruction of a PC slot waits for; its completion advances the slot. -/
inductive Wait where
  | none
  | rendezvous (p : Nat) (phase : Bool)
  | span (cell phaseNo : Nat)
  | load                     -- a load in flight, an entry of `loads`
  | atom (o : MOps)          -- ATOM, its accesses queued
  | fe (n : Cnt) (o : MOps) (left : List FeStrand)
  | copies (g n : Nat)       -- CWAIT: copies of group g accepted before number n
  | sync (m : Word32)        -- arrived at SYNC with mask m (R167)
  | arrive                   -- RARRIVE whose arrival is not yet counted
  deriving DecidableEq, Repr

/-- A PC slot (Table 13.6a). -/
structure PcSlot where
  st    : SlotState := .empty
  mask  : BitVec 32 := 0
  mark  : Nat := 0
  block : Nat := 0
  word  : Nat := 0
  wait  : Wait := .none
  no    : Nat := 0                    -- the core's issue number of the instruction that it waits for (model, log 1)
  walkFail : List (Nat × Nat) := []   -- pages and causes of failed walks, until the re-issue takes them
  led   : Option FaultRec := none     -- of the instruction that led it to its mark, while it waits there (R166)
  since : Nat := 0                    -- its rank among the ready slots of its lane, by when it became ready (R149; model, log 1)
  deriving DecidableEq, Repr

/-- A spill entry (Table 5.6). `led` is kept for strands that stand at their mark (R166). -/
structure Spill where
  mark  : Nat
  block : Nat
  mask  : BitVec 32
  led   : Option FaultRec := none
  deriving DecidableEq, Repr

/-- Actions issued and not yet in a batch (R315). -/
structure Pending where
  cons : Nat := 0
  left : Nat := 0
  err  : Option Nat := none
  errNo : Nat := 0
  deriving DecidableEq, Repr

/-- An ATOM that its homes have accepted: its slot has gone on, and its accesses are still to be performed (09 R278). -/
structure AtomOp where
  slot : Nat
  o    : MOps
  mask : BitVec 32
  no   : Nat
  deriving DecidableEq, Repr

/-- A group. -/
structure Group where
  st     : GState := .idle
  code   : Nat := 0
  slotF  : Nat := 0
  step   : Bool := false
  stepping : Option Nat := none       -- slot of the instruction issued under STEP, until the group stops (13 R395)
  frame  : Option Nat := none
  pc0    : PcSlot := {}
  pc1    : PcSlot := {}
  nest   : SMap (BitVec 8) := []      -- by strand, default 0
  spill  : List Spill := []           -- top first
  v      : SMap Word32 := []          -- key 32 * register + strand, default 0
  w      : SMap Word32 := []          -- key register, default 0
  x      : SMap Word32 := []          -- x0 to x3, default 0
  e      : SMap Word32 := []          -- key 128 * register + 4 * strand + position, default 0
  asf    : BitVec 5 := 0
  ate    : BitVec 5 := 0
  loads  : List LoadOp := []          -- oldest first
  atom   : Option AtomOp := none
  heldFrom : Option Nat := none       -- issue number of a faulted access, behind which none is performed until the group runs (04 R140)
  spans  : SMap Nat := []             -- cell: phase number of the group's latest SPANA
  storeErr : Option Nat := none
  latch  : Option Nat := none         -- collector latch tag (R325)
  feServed : BitVec 32 := 0
  pend   : Pending := {}
  frec   : FaultRec := {}
  deriving DecidableEq, Repr

/-! ## Composer (07) -/

inductive CStat where
  | running
  | stopped
  | done
  deriving DecidableEq, Repr

/-- What the composer waits for. -/
inductive CWait where
  | none
  | fetch (d : BitVec 5) (arrives : Nat)   -- WFETCH sent; reaches Hawker at that cycle (R160)
  | amo (d : BitVec 5) (inval : Bool)      -- AMO.G queued; its completion invalidates the L1 (R82)
  deriving DecidableEq, Repr

/-- Progress of a partly performed EMITR or EMITB (R220, R222): words emitted by it, and for EMITB blocks left
and words left in the block under way. -/
structure PendEmit where
  i      : Nat := 0
  ofs    : Nat := 0
  blocks : Nat := 0
  left   : Nat := 0
  deriving DecidableEq, Repr

/-- An event of the composer's queue, with the record of the stop that it stands for (07 R230, R231). -/
inductive Ev where
  | fault (g : Nat) (r : FaultRec)
  | step (g : Nat) (r : FaultRec)
  | frame (fid cnt : Nat)
  deriving DecidableEq, Repr

structure Composer where
  g      : SMap Word64 := []        -- g1 to g31, default 0
  pc     : Word64 := 0
  bbase  : BitVec 12 := 0
  fgen   : BitVec 8 := 0
  fvec   : Word64 := 0
  evctl  : Word64 := 0
  evgrp  : BitVec 9 := 0
  cycle  : Word64 := 0
  stat   : CStat := .running
  wait   : CWait := .none
  pend   : Option PendEmit := none
  evq    : List Ev := []
  frec   : FaultRec := {}
  walkFail : List (Nat × Nat) := []
  storeErr : Option Nat := none
  icache : SMap Nat := []           -- 64-byte lines by virtual line number
  dbgStep : Bool := false
  deriving DecidableEq, Repr

/-! ## Frames (05 R152, R153) -/

inductive FrState where
  | free | sealed | running | releasing
  deriving DecidableEq, Repr

structure Frame where
  st     : FrState := .free
  gen    : BitVec 8 := 0
  chunks : List Nat := []
  words  : Nat := 0
  starts : List Nat := []     -- first word of each block
  deriving DecidableEq, Repr

structure OpenFrame where
  chunks : List Nat := []
  words  : Nat := 0
  starts : List Nat := []
  opened : Bool := false      -- the last block is still open
  deriving DecidableEq, Repr

/-! ## Engines of a core (10) -/

/-- A shape record (Table 10.6). -/
structure Shape where
  ndim : Nat
  fmt  : BitVec 6
  e    : List Nat
  s    : List Nat       -- strides S1 to S3
  box  : List Nat
  deriving DecidableEq, Repr

/-- A copy packet resolved at its acceptance (Table 10.7). -/
structure CopyOp where
  no    : Nat            -- acceptance number
  src   : Nat
  dst   : Nat
  dsp   : Bool
  dec   : Bool
  dfmt  : BitVec 6
  scf   : Bool
  feset : Bool
  cgrp  : Nat
  coord : List Nat
  shape : Shape
  scNo  : Nat            -- first scale number of an .SCF copy
  scCnt : Nat
  scFilled : Nat
  done  : Nat            -- destination bytes written, up to the run part under way
  upTo  : Nat := 0       -- end of the chunk under way, which has been charged
  todo  : List (Nat × Nat) := []   -- pieces of the run part under way that have not moved
  rawWin : List Nat := [] -- windows of scratchpad that have received bytes of a raw page
  fmtWin : List Nat := [] -- and of a format page
  srcGot : SMap Nat := []  -- source bytes read for the run under way, by the first address of their granule's part
  scGot  : SMap Nat := []  -- and scales, by shadow address
  err   : Option (Nat × Nat)   -- cause, address of the failing run
  errNo : Nat := 0       -- its place in the order of the die's engine errors
  core  : Nat            -- issuing core; 256 for a queue or watch packet
  q     : Nat
  slot  : Nat
  cmpl  : Nat
  launch : Option LKey
  energy : Nat := 0      -- tokens charged
  deriving DecidableEq, Repr

inductive ActOwner where
  | pending (g : Nat)
  | batch (b : Nat)
  deriving DecidableEq, Repr

/-- An accumulator action in the matrix queue. `regs` holds the group's registers that it reads, by key of
`Group.v`, taken at issue (log 11). -/
structure MatAct where
  no    : Nat
  i     : Instr
  g     : Nat
  owner : ActOwner
  regs  : SMap Word32
  active : BitVec 32
  win   : Nat
  edge  : Nat
  ofs   : Nat
  scNo  : Nat
  j     : Nat            -- next step
  failed : Bool
  deriving DecidableEq, Repr

structure Batch where
  inFlight : Bool := false
  left : Nat := 0
  prod : Nat := 0
  err  : Option Nat := none
  errNo : Nat := 0
  deriving DecidableEq, Repr

/-- A recorded copy error that no CWAIT has collected (R331). -/
structure CopyErr where
  cgrp  : Nat
  no    : Nat
  cause : Nat
  va    : Nat
  errNo : Nat := 0
  deriving DecidableEq, Repr

/-- A rendezvous point (R168): `at` is the completion cycle of the latest phase, `scope` the widest scope of an
arrival in the current phase and `doneScope` that of the completed one. -/
structure Point where
  expected : Nat := 0
  count : Nat := 0
  phase : Bool := false
  time  : Nat := 0
  scope : Nat := 0
  doneScope : Nat := 0
  deriving DecidableEq, Repr

/-- The four class permits and the core bucket (R370, R371). -/
structure Permits where
  matrix : Int := 0
  vector : Int := 0
  sfu    : Int := 0
  memory : Int := 0
  first  : Nat := 0          -- class refilled first at the next cycle
  bucket : Nat := 0
  counted : Bool := false    -- counted in N of the current interval
  last    : Nat := 0         -- 1 + cycle of the latest refill; 0 before the first
  deriving DecidableEq, Repr

/-- A protected 64-bit word of a core (03 R98). Two strands' elements of a vector register, two uniform registers, two
cells and two provenance entries make one word. -/
inductive Ram where
  | vreg (g r k : Nat)   -- strands 2k and 2k + 1 of register r of group g
  | ureg (g k : Nat)     -- w2k and w(2k + 1) of group g
  | res (g k : Nat)      -- residue registers of keys 2k and 2k + 1 of group g
  | sp (k : Nat)         -- scratchpad bytes 8k to 8k + 7
  | acc (k : Nat)        -- cells of keys 2k and 2k + 1
  | store (k : Nat)      -- composer store bytes 8k to 8k + 7
  | fb (k : Nat)         -- frame-buffer word k
  | prov (k : Nat)       -- provenance entries 2k and 2k + 1
  | scale (n : Nat)      -- the scale FIFO's entry of number n
  deriving DecidableEq, Repr

/-- A team: everything a core holds for its launch. -/
structure Team where
  key    : LKey
  cfg    : Word64                    -- TEAMCFG
  rect   : Word64                    -- RECT
  entry  : Word64                    -- composer entry address
  comp   : Composer := {}
  store  : Mem := []                 -- composer store
  fb     : SMap Word64 := []         -- frame buffer, by 64 * chunk + word
  prov   : SMap Word32 := []
  frames : List Frame := []          -- 16
  opened : Option OpenFrame := none
  groups : List Group := []
  sp     : Mem := []                 -- scratchpad
  fe     : SMap Bool := []           -- FULL granules
  tags   : SMap (BitVec 6) := []     -- 2 KiB windows, default 0x3F
  acc    : SMap Word32 := []         -- key 256 * row + column
  l1     : List L1Line := []         -- most recent first
  sq     : List Write := []          -- store queues of all parties, in issue order
  ts     : List Write := []          -- S, oldest first
  locks  : List Lock := []
  scProd : Nat := 0                  -- scale numbers taken by producers
  scCons : Nat := 0                  -- scale numbers taken by consumers
  scFree : Nat := 0                  -- oldest number not yet consumed
  scFill : SMap Word32 := []         -- filled numbers (a filled 0 is listed too)
  matq   : List MatAct := []
  matNo  : Nat := 0
  batches : List Batch := []         -- 16
  copies : List CopyOp := []
  copyNo : Nat := 0
  copyErrs : List CopyErr := []
  passNo : SMap Nat := []            -- pass boundaries of each lane (model, log 1)
  issues : Nat := 0                  -- instructions issued by the lanes (model, log 1)
  collNo : Nat := 0
  shapes : SMap Shape := []
  points : List Point := []          -- 24
  permits : Permits := {}
  frozen : Bool := false
  ltrigged : Bool := false           -- LTRIG performed or retirement counted
  ltrigSent : Bool := false
  stopReq : Bool := false            -- pre-emption requested and not yet acknowledged
  stopped : Bool := false            -- acknowledged
  bad    : List Ram := []            -- uncorrectable words (13 R388)
  deriving DecidableEq, Repr

/-! ## Queues and launches (11) -/

/-- A packet that has started and not completed. -/
structure Started where
  slot : Nat
  pkt  : List Word64
  acted : Bool := false     -- accepted by the engine that serves it
  deriving DecidableEq, Repr

structure Queue where
  en     : Bool := false
  shares : Nat := 0
  lsize  : Nat := 6
  qbase  : Nat := 0
  head   : Word32 := 0
  tail   : Word32 := 0
  committed : SMap Bool := []     -- slot numbers
  losses : Nat := 0
  err    : Bool := false
  admitted : Option (List Word64) := none  -- head packet read, checked and ready to be drawn
  resolved : Option Nat := none            -- die of a package queue's admitted LAUNCH (R358)
  started : List Started := []
  deriving DecidableEq, Repr

/-- Stage of a launch. -/
inductive LState where
  | reserved       -- a gang member holds its rectangle (R361)
  | started        -- drawn; the template image is still to be read
  | loaded         -- teams may start
  | running
  | stopping       -- pre-emption or end under way
  | saved          -- pre-empted
  deriving DecidableEq, Repr

/-- What ends a launch once every engine has acknowledged. -/
inductive StopWhy where
  | resume                         -- pre-emption, to be resumed
  | finish (status cause : Nat)    -- ended under R382, R363 or R399
  deriving DecidableEq, Repr

structure TeamStat where
  core    : Nat
  started : Bool := false
  trig    : Bool := false
  retired : Bool := false
  deriving DecidableEq, Repr

/-- A launch on its die (11 Table 11.5, R157 to R160, R363). -/
structure Launch where
  key    : LKey
  pkt    : List Word64
  st     : LState
  image  : Mem := []
  cells  : List Nat := []         -- span cells of the die
  next   : Nat := 0               -- items handed out (DYNAMIC)
  dealt  : SMap Nat := []         -- items handed to each core (DEAL)
  teams  : List TeamStat := []
  energy : Nat := 0               -- tokens charged
  quotaHit : Bool := false
  xerr   : Option (Nat × Nat × Nat) := none   -- first uncollected engine error: its place in the die's order, core, cause
  goFlits : List Flit := []               -- flits that have taken its gang's GO away, as they were before a link took them (R361)
  why    : Option StopWhy := none
  saved  : List (Nat × Team) := []
  cmpl   : Nat := 0
  cause  : Nat := 0
  deriving DecidableEq, Repr

/-- The record of a dispatched launch (R359). -/
structure Dispatched where
  key  : LKey
  trig : Bool
  retired : Bool
  deriving DecidableEq, Repr

/-- What a span cell samples when a phase completes (R173): the cycle, SPACE, PHM1 and the phases. -/
structure SpanDone where
  time  : Nat
  space : Nat
  phm1  : Nat
  tab   : List Word64
  deriving DecidableEq, Repr

/-- A span cell (R171 to R173, 09 R292). `issued` and `arrived` count a team's group arrivals of a phase, by key
256 * phase + core: the SPANAs executed, and those whose release is complete. -/
structure Cell where
  used    : Bool := false
  phase   : Nat := 0
  words   : SMap Word32 := []     -- span word by phase
  issued  : SMap Nat := []
  arrived : SMap Nat := []
  done    : SMap SpanDone := []   -- completed phases
  deriving DecidableEq, Repr

/-- A watch-table entry (R334). -/
structure Watch where
  pa    : Nat
  wide  : Bool
  cmp   : Nat
  value : Nat
  item  : List Word64
  q     : Nat
  core  : Nat
  key   : LKey
  deriving DecidableEq, Repr

/-- A watch item that waits for a free slot (R351). -/
structure WatchItem where
  q    : Nat
  item : List Word64
  due  : Nat
  deriving DecidableEq, Repr

/-- A gang in progress at a participant (R361, R362). -/
structure Gang where
  q     : Nat
  slot  : Nat
  pkt   : List Word64
  lp    : List Word64              -- its LAUNCH packet, with the GANG's CMPL
  ready : List ReadyMsg := []      -- READYs that the leader holds
  reserved : Bool := false         -- rectangle and cells reserved
  sent  : Bool := false            -- READY sent
  go    : Bool := false
  decided : Bool := false          -- the leader has decided on GO
  mismatch : Bool := false
  lost  : Bool := false            -- a GO was lost on a failed link
  deriving DecidableEq, Repr

/-- Who posted a collective packet. -/
inductive CollSrc where
  | coll (core g no : Nat) (key : LKey)
  | queue (q slot : Nat)
  | watch (key : LKey)
  deriving DecidableEq, Repr

/-- A collective packet on its way (R339). -/
structure CollPkt where
  pkt  : List Word64
  src  : CollSrc
  org  : Nat               -- origin die
  opkg : Option Nat := none  -- origin package, where it is another one
  done : Nat := 0          -- hops acted
  payload : List Byte := []
  read : Bool := false      -- its whole payload has been read
  arrived : Bool := false  -- holds a staging slot of its VC at the die
  detour : Option Nat := none   -- the link whose reserved slot it holds instead, having come by the third die (R345)
  lost : Bool := false     -- the link that it was queued on has failed (R345)
  begun : Bool := false    -- the next hop to act has been checked and charged
  issue : Nat := 0         -- the core's issue number of the COLL that posted it (model, log 1)
  first : List (Nat × Nat) := []   -- the hop's span as its descriptors gave it: die, first address (R338)
  todo : List (Nat × Nat × Nat) := []   -- pieces of the hop, or of the payload, that are left: die, address, length
  deriving DecidableEq, Repr

/-- A collective packet whose hops have all acted, or that has ended: its cause and hop field (R342). -/
structure CollDone where
  p     : CollPkt
  cause : Nat
  hop   : Nat
  deriving DecidableEq, Repr

/-- The collective engine of a die (R343). -/
structure CollEng where
  queue  : List CollPkt := []
  served : List Nat := []
  cur    : Option CollPkt := none
  finished : List CollDone := []   -- of this origin, the completion word still to be written
  away   : List CollPkt := []      -- of this origin, on their way in another package
  deriving DecidableEq, Repr

/-- Power state of a die (R371 to R377). -/
structure Power where
  floor   : Bool := true
  lowchg  : Bool := false
  defer   : Bool := false
  slewmiss : Nat := 0
  allow   : Nat := 0       -- A
  ballastFloor : Nat := 0  -- F
  rate    : Nat := 0       -- r
  drawn   : Nat := 0
  pool    : Nat := 0
  share   : Nat := 0       -- c
  interval : Nat := 0      -- 1 + number of the current interval by TICK; 0 before the first
  tenth   : Nat := 0       -- 1 + number of the current tenth
  ballast : Nat := 0       -- tokens of the current installment not yet given back
  demand  : Nat := 0       -- tokens drawn in the current bell, and the prices of units that began to wait in it
  waited  : List Nat := []     -- units that wait for tokens
  bellGot : Nat := 0       -- the bell whose grant arrived last
  last     : Nat × Nat × Nat := (300, 6666, 6666)   -- what the arbiter granted last: G, U, D
  arriving : Option (Nat × Nat × Nat) := none
  grant   : Nat := 300
  up      : Nat := 6666
  down    : Nat := 6666
  pending : Option (Nat × Nat × Nat) := none  -- an arrived grant, in effect at the next interval
  deriving DecidableEq, Repr

/-! ## Die, control die, package -/

structure Die where
  present  : Bool := true
  released : Bool := false
  enabled  : Bool := false
  hbmUp    : Bool := false             -- its HBM stacks are trained
  hbm      : Mem := []
  bad      : SMap Bool := []             -- uncorrectable 32-byte units of HBM
  badLlc   : List Nat := []              -- uncorrectable 64-bit words of the last-level cache, by address / 8 (03 R98)
  mergeUe : List (List (Nat × Nat × LKey × Party)) := []  -- merges over uncorrectable words still to be reported (13 R388)
  errNo : Nat := 0                      -- engine errors recorded, which orders them (model; 11 R365)
  farLines : List FarLine := []          -- lines of other packages that the die's cores buffer (03 R94)
  sdt      : List Desc := []             -- 64
  forced   : Word32 := 0                 -- CU_STAT.FORCED
  episodes : List Episode := []
  corrected : Nat := 0                   -- corrected soft errors (03 R98)
  ueCount  : Nat := 0                    -- uncorrectable errors reported (13 R388)
  llc      : List LlcLine := []          -- most recent first
  phaseSpace : Word64 := 0
  phaseTab : List Word64 := []           -- 5
  phaseSpaceFw : Word64 := 0             -- as firmware last wrote it (R377)
  seed     : Word32 := 1
  price    : List Nat := []              -- 32
  permitCap  : List Nat := []            -- 4
  permitRate : List Nat := []
  permitNext : SMap (Nat × Nat) := []    -- written CAP and RATE by class, in effect at the next core cycle (R370)
  dpcCfg   : Word64 := 0
  vesper   : Word64 := 0
  swp      : List (BitVec 16) := []      -- 66, in effect
  swpFw    : List (BitVec 16) := []      -- as firmware last wrote it
  swpNext  : SMap (BitVec 16) := []      -- written, in effect at the next frame of 16 pulses
  swpBase  : List (BitVec 16) := []      -- swpFw and phaseSpaceFw when LOWCHG was set (R377)
  spaceBase : Word64 := 0
  chg      : Word64 := 0
  power    : Power := {}
  hmap     : List Word64 := []           -- 5
  l2pt     : List Word64 := []           -- 64
  fuseHmap : List Word64 := []
  fuseL2pt : List Word64 := []
  commTab  : List Word64 := []           -- 256
  queuesOpen : Bool := false             -- its queues were opened at bring-up (14 R405)
  queues   : SMap Queue := []
  launches : List Launch := []
  records  : List Dispatched := []       -- latest first, at most 4,096
  gangs    : List Gang := []
  readys   : List ReadyMsg := []         -- READYs of the package on their way to this die
  watchItems : List WatchItem := []
  cells    : List Cell := []             -- 32
  watch    : SMap Watch := []            -- 64
  exports  : SMap Export := []
  imports  : SMap Import := []
  coll     : CollEng := {}
  dieCopies : List CopyOp := []
  copyNo   : Nat := 0
  coreTlb  : SMap (List TlbEntry) := []      -- by logical core, most recent first
  clusterTlb : SMap (List TlbEntry) := []    -- by cluster
  copyTlb  : List TlbEntry := []             -- die copy engine
  collTlb  : List TlbEntry := []             -- collective engine
  ptrCache : List PtrEntry := []
  misses   : List Miss := []                 -- oldest first
  walkNext : Nat := 0                        -- cluster that is served next
  ptroot   : Word64 := 0
  tlbBusy  : Option (Nat × Nat) := none      -- range under invalidation: first address, length
  tlbErr   : Bool := false
  table    : Mem := []                       -- the die's table memory
  faultSlots : SMap FaultRec := []           -- firmware memory's slot of a core (13 R384)
  gated    : List Nat := []
  closing  : List Nat := []                  -- clusters whose admission is closed
  teams    : SMap Team := []
  deriving DecidableEq, Repr

/-- A firmware event (R364). -/
inductive FwEvent where
  | commit (d q : Nat)
  | fault (d c q : Nat) (r : FaultRec)  -- of a team of a launch of queue q
  | record (d q slot : Nat)            -- a completion record or word that could not be written
  | collective (d q : Nat) (pkt : List Word64)   -- of queue q's work; its completion word could not be written
  | ue (d : Nat)
  | mailbox
  | linkDown (l : LinkId)
  deriving DecidableEq, Repr

/-- The queue that an event concerns, or none (R364): by die and number; a package queue's is of no die. -/
def FwEvent.queue : FwEvent → Option (Nat × Nat)
  | .commit d q | .fault d _ q _ | .record d q _ | .collective d q _ => some (if q < 1024 then d else 0, q)
  | .ue _ | .mailbox | .linkDown _ => none

/-- A message that leaves the package. -/
inductive Msg where
  | ready (dest : BitVec 16) (m : ReadyMsg)
  | go (dest : BitVec 16) (gangId : Word32)
  | intent (m : IntentMsg)
  | peer (pkg die : Nat) (r : PeerReq)
  | reply (err : Option Nat) (v : Nat)      -- answer to a peer or host request: a cause, or its data
  | unsupported                             -- Unsupported Request
  | coll (pkg die : Nat) (p : CollPkt)
  | collEnd (pkg die : Nat) (e : CollDone)
  | hostWrite (b : Nat) (v : Nat) (n : Nat)
  | flit (link : Nat) (f : Flit)
  | time (tick : Nat) (hops : Nat)          -- a time message to the neighbours (14 R404)
  | linkDown (f : Flit)
  | dep (pkg die q slot : Nat)
  deriving DecidableEq, Repr

/-- An aligned part of a host request through a window that is still to be served (04 Table 4.4): its virtual address, where
it is served, its bytes, the data of a write, its place in the request. -/
structure HostUnit where
  va    : Nat
  loc   : Loc
  site  : Site
  n     : Nat
  data  : Option Nat
  ofs   : Nat
  treat : Nat
  deriving DecidableEq, Repr

/-- A PCI Express function (14 R397 to R400). -/
structure Func where
  todo    : List HostUnit := []    -- units of its request under way
  got     : Nat := 0               -- what the units of a read have brought
  frozen  : Bool := false
  vectors : List Nat := []         -- raised, latest first
  window  : SMap Nat := []         -- host-window page to die virtual page
  deriving DecidableEq, Repr

/-- A flit that its link has not acknowledged: the cycle at which it was last sent, and its replays since its first sending
(14 R402). -/
structure SentFlit where
  flit : Flit
  sent : Nat
  replays : Nat := 0
  deriving DecidableEq, Repr

/-- A Swiax link (R402). -/
structure Link where
  up     : Bool := false
  tx     : BitVec 8 := 0
  rx     : BitVec 8 := 0
  unacked : List SentFlit := []
  parts   : SMap (List Byte) := [] -- payload of a message that continues, by VC (Table 14.3)
  deriving DecidableEq, Repr

/-- The management mailbox (Table 14.2a). -/
structure Mailbox where
  req    : Mem := []
  cmd    : Mem := []                       -- the request's bytes as they were read when it was taken (R401)
  resp   : Mem := []
  result : Mem := []
  idle   : Bool := false
  early  : Bool := false                   -- the request was received during bring-up step 2 (R407)
  revoking : Option (Nat × Nat) := none    -- die and export of a REVOKE under way
  deriving DecidableEq, Repr

/-- INTENT_STAT and the intents (R378). -/
structure Intents where
  next   : Nat := 0
  defers : Nat := 0
  pend   : Bool := false
  admitting : Bool := false
  admitSlot : Nat := 0
  own    : Option IntentMsg := none
  received : List IntentMsg := []
  deriving DecidableEq, Repr

/-- The control die and the package. -/
structure Pkg where
  mclk    : Nat := 0
  tickOfs : Int := 0
  pkgNo   : BitVec 14 := 0
  boot    : Nat := 0
  bootHalted : Bool := false
  digests : List (List Byte) := []     -- of the verified images, in load order
  pwr     : Word64 := 0
  slew    : Word64 := 0
  slewInEffect : Word64 := 0
  intentCfg : Word64 := 0
  intents : Intents := {}
  cuSeq    : Nat := 0                  -- order of contributions and parkings of the package (03 R94)
  lastBell : Nat := 0                  -- 1 + number of the latest bell by TICK; 0 before the first
  tbOfs   : BitVec 16 := 0
  tbHops  : BitVec 16 := 0
  tbMaster : Bool := false
  tbLost  : Bool := false
  tbSlew  : Int := 0                   -- correction of TICK still to be slewed in, ns
  tbLast  : Nat := 0                   -- TICK of the last time message
  tbGoal  : Int := 0                   -- the correction of which tbSlew is what is left
  tbSent  : Nat := 0                   -- 1 + number of the 10 µs period in which the last time message left
  queues  : SMap Queue := []           -- package queues
  mailbox : Mailbox := {}
  funcs   : List Func := []            -- 4
  hostMem : Mem := []
  links   : List Link := []            -- 16
  flits   : List Flit := []            -- flits that wait for a free credit (R403)
  dieLinks : List Bool := []           -- die 0-1, 0-2, 1-2; die 0, 1, 2 to the control die
  route   : SMap (BitVec 16) := []     -- by fabric number
  events  : List FwEvent := []
  held    : List FwEvent := []         -- events of sources that found the queue full
  mgmt    : List (Option FwEvent) := []  -- the event that each of 12 management cores handles (11 R364)
  deriving DecidableEq, Repr

/-- The state of the machine. -/
structure State where
  agenda  : List Turn := []
  cur     : Agent := .composer 0 0
  freeCtr : Nat := 0
  turnNo  : Nat := 0
  pick    : Nat := 0        -- which of its moves a service makes
  busReply : Word64 := 0
  outbox  : List Msg := []
  pkg     : Pkg := {}
  dies    : List Die := []
  deriving DecidableEq, Repr

/-- Why a step stops with a fault. -/
inductive Fault where
  /-- Raised by a meaning whose executing party does not exist: no team at the core, no group of that number, or an
  instruction of another party's kind. No turn of the machine executes it. Safe. -/
  | noAgent
  deriving DecidableEq, Repr

/-- Why a step is refused. -/
inductive Refusal where
  /-- Raised by the dispatch of an instruction that has no meaning yet. Safe. -/
  | notModelled (mnemonic : String)
  deriving DecidableEq, Repr

/-! ## Reset -/

/-- The physical core of logical index 16y + x in the regular table of program P2 (log 4). -/
def regularPhys (k : Nat) : Nat :=
  let x := k % 16
  let y := k / 16
  4 * ((y / 2) * 8 + x / 2) + 2 * (y % 2) + x % 2

/-- L2PT_k of the regular table (Table 15.2): V and PHYS of four logical cores. -/
def regularL2pt (k : Nat) : Word64 :=
  BitVec.ofNat 64 ((0x8000 + regularPhys (4 * k)) + (0x8000 + regularPhys (4 * k + 1)) * 2 ^ 16 +
    (0x8000 + regularPhys (4 * k + 2)) * 2 ^ 32 + (0x8000 + regularPhys (4 * k + 3)) * 2 ^ 48)

/-- A core die right after reset (INVENTORY.md, "Per core die"). -/
def Die.reset : Die where
  sdt := List.replicate 64 {}
  phaseSpace := 0x0007_0040
  phaseSpaceFw := 0x0007_0040
  phaseTab := [0x7654_3210_7654_3210, 0x7654_3210_7654_3210, 0x7654_3210_7654_3210, 0x7654_3210_7654_3210, 0x10]
  price := [24, 4, 30, 32, 40, 44, 30, 12, 20, 6, 90, 1800, 2000, 2000, 2600, 300, 60, 60, 60, 60, 60, 40,
    0, 0, 0, 0, 0, 0, 0, 0, 0, 0]
  permitCap := [8192, 2048, 1024, 4096]
  permitRate := [340, 420, 180, 200]
  dpcCfg := 0x2008_5555_2001_4BB8
  vesper := 0x0000_0960_6403_2007
  swp := List.replicate 66 0xFFFF
  swpFw := List.replicate 66 0xFFFF
  hmap := List.replicate 5 0
  l2pt := List.replicate 64 0
  fuseHmap := [0xFFFF_FFFF_FFFF_FFFF, 0xFFFF_FFFF_FFFF_FFFF, 0xFFFF_FFFF_FFFF_FFFF, 0xFFFF_FFFF_FFFF_FFFF, 0]
  fuseL2pt := (List.range 64).map regularL2pt
  commTab := List.replicate 256 0
  cells := List.replicate 32 {}

/-- The control die right after reset (INVENTORY.md, "Package and control die"). -/
def Pkg.reset : Pkg where
  pwr := 0x0000_012C_0000_07F8
  slew := 0x0000_4E20_0000_4E20
  slewInEffect := 0x0000_4E20_0000_4E20
  intentCfg := 0x0000_0000_03E8_0014
  funcs := List.replicate 4 {}
  links := List.replicate 16 {}
  dieLinks := List.replicate 6 true
  mgmt := List.replicate 12 none

/-- The machine right after reset. -/
def State.reset : State where
  pkg := Pkg.reset
  dies := List.replicate 3 Die.reset

end Sys2Proof.Machine
end

