-- ==== Sys2Proof/Machine/Ops.lean ====
section
/-! DEFINITION. The named operations over the state that every meaning uses: reading and updating dies, teams, groups
and PC slots; the time base; free values; charging tokens; taking a fault (13 R380 to R386) and returning from one;
and the two wrappers that turn the effect of an instruction into a step of the composer or of a PC slot. -/

namespace Sys2Proof.Machine

open Sys2Proof

/-! ## Reading and updating parts of the state -/

namespace State

def die (s : State) (d : Nat) : Die := s.dies.getD d {}

def updDie (s : State) (d : Nat) (f : Die → Die) : State := { s with dies := Bits.updAt s.dies d f }

def team? (s : State) (d c : Nat) : Option Team := (s.die d).teams.find? c

/-- A team changed in place; no effect where the core holds none. -/
def updTeam (s : State) (d c : Nat) (f : Team → Team) : State :=
  s.updDie d fun x =>
    match x.teams.find? c with
    | some t => { x with teams := x.teams.insert c (f t) }
    | none => x

def group? (s : State) (d c g : Nat) : Option Group := (s.team? d c).bind fun t => t.groups[g]?

def updGroup (s : State) (d c g : Nat) (f : Group → Group) : State :=
  s.updTeam d c fun t => { t with groups := Bits.updAt t.groups g f }

def updComp (s : State) (d c : Nat) (f : Composer → Composer) : State :=
  s.updTeam d c fun t => { t with comp := f t.comp }

/-- TICK, 1 GHz, from the 2.1 GHz master clock (00 R3, 07 Table 7.9; log 5). -/
def tick (s : State) : Nat := Bits.wrap 64 ((s.pkg.mclk * 10 / 21 : Nat) + s.pkg.tickOfs)

/-- A free value, and the state in which it has been taken (log 6). -/
def takeFree (s : State) : Word64 × State := (Config.free s.freeCtr, { s with freeCtr := s.freeCtr + 1 })

def send (s : State) (m : Msg) : State := { s with outbox := s.outbox ++ [m] }

/-- A firmware event posted: the queue holds 1,024, a source that finds it full holds its event, and commit events of
one queue are merged (11 R364). -/
def postFw (s : State) (e : FwEvent) : State :=
  let p := s.pkg
  let isCommit := match e with | .commit _ _ => true | _ => false
  if isCommit && (p.events.contains e || p.held.contains e) then s
  else if p.events.length < 1024 then { s with pkg := { p with events := p.events ++ [e] } }
  else { s with pkg := { p with held := p.held ++ [e] } }

/-- An event taken off the queue by an idle management core: the oldest whose queue no core handles an event of; a held
event takes the place that comes free (11 R364). -/
def takeEvent (s : State) (k : Nat) : State :=
  let p := s.pkg
  let locked (e : FwEvent) : Bool := e.queue.isSome && p.mgmt.any fun h => h.bind FwEvent.queue = e.queue
  match p.events.find? (fun e => !locked e) with
  | some e =>
    { s with pkg := { p with
        events := p.events.erase e ++ p.held.take 1, held := p.held.drop 1, mgmt := p.mgmt.set k (some e) } }
  | none => s

/-- Management core k, if idle, takes an event; else it has handled the one it holds, and its queue's lock is free. -/
def turnCore (s : State) (k : Nat) : State :=
  match s.pkg.mgmt[k]? with
  | some none => s.takeEvent k
  | some (some _) => { s with pkg := { s.pkg with mgmt := s.pkg.mgmt.set k none } }
  | none => s

end State

/-- An uncorrectable error counted and told to firmware (13 R388). -/
def reportUe (s : State) (d : Nat) : State := (s.updDie d fun x => { x with ueCount := x.ueCount + 1 }).postFw (.ue d)

/-! ## Store errors of a core's parties (04 R139) -/

def Team.storeErr (t : Team) (p : Party) : Option Nat :=
  match p with
  | .composer => t.comp.storeErr
  | .group g => (t.groups[g]?).bind (·.storeErr)

def Team.setStoreErr (t : Team) (p : Party) (e : Option Nat) : Team :=
  match p with
  | .composer => { t with comp := { t.comp with storeErr := e } }
  | .group g => { t with groups := Bits.updAt t.groups g fun x => { x with storeErr := e } }

/-- The store error that a party's next release takes: the first one recorded stands (04 R139). -/
def recordStoreErr (s : State) (d c : Nat) (p : Party) (cause : Nat) : State :=
  s.updTeam d c fun t => if (t.storeErr p).isNone then t.setStoreErr p (some cause) else t

namespace Group

def slot (g : Group) (k : Nat) : PcSlot := if k = 0 then g.pc0 else g.pc1

def updSlot (g : Group) (k : Nat) (f : PcSlot → PcSlot) : Group :=
  if k = 0 then { g with pc0 := f g.pc0 } else { g with pc1 := f g.pc1 }

/-- Nesting counter of a strand (05 R161). -/
def nestOf (g : Group) (st : Nat) : BitVec 8 := g.nest.get 0 st

/-- Active strands of a PC slot: in its mask with nesting counter 0 (06 Table 6.17). -/
def active (g : Group) (k : Nat) : BitVec 32 :=
  (List.range 32).foldl (fun m st =>
    if (g.slot k).mask.getLsbD st && g.nestOf st = 0 then m ||| (1 <<< st : BitVec 32) else m) 0

/-- A write to the tagged register empties the collector latch (10 R325). -/
def untag (g : Group) (spec : Nat) : Option Nat := if g.latch = some spec then none else g.latch

/-- v_reg and w_reg of 06 Table 6.17; w63 reads as zero and discards writes. -/
def vreg (g : Group) (n st : Nat) : Word32 := g.v.get 0 (32 * n + st)
def setV (g : Group) (n st : Nat) (x : Word32) : Group := { g with v := g.v.set 0 (32 * n + st) x, latch := g.untag n }
def wreg (g : Group) (n : Nat) : Word32 := if n = 63 then 0 else g.w.get 0 n
def setW (g : Group) (n : Nat) (x : Word32) : Group :=
  if n = 63 then g else { g with w := g.w.set 0 n x, latch := g.untag (192 + n) }

/-- The group has a load or an atomic in flight, or a full/empty load that waits: some register of it is still to be written. -/
def accessing (g : Group) : Bool :=
  let slot (p : PcSlot) : Bool := match p.wait with | .atom _ => true | .fe _ _ _ => true | _ => false
  !g.loads.isEmpty || g.atom.isSome || slot g.pc0 || slot g.pc1

/-- Issue numbers of the accesses of the group behind which its later accesses stand: a load that is not bound, an ATOM, a
full/empty load that waits, and one that has faulted (04 R109, R110, R140). In a group that does not run, and in a team that is
being stopped (`stop`), a full/empty load has not started; what was queued behind a fault is performed for a pre-emption (13
Table 13.4, R390). -/
def barriers (g : Group) (stop : Bool) : List Nat :=
  let slot (p : PcSlot) : List Nat :=
    match p.wait with
    | .load | .atom _ => [p.no]
    | .fe _ _ _ => if stop || g.st ≠ .running then [] else [p.no]
    | _ => []
  slot g.pc0 ++ slot g.pc1 ++ (g.atom.map (·.no)).toList ++ (if stop then [] else g.heldFrom.toList)

/-- Every access of the group issued before number `n` has been bound. -/
def clearTo (g : Group) (stop : Bool) (n : Nat) : Bool := (g.barriers stop).all fun k => decide (n ≤ k)

/-- Some access of the group is not bound yet. -/
def unbound (g : Group) : Bool := !(g.barriers false).isEmpty

/-- A load or an atomic of the group is in flight. A full/empty load that waits has not started, and neither has what stands
behind it (13 Table 13.4). -/
def inFlight (g : Group) (stop : Bool) : Bool :=
  let atom (p : PcSlot) : Bool := (match p.wait with | .atom _ => true | _ => false) && g.clearTo stop p.no
  g.loads.any (fun o => o.units.all (·.val.isSome) || g.clearTo stop o.no) || g.atom.isSome || atom g.pc0 || atom g.pc1

/-- The accesses issued from number `n` on that have brought nothing yet are given up: their slots stand before them again. -/
def giveUp (g : Group) (n : Nat) : Group :=
  let gone (p : PcSlot) : Bool := decide (n ≤ p.no) && (match p.wait with | .load | .atom _ | .fe _ _ _ => true | _ => false)
  let slot (p : PcSlot) : PcSlot := if gone p then { p with wait := .none } else p
  { g with loads := g.loads.filter fun o => decide (o.no < n) || o.units.all (·.val.isSome)
           pc0 := slot g.pc0, pc1 := slot g.pc1 }

end Group

namespace Composer

/-- A composer register; g0 reads as zero (06 R177). -/
def reg (c : Composer) (r : BitVec 5) : Word64 := if r = 0 then 0 else c.g.get 0 r.toNat

/-- A composer register written; a write to g0 is discarded (06 R177). -/
def setReg (c : Composer) (r : BitVec 5) (x : Word64) : Composer :=
  if r = 0 then c else { c with g := c.g.set 0 r.toNat x }

end Composer

/-! ## Declarations and placement -/

namespace Team

/-- Fields of TEAMCFG (07 Table 7.10). -/
def ngroups (t : Team) : Nat := Bits.field t.cfg.toNat 0 9
def vregs (t : Team) : Nat := Bits.field t.cfg.toNat 16 8
def accRows (t : Team) : Nat := 32 * Bits.field t.cfg.toNat 24 8
def scratch (t : Team) : Nat := 4096 * Bits.field t.cfg.toNat 32 9
def divstack (t : Team) : Nat := 64 * Bits.field t.cfg.toNat 48 7
/-- Fields of RECT (07 Table 7.10). -/
def rectX (t : Team) : Nat := Bits.field t.rect.toNat 0 4
def rectY (t : Team) : Nat := Bits.field t.rect.toNat 4 4
def rectW (t : Team) : Nat := Bits.field t.rect.toNat 8 4 + 1
def rectH (t : Team) : Nat := Bits.field t.rect.toNat 12 4 + 1
def ncells (t : Team) : Nat := Bits.field t.rect.toNat 16 6

/-- Logical core index 16y + x lies in the launch's rectangle. -/
def inRect (t : Team) (k : Nat) : Bool :=
  let x := k % 16
  let y := k / 16
  decide (t.rectX ≤ x) && decide (x < t.rectX + t.rectW) && decide (t.rectY ≤ y) && decide (y < t.rectY + t.rectH)

/-- Nothing of the team may start: frozen, or stopped or stopping for a pre-emption (13 R386, R389). -/
def halted (t : Team) : Bool := t.frozen || t.stopReq || t.stopped

end Team

namespace Die

/-- Physical core of a logical core (15 Table 15.2). -/
def physOf (x : Die) (k : Nat) : Nat := Bits.field ((x.l2pt.getD (k / 4) 0).toNat) (16 * (k % 4)) 10

def clusterOf (x : Die) (k : Nat) : Nat := x.physOf k / 4
/-- Physical clusters of a die (00 scope: 66 clusters of 4 cores). -/
def clusterCount : Nat := 66

def launch? (x : Die) (k : LKey) : Option Launch := x.launches.find? (fun l => l.key = k)

def updLaunch (x : Die) (k : LKey) (f : Launch → Launch) : Die :=
  { x with launches := x.launches.map fun l => if l.key = k then f l else l }

/-- Price of an entry of the die's price table (12 R368). -/
def priceOf (x : Die) (e : Nat) : Nat := x.price.getD e 0

end Die

/-- QUOTA of a launch packet in mJ (11 Table 11.5). -/
def Launch.quota (l : Launch) : Nat := Bits.field (l.pkt.getD 4 0).toNat 32 32

/-- The launch has used its energy quota: no further tokens are granted to it (11 R363). -/
def Launch.spent (l : Launch) : Bool := l.quota ≠ 0 && decide (l.quota * 1000000000 ≤ l.energy)

/-! ## Tokens (12) -/

/-- The bucket that a unit of a core is charged to (12 Table 12.1). -/
inductive PClass where
  | matrix | vector | sfu | memory
  deriving DecidableEq, Repr

def PClass.idx : PClass → Nat | .matrix => 0 | .vector => 1 | .sfu => 2 | .memory => 3

def Permits.get (p : Permits) : PClass → Int
  | .matrix => p.matrix | .vector => p.vector | .sfu => p.sfu | .memory => p.memory

def Permits.put (p : Permits) (c : PClass) (n : Int) : Permits :=
  match c with
  | .matrix => { p with matrix := n } | .vector => { p with vector := n }
  | .sfu => { p with sfu := n } | .memory => { p with memory := n }

/-- The permit of a class covers min(price, CAP) (12 R370). -/
def permitCovers (s : State) (d c : Nat) (cls : PClass) (price : Nat) : Bool :=
  match s.team? d c with
  | none => false
  | some t => decide (((min price ((s.die d).permitCap.getD cls.idx 0) : Nat) : Int) ≤ t.permits.get cls)

/-- The launch of a core's team has not used its quota (11 R363). -/
def quotaLeft (s : State) (d c : Nat) : Bool :=
  match s.team? d c with
  | none => false
  | some t => match (s.die d).launch? t.key with | some l => !l.spent | none => true

/-- A unit of the class may start. -/
def mayStart (s : State) (d c : Nat) (cls : PClass) (price : Nat) : Bool := permitCovers s d c cls price && quotaLeft s d c

/-- The whole price subtracted from the permit and counted for the launch (12 R369, R370, 11 R363). -/
def charge (s : State) (d c : Nat) (cls : PClass) (price : Nat) : State :=
  match s.team? d c with
  | none => s
  | some t =>
    (s.updTeam d c fun t => { t with permits := t.permits.put cls (t.permits.get cls - price) }).updDie d fun x =>
      x.updLaunch t.key fun l => { l with energy := l.energy + price }

/-- A unit that waits for tokens counts in the die's demand of the bell in which it began to wait (12 R372). -/
def noteWait (s : State) (d unit price : Nat) : State :=
  s.updDie d fun x =>
    if x.power.waited.contains unit then x
    else { x with power := { x.power with waited := x.power.waited ++ [unit], demand := x.power.demand + price } }

/-- A unit waits for tokens no longer. -/
def noWait (s : State) (d unit : Nat) : State :=
  s.updDie d fun x =>
    if x.power.waited.contains unit then { x with power := { x.power with waited := x.power.waited.erase unit } } else x

/-- The number of a PC slot as a unit that waits for tokens. -/
def slotUnit (c g sl : Nat) : Nat := (c * 512 + g) * 2 + sl

/-- The number of an engine's unit as such: k is 0 for the matrix engine of core c, 1 + n for its copy of number n. Of the
die's own engines, 256 is the copy engine and 257 the collective engine. -/
def engineUnitNo (c k : Nat) : Nat := 262144 + 258 * k + c

/-- A copy's unit, and the collective engine's. -/
def copyUnit (c no : Nat) : Nat := engineUnitNo c (1 + no)
def dieCopyUnit (no : Nat) : Nat := copyUnit 256 no
def collUnit : Nat := engineUnitNo 257 0

/-- The unit is one of a core. -/
def unitOf (c u : Nat) : Bool := if u < 262144 then u / 1024 = c else (u - 262144) % 258 = c

/-- The units of a core that is freed wait no longer. -/
def Die.forgetWaits (x : Die) (c : Nat) : Die :=
  { x with power := { x.power with waited := x.power.waited.filter fun u => !unitOf c u } }

/-! ## Pulses (12 R375) -/

/-- The pulse of the current cycle of the master clock reaches cluster `n`. -/
def clusterPulse (s : State) (x : Die) (n : Nat) : Bool := (x.swp.getD n 0xFFFF).getLsbD (s.pkg.mclk % 16)

/-- The pulse of the current cycle reaches the core, its cluster's crossbar and its cluster TLB. -/
def pulsePasses (s : State) (x : Die) (c : Nat) : Bool := clusterPulse s x (x.clusterOf c)

/-! ## Frames -/

/-- Index into the frame buffer of word `k` of a frame (05 R152). -/
def Frame.index (f : Frame) (k : Nat) : Nat := 64 * f.chunks.getD (k / 64) 0 + k % 64

/-- Words of block `b` of a sealed frame, its header included. -/
def Frame.blockLen (f : Frame) (b : Nat) : Nat := (if b + 1 < f.starts.length then f.starts.getD (b + 1) 0 else f.words) - f.starts.getD b 0

def Frame.blocks (f : Frame) : Nat := f.starts.length

namespace Team

def frameOf (t : Team) (g : Group) : Frame :=
  match g.frame with
  | some f => t.frames.getD f {}
  | none => {}

/-- Index into the frame buffer of word `w` of block `b` of the group's frame. -/
def fbIndex (t : Team) (g : Group) (b w : Nat) : Nat :=
  let f := t.frameOf g
  f.index (f.starts.getD b 0 + w)

def header (t : Team) (g : Group) (b : Nat) : Word64 := t.fb.get 0 (t.fbIndex g b 0)

end Team

/-! ## Where a team's groups stand (05 R145) -/

/-- Quadrant of a group of a team. -/
def quadrantOf (g : Nat) : Nat := g % 4
/-- Lane of the quadrant. -/
def laneInQuadrant (g : Nat) : Nat := g / 4 % 20
/-- Lane of the core. -/
def laneOf (g : Nat) : Nat := 20 * quadrantOf g + laneInQuadrant g
/-- Slot of the lane. -/
def slotOf (g : Nat) : Nat := g / 80
/-- The lane's register that holds register v(n) of a group, in a team of `vregs` vector registers. -/
def laneRegister (vregs g n : Nat) : Nat := slotOf g * vregs + n

/-! ## Uncorrectable words of a core (13 R388) -/

/-- The word lies in bytes of the scratchpad, at least in part. -/
def Ram.meetsSp (r : Ram) (ofs n : Nat) : Bool :=
  match r with | .sp k => decide (8 * k < ofs + n) && decide (ofs < 8 * k + 8) | _ => false
/-- The word is a whole one of bytes of the scratchpad. -/
def Ram.wholeSp (r : Ram) (ofs n : Nat) : Bool :=
  match r with | .sp k => decide (ofs ≤ 8 * k) && decide (8 * k + 8 ≤ ofs + n) | _ => false
def Ram.meetsStore (r : Ram) (ofs n : Nat) : Bool :=
  match r with | .store k => decide (8 * k < ofs + n) && decide (ofs < 8 * k + 8) | _ => false
def Ram.wholeStore (r : Ram) (ofs n : Nat) : Bool :=
  match r with | .store k => decide (ofs ≤ 8 * k) && decide (8 * k + 8 ≤ ofs + n) | _ => false
/-- The word holds cells of the accumulator tile at (tr, tc). -/
def Ram.inTile (r : Ram) (tr tc : Nat) : Bool :=
  match r with | .acc k => k / 128 / 32 = tr && k % 128 / 16 = tc | _ => false

namespace Team

def badSp (t : Team) (ofs n : Nat) : Bool := t.bad.any fun r => r.meetsSp ofs n
def badStore (t : Team) (ofs n : Nat) : Bool := t.bad.any fun r => r.meetsStore ofs n
/-- One of `n` scale entries from a number on is uncorrectable. -/
def badScale (t : Team) (lo n : Nat) : Bool :=
  t.bad.any fun r => match r with | .scale k => decide (lo ≤ k) && decide (k < lo + n) | _ => false
def badTile (t : Team) (tr tc : Nat) : Bool := t.bad.any fun r => r.inTile tr tc
/-- A word of the residue file of a group is uncorrectable. -/
def badResidues (t : Team) (g : Nat) : Bool := t.bad.any fun r => match r with | .res h _ => h = g | _ => false
/-- Words replaced by writes that cover them are correct again. -/
def heal (t : Team) (p : Ram → Bool) : Team := { t with bad := t.bad.filter fun r => !p r }
/-- A provenance entry; an uncorrectable one reads as all ones. -/
def provAt (t : Team) (k : Nat) : Word32 := if t.bad.contains (.prov (k / 2)) then 0xFFFF_FFFF else t.prov.get 0 k
/-- Bytes written to the composer store. -/
def storeWrite (t : Team) (ofs n v : Nat) : Team :=
  { t with store := t.store.write ofs n v, bad := t.bad.filter fun r => !r.wholeStore ofs n }

end Team

/-! ## Fault codes (13 Table 13.3) and causes (01 Table 1.9, 10 Table 10.9) -/

namespace Code
def XLATE : Nat := 0x01
def PROT : Nat := 0x02
def MISALIGN : Nat := 0x03
def ILLOP : Nat := 0x04
def BADTARGET : Nat := 0x05
def IDXBOUND : Nat := 0x06
def SYNCMASK : Nat := 0x07
def LOCKHIT : Nat := 0x08
def NEST : Nat := 0x09
def SPILL : Nat := 0x0A
def ARITH : Nat := 0x0B
def UE : Nat := 0x0C
def ABSENT : Nat := 0x0D
def DESYNC : Nat := 0x0E
def STEP : Nat := 0x0F
def BRK : Nat := 0x10
def TRAP : Nat := 0x11
def SHAPE : Nat := 0x12
def ENGINE : Nat := 0x13
def ACCBOUND : Nat := 0x14
def GXLATE : Nat := 0x40
def GPROT : Nat := 0x41
def GILLOP : Nat := 0x42
def FRAMING : Nat := 0x43
def FRAMESIZE : Nat := 0x44
def EMITDEAD : Nat := 0x45
def SHAPEDEF : Nat := 0x46
def GMISALIGN : Nat := 0x47
def GUE : Nat := 0x48
def GBRK : Nat := 0x49
end Code

namespace Cause
def NOTMAPPED : Nat := 0
def NONCANON : Nat := 1
def MALFORMED : Nat := 2
def BADFMT : Nat := 3
def DESCRIPTOR : Nat := 4
def OUTSIDE : Nat := 5
def REMOTE : Nat := 6
def REVOKED : Nat := 7
def PEERMISS : Nat := 8
def FROZEN : Nat := 9
def NOWRITE : Nat := 10
def NOEXEC : Nat := 11
def DEVICEKIND : Nat := 12
def FMTMISMATCH : Nat := 16
def LINKDOWN : Nat := 17
def UE : Nat := 18
def TAGMISMATCH : Nat := 19
def NOSLOT : Nat := 20
def BADPKT : Nat := 21
end Cause

/-- What a fault says of itself, beside where it was raised. -/
structure FaultInfo where
  code   : Nat
  cause  : Nat := 0
  mask   : BitVec 32 := 0
  access : Nat := 0
  va     : Nat := 0
  aux    : Nat := 0
  woff   : Nat := 0
  deriving DecidableEq, Repr

/-! ## Taking a fault (13 R380, R381, R384, R386) -/

/-- The record of a lane fault (Table 13.1). -/
def laneRecord (s : State) (d c g sl : Nat) (f : FaultInfo) : FaultRec :=
  match s.team? d c, s.group? d c g with
  | some t, some x =>
    let p := x.slot sl
    let fr := t.frameOf x
    let w := fr.starts.getD p.block 0 + p.word
    { code := f.code, cause := f.cause, fid := x.frame.getD 0, slot := sl, group := g, log := c,
      phys := (s.die d).physOf c, die := d, mask := f.mask, access := f.access, va := f.va,
      provn := t.provAt (fr.index w), woff := w, tick := s.tick, aux := f.aux }
  | _, _ => {}

/-- The record of a composer fault (Table 13.1). -/
def compRecord (s : State) (d c : Nat) (f : FaultInfo) : FaultRec :=
  { code := f.code, levelG := true, cause := f.cause, log := c, phys := (s.die d).physOf c, die := d,
    access := f.access, va := f.va, woff := f.woff, tick := s.tick, aux := f.aux,
    cpc := match s.team? d c with | some t => t.comp.pc.toNat | none => 0 }

/-- A fault goes to firmware: its record is written to the core's slot of firmware memory, and an event that carries the
launch's queue is posted (R382, R384). -/
def tellFault (s : State) (d c : Nat) (r : FaultRec) : State :=
  let q := match s.team? d c with | some t => t.key.q | none => 0
  (s.updDie d fun x => { x with faultSlots := x.faultSlots.insert c r }).postFw (.fault d c q r)

/-- The group that an event of the queue is of. -/
def Ev.group? : Ev → Option Nat
  | .fault g _ | .step g _ => some g
  | .frame _ _ => none

/-- The entries of the event queue: one for each of 320 groups and 16 frame ids (07 R230). -/
def eventEntries : Nat := 336

/-- The queue without the first event whose group has a later one in it. -/
def dropOldest : List Ev → List Ev
  | [] => []
  | e :: q => if e.group?.isSome && q.any (fun v => v.group? = e.group?) then q else e :: dropOldest q

/-- An event posted behind those that are queued, so that events leave in the order they were posted (07 R230). A group
that is resumed with its event still queued and stops again has two events queued; where the 336 entries are taken,
the oldest event of a group that has a later one makes the room (log 43). -/
def postEvent (q : List Ev) (e : Ev) : List Ev :=
  if q.length < eventEntries then q ++ [e] else dropOldest (q ++ [e])

/-- The provenance word that a stop reports is uncorrectable (13 R388). -/
def provBad (s : State) (d c g woff : Nat) : Bool :=
  match s.team? d c, s.group? d c g with
  | some t, some x => t.bad.contains (.prov ((t.frameOf x).index woff / 2))
  | _, _ => false

/-- A group stops in both PC slots with a record and the notice of it goes out: to the composer where FVEC has the
code's bit and the code is not PROT, else to firmware; PROT freezes the team (R380, R381, R384, R386). An uncorrectable
provenance word that it reports is told to firmware (R388). -/
def stopGroup (s0 : State) (d c g sl : Nat) (r : FaultRec) : State :=
  let s := if provBad s0 d c g r.woff then reportUe s0 d else s0
  let s1 := s.updGroup d c g fun x =>
    { (x.updSlot sl fun p => { p with walkFail := [] }) with
      st := .stopped, code := r.code, slotF := sl, stepping := none, frec := r }
  let toComposer := r.code ≠ Code.PROT &&
    (match s.team? d c with | some t => t.comp.fvec.getLsbD r.code | none => false)
  if toComposer then
    s1.updComp d c fun k =>
      { k with evq := postEvent k.evq (if r.code = Code.STEP then .step g r else .fault g r) }
  else
    let s2 := if r.code = Code.PROT then s1.updTeam d c fun t => { t with frozen := true } else s1
    tellFault s2 d c r

/-- A lane fault or STEP stop is taken at the slot's current word. -/
def takeLaneFault (s : State) (d c g sl : Nat) (f : FaultInfo) : State :=
  stopGroup s d c g sl (laneRecord s d c g sl f)

/-- A composer fault is taken: the record is written, the composer stops and firmware is told; GPROT freezes the team
(R380, R381, R384, R386). A partly performed emission is given up: it re-executes from its start (R385). -/
def takeCompFault (s : State) (d c : Nat) (f : FaultInfo) : State :=
  let r := compRecord s d c f
  let s1 := s.updComp d c fun k => { k with stat := .stopped, frec := r, walkFail := [], pend := none, dbgStep := false }
  let s2 := if f.code = Code.GPROT then s1.updTeam d c fun t => { t with frozen := true } else s1
  tellFault s2 d c r

/-! ## Completion codes (11 Table 11.8) -/

namespace Status
def ENGINE : Nat := 0x13
def NODIE : Nat := 0x80
def QUOTA : Nat := 0x81
def GANGMISS : Nat := 0x82
def BADPKT : Nat := 0x83
def LINKDOWN : Nat := 0x84
def RESET : Nat := 0x85
end Status

/-! ## Leaving a frame (05 Table 5.2, 07 R230) -/

/-- A frame event posted or counted into the one queued for the same frame id (R230). -/
def postFrame (q : List Ev) (fid : Nat) : List Ev :=
  if q.any (fun e => match e with | .frame f _ => f = fid | _ => false) then
    q.map fun e => match e with
      | .frame f n => if f = fid then .frame f (min 255 (n + 1)) else e
      | _ => e
  else q ++ [.frame fid 1]

/-- The frame after its last group has left: sealed, or free where it was releasing (Table 5.2). -/
def Frame.left (f : Frame) : Frame :=
  match f.st with
  | .running => { f with st := .sealed }
  | .releasing => { gen := f.gen }
  | _ => f

/-- A group that has become idle or was killed leaves its frame. -/
def leaveFrame (s : State) (d c g : Nat) : State :=
  match s.group? d c g with
  | none => s
  | some x =>
    match x.frame with
    | none => s
    | some fid =>
      let s1 := s.updGroup d c g fun x => { x with frame := none }
      s1.updTeam d c fun t =>
        if t.groups.any (fun y => y.frame = some fid) then t
        else
          let wasRunning := (t.frames.getD fid {}).st = .running
          { t with
            frames := Bits.updAt t.frames fid Frame.left
            comp := if wasRunning && t.comp.evctl.getLsbD 0 then { t.comp with evq := postFrame t.comp.evq fid } else t.comp }

/-! ## Returning from a fault (07 R228, R229, R232, 13 R382, R385) -/

/-- A group becomes idle: its PC slots, counters and waits are emptied; its registers keep their values. -/
def idleGroup (x : Group) : Group :=
  { x with st := .idle, stepping := none, heldFrom := none, pc0 := {}, pc1 := {}, nest := [], spill := [] }

/-! ## A composer instruction -/

/-- The effect of a composer instruction. -/
inductive CRes where
  | next (s : State)                    -- the PC moves on by 4
  | jump (s : State) (pc : Word64)      -- the PC is set
  | wait (s : State)                    -- not executed; it is tried again
  | fault (f : FaultInfo) (s : State)   -- stopped at this instruction

/-- The composer may execute: running, waiting for nothing, its team not halted. -/
def compReady (t : Team) : Bool := t.comp.stat = .running && t.comp.wait = .none && !t.halted

/-- After an instruction of a composer that the debug agent steps, the composer stops with GBRK (13 R395). CPC of the record is the
address of the next instruction (DESIGN CHOICE, log 46). -/
def compStepped (s : State) (d c : Nat) : State :=
  match s.team? d c with
  | some t =>
    if t.comp.dbgStep && t.comp.stat = .running then
      takeCompFault s d c { code := Code.GBRK, access := 0x10000 }
    else s
  | none => s

/-- The program counter set, and the record of a failed walk dropped. -/
def setPc (s : State) (d c : Nat) (pc : Word64) : State :=
  s.updComp d c fun k => { k with pc := pc, walkFail := [] }

/-- A composer instruction executed by the current agent. A composer that is not ready passes its turn. -/
def execComposer (m : Nat → Nat → Team → State → CRes) (s : State) : Host.Outcome State Fault Refusal :=
  match s.cur with
  | .composer d c =>
    match s.team? d c with
    | none => .fault .noAgent
    | some t =>
      if !compReady t then .next s
      else
        match m d c t s with
        | .next s' => .next (compStepped (setPc s' d c (t.comp.pc + 4)) d c)
        | .jump s' pc => .next (compStepped (setPc s' d c pc) d c)
        | .wait s' => .next s'
        | .fault f s' => .next (takeCompFault s' d c f)
  | _ => .fault .noAgent

end Sys2Proof.Machine
end

