-- ==== Sys2Proof/Machine/Flags.lean ====
section
/-! DEFINITION. The arithmetic flags of a group (08 R243, 09 Table 9.8), and the results of floating-point operations on
one element with the flags they raise (08 R252, 02 R51 to R54). -/

namespace Sys2Proof.Machine

open Sys2Proof

/-- Flags ORed into ASF. -/
def Group.raise (x : Group) (f : Fl.Flags) : Group := { x with asf := x.asf ||| f }

namespace Fl32

open Fl

/-- The result of an operation on elements of a format: F32 and F16 round once in the mode; BF16 rounds in the mode to
F32 and then to BF16 to nearest even, with the flags of both (R252). -/
def out (f : FF) (mode : RMode) (fz : Bool) (v : FVal) : FRes :=
  if f = bf16 then
    let a := pack f32 mode false fz v
    let b := pack bf16 .rn false fz (decode f32 a.w)
    { b with fl := a.fl ||| b.fl }
  else pack f mode false fz v

def add (f : FF) (mode : RMode) (fz : Bool) (x y : Nat) : FRes :=
  let r := addV mode (decodeFz f fz x) (decodeFz f fz y)
  let p := out f mode fz r.1
  { p with fl := p.fl ||| r.2 }

def sub (f : FF) (mode : RMode) (fz : Bool) (x y : Nat) : FRes := add f mode fz x (neg f y)

def mul (f : FF) (mode : RMode) (fz : Bool) (x y : Nat) : FRes :=
  let r := mulV (decodeFz f fz x) (decodeFz f fz y)
  let p := out f mode fz r.1
  { p with fl := p.fl ||| r.2 }

def fma (f : FF) (mode : RMode) (fz : Bool) (x y z : Nat) : FRes :=
  let r := mulV (decodeFz f fz x) (decodeFz f fz y)
  let t := addV mode r.1 (decodeFz f fz z)
  let p := out f mode fz t.1
  { p with fl := p.fl ||| r.2 ||| t.2 }

/-- FSCALE: x × 2^n. Beyond ± 1,000 every n gives the same result. -/
def scale (f : FF) (mode : RMode) (fz : Bool) (x : Nat) (n : Int) : FRes :=
  let k : Int := if n < -1000 then -1000 else if 1000 < n then 1000 else n
  match decodeFz f fz x with
  | .fin a m e => out f mode fz (.fin a m (e + k))
  | v => out f mode fz v

/-- FRND: rounded to an integral value; the sign of zero is kept and nothing is raised. -/
def round (f : FF) (mode : RMode) (fz : Bool) (x : Nat) : FRes :=
  match decodeFz f fz x with
  | .fin a m e =>
    let r := quantize mode a m e 0
    { w := (out f .rn false (.fin a r.1 0)).w }
  | v => { w := (out f .rn false v).w }

/-- FCMP's conditions (R253): the truth and the flags. -/
def compare (f : FF) (fz : Bool) (x y cond : Nat) : Bool × Flags :=
  let a := decodeFz f fz x
  let b := decodeFz f fz y
  if a.isNan || b.isNan then (cond = 1 || cond = 6, if 2 ≤ cond ∧ cond ≤ 5 then NV else 0)
  else
    let c := cmpV a b
    (match cond with
     | 0 => c = 0
     | 1 => c ≠ 0
     | 2 => decide (c < 0)
     | 3 => decide (c ≤ 0)
     | 4 => decide (0 < c)
     | 5 => decide (0 ≤ c)
     | 7 => true
     | _ => false, 0)

/-- FCLASS (R253). -/
def classify (f : FF) (x : Nat) : Nat :=
  match decode f x with
  | .nan => 2 ^ 8
  | .inf a => if a then 2 ^ 0 else 2 ^ 7
  | .fin a m _ =>
    if m = 0 then (if a then 2 ^ 3 else 2 ^ 4)
    else if m < 2 ^ f.mb then (if a then 2 ^ 2 else 2 ^ 5)
    else if a then 2 ^ 1 else 2 ^ 6

/-- A finite magnitude rounded to an integer in a mode. -/
def toInt (mode : RMode) (neg : Bool) (m : Nat) (e : Int) : Int × Bool :=
  let r := quantize mode neg m e 0
  (if neg then -(r.1 : Int) else r.1, r.2)

/-- Float to an integer of w bits (R255): NaN gives 0, a value beyond the range the nearest bound, both with invalid;
else inexact where rounding changed the value. -/
def toInteger (mode : RMode) (signed : Bool) (w : Nat) (v : FVal) : FRes :=
  let lo : Int := if signed then -(2 ^ (w - 1) : Nat) else 0
  let hi : Int := if signed then (2 ^ (w - 1) : Nat) - 1 else (2 ^ w : Nat) - 1
  match v with
  | .nan => { w := 0, fl := NV }
  | .inf a => { w := Bits.wrap w (if a then lo else hi), fl := NV }
  | .fin a m e =>
    let r := toInt mode a m e
    if r.1 < lo then { w := Bits.wrap w lo, fl := NV }
    else if hi < r.1 then { w := Bits.wrap w hi, fl := NV }
    else { w := Bits.wrap w r.1, fl := if r.2 then NX else 0 }

end Fl32

end Sys2Proof.Machine
end

