-- ==== Sys2Proof/Machine/Slots.lean ====
section
/-! DEFINITION. PC slots: entering blocks, splitting and merging (05 R163 to R166, 06 R196), and the wrapper that turns
the effect of a lane instruction into a step of its PC slot. -/

namespace Sys2Proof.Machine

open Sys2Proof

/-! ## Blocks (06 Table 6.17a) -/

def reconOf (h : Word64) : Nat := Bits.field h.toNat 24 12
def lastOf (h : Word64) : Bool := h.getLsbD 16

/-- The slot enters block `b`: it becomes waiting where the block is its mark, else it is live at the block's first
word after the header (05 R166, 06 R196). -/
def PcSlot.enter (p : PcSlot) (b : Nat) : PcSlot :=
  { p with block := b, word := 1, walkFail := [], led := none, st := if b = p.mark then .waiting else .live }

/-- The slot moves past its word. At the end of its block it enters the next one, or stays behind the last word where
the block is LAST or the final one (06 R196). -/
def PcSlot.advance (f : Frame) (hdr : Nat → Word64) (p : PcSlot) : PcSlot :=
  let w := p.word + 1
  if w < f.blockLen p.block || lastOf (hdr p.block) || decide (f.blocks ≤ p.block + 1) then
    { p with word := w, walkFail := [] }
  else p.enter (p.block + 1)

/-! ## Merging (05 Table 5.7) -/

/-- What one application of the merge rules does. -/
inductive Merge where
  | idle                -- no rule matches
  | step (x : Group)    -- a rule has been applied
  | fault (x : Group) (sl : Nat)   -- BADTARGET at the merge of a slot: the header's mark is at or below M
  deriving DecidableEq, Repr

/-- The top spill entry popped into an empty slot (rule 2). -/
def Group.popInto (x : Group) (sl : Nat) : Group :=
  match x.spill with
  | [] => x
  | e :: r =>
    { (x.updSlot sl fun q =>
        ({ mask := e.mask, mark := e.mark, block := e.block, word := 1, led := e.led, since := q.since,
           st := if e.block = e.mark then .waiting else .live } : PcSlot)) with spill := r }

/-- The first rule of Table 5.7 that matches for the waiting slot `sl`. -/
def Group.mergeAt (x : Group) (hdr : Nat → Word64) (sl : Nat) : Merge :=
  let p := x.slot sl
  let o := x.slot (1 - sl)
  let m := p.mark
  if p.st ≠ .waiting then .idle
  else if o.st = .waiting && o.mark = m then
    .step { x with pc0 := { x.pc0 with mask := p.mask ||| o.mask }, pc1 := {} }
  else
    match x.spill with
    | e :: r =>
      if e.mark = m && e.block = m then
        .step { (x.updSlot sl fun q => { q with mask := q.mask ||| e.mask }) with spill := r }
      else if e.mark = m then
        .step { (x.updSlot sl fun q =>
          { q with mask := e.mask, block := e.block, word := 1, st := .live, led := none }) with
            spill := { mark := m, block := m, mask := p.mask, led := p.led } :: r }
      else if (o.st = .empty || decide (m < o.mark)) && x.spill.all (fun e => decide (m < e.mark)) then
        if reconOf (hdr m) ≤ m then .fault x sl
        else .step (x.updSlot sl fun q => { q with st := .live, block := m, word := 1, mark := reconOf (hdr m), led := none })
      else .idle
    | [] =>
      if o.st = .empty || decide (m < o.mark) then
        if reconOf (hdr m) ≤ m then .fault x sl
        else .step (x.updSlot sl fun q => { q with st := .live, block := m, word := 1, mark := reconOf (hdr m), led := none })
      else .idle

/-- One application: an empty slot pops the spill stack, else a waiting slot merges, PC slot 0 first (R166). -/
def Group.mergeOnce (x : Group) (hdr : Nat → Word64) : Merge :=
  if x.pc0.st = .empty && !x.spill.isEmpty then .step (x.popInto 0)
  else if x.pc1.st = .empty && !x.spill.isEmpty then .step (x.popInto 1)
  else
    match x.mergeAt hdr 0 with
    | .idle => x.mergeAt hdr 1
    | m => m

/-- The rules applied until none matches; the fuel bounds their number. -/
def Group.mergeAll (hdr : Nat → Word64) : Nat → Group → Merge
  | 0, x => .step x
  | n + 1, x =>
    match x.mergeOnce hdr with
    | .idle => .step x
    | .step y => Group.mergeAll hdr n y
    | .fault y sl => .fault y sl

def Group.mergeFuel (x : Group) : Nat := 2 * x.spill.length + 6

/-! ## The slots of a group after an instruction -/

/-- A slot that has arrived at a SYNC and can no longer be joined, with the members that have not arrived: the other
slot, which held them, has reached a mark or emptied (05 R167). -/
def Group.syncBroken (x : Group) : Option (Nat × BitVec 32) :=
  let bad (sl : Nat) : Option (Nat × BitVec 32) :=
    match (x.slot sl).wait with
    | .sync m => if (x.slot (1 - sl)).st = .live then none else some (sl, m &&& ~~~(x.slot sl).mask)
    | _ => none
  match bad 0 with
  | some r => some r
  | none => bad 1

/-- Strands that have come to their mark, in a waiting slot or in a spill entry, keep the record of the instruction that has
led them there: `r0`, unless they came before (R166). -/
def Group.noteLed (x : Group) (r0 : FaultRec) : Group :=
  let slot (p : PcSlot) : PcSlot := if p.st = .waiting && p.led.isNone then { p with led := some r0 } else p
  { x with pc0 := slot x.pc0, pc1 := slot x.pc1
           spill := x.spill.map fun e => if e.block = e.mark && e.led.isNone then { e with led := some r0 } else e }

/-- The merges that a movement leads into, done (R166); a SYNC that the movement breaks stops the group before it
(R167). A merge fault names the word and the slot of the instruction that led the slot to its mark: the one that moved, for
which `r0` was built, or the one kept with the slot. A group that has stopped merges when it runs again: it raises no other
fault before (13 R383). -/
def settle (s : State) (d c g : Nat) (r0 : FaultRec) : State :=
  match s.team? d c, s.group? d c g with
  | some t, some x0 =>
    let x := x0.noteLed r0
    if x.st ≠ .running then s.updGroup d c g fun _ => x
    else
    match x.mergeAll (t.header x) x.mergeFuel with
    | .fault y sl =>
      let r := ((y.slot sl).led).getD r0
      stopGroup (s.updGroup d c g fun _ => y.noteLed r0) d c g r.slot { r with code := Code.BADTARGET, tick := s.tick }
    | .idle => s
    | .step y =>
      let s1 := s.updGroup d c g fun _ => y.noteLed r0
      match x.syncBroken with
      | none => s1
      | some (sl, m) =>
        takeLaneFault (s1.updGroup d c g fun x => x.updSlot sl fun p => { p with wait := .none }) d c g sl
          { code := Code.SYNCMASK, mask := m }
  | _, _ => s

/-- A group all of whose strands have exited becomes idle and leaves its frame (05 R156). -/
def idleIfEmpty (s : State) (d c g : Nat) : State :=
  match s.group? d c g with
  | some x =>
    if x.st = .running && x.pc0.st = .empty && x.pc1.st = .empty && x.spill.isEmpty then
      leaveFrame (s.updGroup d c g idleGroup) d c g
    else s
  | none => s

/-- A group that runs with STEP stops once the instruction that it has issued is complete; SLOT names the slot that
issued it (13 R395). -/
def stepStop (s : State) (d c g : Nat) (r0 : FaultRec) : State :=
  match s.group? d c g with
  | some x =>
    match x.stepping with
    | some sl =>
      if x.step && x.st = .running && (x.slot sl).wait = .none then
        stopGroup s d c g sl { r0 with code := Code.STEP, slot := sl, mask := 0, cause := 0, va := 0, access := 0 }
      else s
    | none => s
  | none => s

/-- The tail of every completed lane instruction. -/
def finishLane (s : State) (d c g : Nat) (r0 : FaultRec) : State :=
  stepStop (idleIfEmpty (settle s d c g r0) d c g) d c g r0

/-- The slot has issued an instruction: the lanes of the core count it (log 1), and a group that runs with STEP has issued
the one that it may (13 R395). -/
def markIssue (s : State) (d c g sl : Nat) : State :=
  (s.updTeam d c fun t => { t with issues := t.issues + 1 }).updGroup d c g fun x =>
    if x.step && x.st = .running then { x with stepping := some sl } else x

/-- The slot moves past its word. -/
def advanceSlot (s : State) (d c g sl : Nat) : State :=
  match s.team? d c with
  | some t =>
    s.updGroup d c g fun x => x.updSlot sl fun p => { (p.advance (t.frameOf x) (t.header x)) with wait := .none }
  | none => s

/-- A stopped group runs again (07 R228, R232, 13 R382): a faulting instruction re-executes, a merge that faulted is
tried again (05 R166). `step` is the new GSW.STEP. An event of the group that is still queued stays queued: the manual
withdraws one only for KILL (DESIGN CHOICE, log 43). -/
def resumeGroup (s : State) (d c g : Nat) (step : Bool) : State :=
  match s.group? d c g with
  | some x =>
    if x.st = .stopped then
      settle (s.updGroup d c g fun x => { x with st := .running, step := step, heldFrom := none }) d c g x.frec
    else s
  | none => s

/-- An instruction that has waited for an event completes: its slot moves on. A group that a fault of its other slot
has stopped merges when it resumes; a slot that has reached its mark keeps the record of the instruction (R166). -/
def completeHeld (s : State) (d c g sl : Nat) : State :=
  finishLane (advanceSlot s d c g sl) d c g (laneRecord s d c g sl { code := 0 })

/-- The group stops behind an instruction of the slot, once the merges that it leads into are done. A merge that faults, or
a SYNC that breaks, is left for when the group runs again: the group raises one fault until then (13 R383). -/
def stopBehind (s : State) (d c g sl : Nat) (r0 r : FaultRec) : State :=
  let s1 := settle s d c g r0
  let settled : Bool := match s1.group? d c g with | some x => decide (x.st = .running) | none => false
  stopGroup (if settled then s1 else s) d c g sl r

/-! ## A lane instruction -/

/-- The PC slot that executes, with what it executes on. -/
structure LaneCtx where
  d  : Nat
  c  : Nat
  g  : Nat
  sl : Nat
  t  : Team
  x  : Group
  act : BitVec 32
  deriving DecidableEq, Repr

/-- The effect of a lane instruction. -/
inductive LRes where
  | done (s : State)                    -- executed; the slot moves to the next word
  | moved (s : State)                   -- executed; the effect has placed the slot itself
  | held (s : State)                    -- issued; an event completes it
  | wait (s : State)                    -- not issued; it is tried again
  | fault (f : FaultInfo) (s : State)   -- stopped at this instruction
  | stop (f : FaultInfo) (s : State)    -- executed, and the group stops behind it (13 Table 13.3, "continues")

/-- How an instruction issues: whether it acts without an active strand (05 R162), whether it may issue while an access of the
group is not bound yet, as one may that has its effect behind the group's queue of writes or none on memory (04 R109, R113; log
8), and what it is charged to (12 Table 12.1). -/
structure LaneKind where
  structural : Bool := false
  behindLoads : Bool := true
  cls : PClass := .vector

/-- The PC slot may issue: live, waiting for nothing, its group running and its team not halted (05 R149). A group
that is stepped issues one instruction (13 R395). -/
def laneReady (t : Team) (x : Group) (sl : Nat) : Bool :=
  x.st = .running && (x.slot sl).st = .live && (x.slot sl).wait = .none && !t.halted &&
  !(x.step && x.stepping.isSome)

/-- A slot's instruction has started: the slot waits for its tokens no longer, the lanes count it, and it is charged. -/
def started (s : State) (d c g sl : Nat) (cls : PClass) (p : Nat) : State :=
  charge (markIssue (noWait s d (slotUnit c g sl)) d c g sl) d c cls p

/-- A lane instruction with its effect `m` and its price, executed by the current agent. A slot that may not issue
passes its turn. -/
def execLaneWith (k : LaneKind) (price : LaneCtx → State → Nat) (m : LaneCtx → State → LRes) (s : State) :
    Host.Outcome State Fault Refusal :=
  match s.cur with
  | .lane d c g sl =>
    match s.team? d c, s.group? d c g with
    | some t, some x =>
      if !laneReady t x sl || (!k.behindLoads && x.unbound) then .next s
      else
        let ctx : LaneCtx := { d, c, g, sl, t, x, act := x.active sl }
        let p := price ctx s
        let r0 := laneRecord s d c g sl { code := 0 }
        if !mayStart s d c k.cls p then .next (if permitCovers s d c k.cls p then s else noteWait s d (slotUnit c g sl) p)
        else
          let r := if ctx.act = 0 && !k.structural then .done s else m ctx s
          match r with
          | .done s' => .next (finishLane (advanceSlot (started s' d c g sl k.cls p) d c g sl) d c g r0)
          | .moved s' => .next (finishLane (started s' d c g sl k.cls p) d c g r0)
          | .held s' => .next (started s' d c g sl k.cls p)
          | .wait s' => .next s'
          | .fault f s' => .next (takeLaneFault (noWait s' d (slotUnit c g sl)) d c g sl f)
          | .stop f s' =>
            .next (stopBehind (advanceSlot (charge (noWait s' d (slotUnit c g sl)) d c k.cls p) d c g sl) d c g sl r0
              { r0 with code := f.code, mask := f.mask, access := f.access, aux := f.aux })
    | _, _ => .fault .noAgent
  | _ => .fault .noAgent

/-- A lane instruction charged an entry of the price table (12 R368). -/
def execLane (k : LaneKind) (entry : Nat) (m : LaneCtx → State → LRes) (s : State) :
    Host.Outcome State Fault Refusal :=
  execLaneWith k (fun ctx s => (s.die ctx.d).priceOf entry) m s

end Sys2Proof.Machine
end

