-- ==== Sys2Proof/Machine/Operands.lean ====
section
/-! DEFINITION. Operands of lane instructions: specifiers (06 R183), the source-B modifier (R184, Table 6.17), packed
elements and register pairs (02 R46, R47), destinations (08 R241, R242), and the collector latch (10 R325). -/

namespace Sys2Proof.Machine

open Sys2Proof

/-! ## Elements -/

/-- elem: element `p` of width `w` of a container. -/
def elem (x w p : Nat) : Nat := Bits.field x (w * p) w

/-- A container made of `n` elements of width `w`. -/
def packElems (w n : Nat) (f : Nat → Nat) : Nat :=
  (List.range n).foldl (fun acc p => acc + f p % 2 ^ w * 2 ^ (w * p)) 0

/-- Each of `n` elements of width `w` changed. -/
def mapElems (w n : Nat) (f : Nat → Nat) (x : Nat) : Nat := packElems w n fun p => f (elem x w p)

/-! ## Sources -/

namespace Group

/-- operand: a vector register's element of a strand, or a uniform register. -/
def operand (x : Group) (st spec : Nat) : Word32 := if spec < 192 then x.vreg spec st else x.wreg (spec - 192)

/-- A 64-bit operand from the pair that `spec` begins (R47). -/
def operandPair (x : Group) (st spec : Nat) : Nat :=
  (x.operand st spec).toNat + (x.operand st (spec + 1)).toNat * 2 ^ 32

end Group

/-- The strand whose element strand `s` reads as source B (Table 6.17). -/
def srcStrand (mod : BitVec 12) (s : Nat) : Nat :=
  let n := 2 ^ Bits.field mod.toNat 7 3
  let b := s - s % n
  let d := Bits.field mod.toNat 2 5
  match Bits.field mod.toNat 10 2 with
  | 0 => s
  | 1 => b + (s - b + d) % n
  | 2 => b + ((s - b) ^^^ d)
  | _ => b + d

/-- ABS and then NEG of one element of width w (R184). -/
def modElem (flt abs neg : Bool) (w x : Nat) : Nat :=
  let a := if abs then (if flt then x % 2 ^ (w - 1) else Bits.wrap w (Bits.signed x w).natAbs) else x
  if neg then (if flt then a ^^^ 2 ^ (w - 1) else Bits.wrap w (-(a : Int))) else a

/-- ABS and NEG of every element of a value of `bits` bits in a format. A 64-bit format's element fills the value: the 32-bit
shift count of an I64 or N64 shift is one element with its sign in bit 31 (DESIGN CHOICE, log 43). -/
def modValue (fmt : BitVec 6) (mod : BitVec 12) (bits x : Nat) : Nat :=
  let abs := mod.getLsbD 0
  let neg := mod.getLsbD 1
  if !abs && !neg then x
  else
    let w := min bits (Fmt.elemBits fmt)
    mapElems w (bits / w) (modElem (Fmt.isFloat fmt) abs neg w) x

/-- src_b, where SB names a vector register or, without a modifier, a uniform one. -/
def Group.srcB (x : Group) (o : VOps) (st : Nat) : Nat :=
  if o.sb.toNat < 192 then modValue o.fmt o.mod 32 (x.operand (srcStrand o.mod st) o.sb.toNat).toNat
  else (x.operand st o.sb.toNat).toNat

/-- src_b of a register pair. -/
def Group.srcBPair (x : Group) (o : VOps) (st : Nat) : Nat :=
  if o.sb.toNat < 192 then modValue o.fmt o.mod 64 (x.operandPair (srcStrand o.mod st) o.sb.toNat)
  else x.operandPair st o.sb.toNat

/-! ## Destinations -/

/-- The lowest-numbered strand of a mask. -/
def lowest (m : BitVec 32) : Nat := ((List.range 32).find? (fun k => m.getLsbD k)).getD 0

namespace LaneCtx

/-- The group as a format V instruction has it after reading its operands: the latch holds SA where KEEPA is set, and
is released otherwise (10 R325). -/
def opened (ctx : LaneCtx) (o : VOps) : Group := { ctx.x with latch := if o.keepa = 1 then some o.sa.toNat else none }

/-- The active strands, ascending. -/
def strands (ctx : LaneCtx) : List Nat := (List.range 32).filter fun k => ctx.act.getLsbD k

/-- One 32-bit value for each active strand, written to a vector register; a uniform destination receives that of the
lowest active strand (R241, R242). -/
def write (ctx : LaneCtx) (y : Group) (dst : Nat) (f : Nat → Nat) : Group :=
  if dst < 192 then ctx.strands.foldl (fun y st => y.setV dst st (BitVec.ofNat 32 (f st))) y
  else y.setW (dst - 192) (BitVec.ofNat 32 (f (lowest ctx.act)))

/-- The same for a register pair. -/
def writePair (ctx : LaneCtx) (y : Group) (dst : Nat) (f : Nat → Nat) : Group :=
  ctx.write (ctx.write y dst f) (dst + 1) (fun st => f st / 2 ^ 32)

/-- The instruction ends with the group `y`. -/
def done (ctx : LaneCtx) (s : State) (y : Group) : LRes := .done (s.updGroup ctx.d ctx.c ctx.g fun _ => y)

/-- A result for each active strand with the flags it raises. -/
def writeRaise (ctx : LaneCtx) (y : Group) (dst : Nat) (f : Nat → Fl.FRes) : Group :=
  (ctx.write y dst (fun st => (f st).w)).raise (ctx.strands.foldl (fun fl st => fl ||| (f st).fl) 0)

end LaneCtx

end Sys2Proof.Machine
end

