-- ==== Sys2Proof/Machine/LaneFloat.lean ====
section
/-! DEFINITION. Lane floating-point instructions (08 R252, R253, Table 8.3). -/

namespace Sys2Proof.Machine

open Sys2Proof Fl

/-- Layout of the element, its width, and the number of elements of a vector float format. -/
def fltFmt (o : VOps) : FF := ffOf o.fmt
def fltWidth (o : VOps) : Nat := Fmt.elemBits o.fmt

/-- The mode and .FZ of the word. -/
def modeOf (o : VOps) : RMode := RMode.ofField (Checks.rnd o)

/-- A result per element of the register, with the flags of all of them. -/
def perElem (o : VOps) (f : Nat → FRes) : FRes :=
  let w := fltWidth o
  { w := packElems w (32 / w) (fun p => (f p).w)
    fl := (List.range (32 / w)).foldl (fun fl p => fl ||| (f p).fl) 0 }

/-- An instruction of one, two or three operands, element by element. -/
def fltEffect (o : VOps) (f : Nat → Nat → Nat → FRes) (ctx : LaneCtx) (s : State) : LRes :=
  let w := fltWidth o
  ctx.done s (ctx.writeRaise (ctx.opened o) o.dst.toNat fun st =>
    let a := (ctx.x.operand st o.sa.toNat).toNat
    let b := ctx.x.srcB o st
    let c := (ctx.x.operand st o.sc.toNat).toNat
    perElem o fun p => f (elem a w p) (elem b w p) (elem c w p))

/-- Entries 2 and 3, or 4 and 5 for FFMA (12 Table 12.1). -/
def fltEntry (o : VOps) : Nat := if o.fmt = Fmt.F32 then 2 else 3
def fmaEntry (o : VOps) : Nat := if o.fmt = Fmt.F32 then 4 else 5

def execLFadd (o : VOps) (s : State) : Host.Outcome State Fault Refusal :=
  execLane {} (fltEntry o) (fltEffect o fun a b _ => Fl32.add (fltFmt o) (modeOf o) (Checks.fz o) a b) s

def execLFsub (o : VOps) (s : State) : Host.Outcome State Fault Refusal :=
  execLane {} (fltEntry o) (fltEffect o fun a b _ => Fl32.sub (fltFmt o) (modeOf o) (Checks.fz o) a b) s

def execLFmul (o : VOps) (s : State) : Host.Outcome State Fault Refusal :=
  execLane {} (fltEntry o) (fltEffect o fun a b _ => Fl32.mul (fltFmt o) (modeOf o) (Checks.fz o) a b) s

def execLFfma (o : VOps) (s : State) : Host.Outcome State Fault Refusal :=
  execLane {} (fmaEntry o) (fltEffect o fun a b c => Fl32.fma (fltFmt o) (modeOf o) (Checks.fz o) a b c) s

/-- minimumNumber; .FZ reads subnormals as zeros. -/
def execLFmin (o : VOps) (s : State) : Host.Outcome State Fault Refusal :=
  execLane {} (fltEntry o) (fltEffect o fun a b _ => { w := (minMax (fltFmt o) false (Checks.fz o) a b).w }) s

/-- maximumNumber. -/
def execLFmax (o : VOps) (s : State) : Host.Outcome State Fault Refusal :=
  execLane {} (fltEntry o) (fltEffect o fun a b _ => { w := (minMax (fltFmt o) true (Checks.fz o) a b).w }) s

/-- FCMP (R253): all ones or zero in every element. -/
def execLFcmp (o : VOps) (s : State) : Host.Outcome State Fault Refusal :=
  execLane {} (fltEntry o)
    (fltEffect o fun a b _ =>
      let r := Fl32.compare (fltFmt o) (Checks.fz o) a b o.sc.toNat
      { w := if r.1 then 2 ^ fltWidth o - 1 else 0, fl := r.2 }) s

/-- FCLASS (R253). -/
def execLFclass (o : VOps) (s : State) : Host.Outcome State Fault Refusal :=
  execLane {} (fltEntry o) (fltEffect o fun a _ _ => { w := Fl32.classify (fltFmt o) a }) s

/-- FSCALE: n is the whole 32-bit word of b, the same for every element. -/
def execLFscale (o : VOps) (s : State) : Host.Outcome State Fault Refusal :=
  execLane {} (fltEntry o)
    (fun ctx s =>
      let w := fltWidth o
      ctx.done s (ctx.writeRaise (ctx.opened o) o.dst.toNat fun st =>
        let a := (ctx.x.operand st o.sa.toNat).toNat
        let n := Bits.signed (ctx.x.srcB o st) 32
        perElem o fun p => Fl32.scale (fltFmt o) (modeOf o) (Checks.fz o) (elem a w p) n)) s

/-- FRND. -/
def execLFrnd (o : VOps) (s : State) : Host.Outcome State Fault Refusal :=
  execLane {} (fltEntry o) (fltEffect o fun a _ _ => Fl32.round (fltFmt o) (modeOf o) (Checks.fz o) a) s

end Sys2Proof.Machine
end

