-- ==== Sys2Proof/Machine/LaneInt.lean ====
section
/-! DEFINITION. Lane integer instructions and their .W forms (08 R246 to R251, Table 8.2). -/

namespace Sys2Proof.Machine

open Sys2Proof

/-- An exact result clamped to w bits with .SAT, else wrapped (R246). -/
def narrowInt (sat signed : Bool) (w : Nat) (t : Int) : Nat :=
  let lo : Int := if signed then -(2 ^ (w - 1) : Nat) else 0
  let hi : Int := if signed then (2 ^ (w - 1) : Nat) - 1 else (2 ^ w : Nat) - 1
  Bits.wrap w (if sat then (if t < lo then lo else if hi < t then hi else t) else t)

/-- An element as a number in the format's signedness. -/
def intVal (signed : Bool) (w x : Nat) : Int := if signed then Bits.signed x w else (x % 2 ^ w : Nat)

/-- Leading zeros of a 32-bit word; 32 for 0. -/
def clz32 (x : Nat) : Nat := if x = 0 then 32 else 31 - Nat.log2 x

def popc32 (x : Nat) : Nat := (List.range 32).foldl (fun n k => n + Bits.ofBool (Bits.bit x k)) 0

/-- The n low bits in reversed order. -/
def brevN (n x : Nat) : Nat := (List.range n).foldl (fun r k => r + Bits.ofBool (Bits.bit x k) * 2 ^ (n - 1 - k)) 0

/-- Position, length and clipped length of BFE and BFI (R248). -/
def bfPos (b : Nat) : Nat := Bits.field b 0 8
def bfLen (b : Nat) : Nat := Bits.field b 8 8
def bfNone (b : Nat) : Bool := bfLen b = 0 || decide (32 ≤ bfPos b)
def bfTake (b : Nat) : Nat := min (bfLen b) (32 - bfPos b)

/-- ICMP's conditions (R249). -/
def icmpHolds (cond : Nat) (a b : Int) : Bool :=
  match cond with
  | 0 => a = b
  | 1 => a ≠ b
  | 2 => decide (a < b)
  | 3 => decide (a ≤ b)
  | 4 => decide (b < a)
  | _ => decide (b ≤ a)

/-- The result element of width w for elements a, b and c (R246 to R249); `sc` is the ICMP condition. -/
def intElem (op : IntOp) (sg sat : Bool) (sc w a b c : Nat) : Nat :=
  let x := intVal sg w a
  let y := intVal sg w b
  let z := intVal sg w c
  let k := b % 256
  match op with
  | .iadd => narrowInt sat sg w (x + y)
  | .isub => narrowInt sat sg w (x - y)
  | .imul => narrowInt sat sg w (x * y)
  | .imulh => Bits.wrap w (x * y / (2 ^ 32 : Nat))
  | .imad => narrowInt sat sg w (x * y + z)
  | .imin => if x ≤ y then a else b
  | .imax => if x ≤ y then b else a
  | .iabs => narrowInt sat sg w x.natAbs
  | .idot4 => 0
  | .and => a &&& b
  | .or => a ||| b
  | .xor => a ^^^ b
  | .andn => a ^^^ (a &&& b)
  | .not => 2 ^ w - 1 - a
  | .shl => if w ≤ k then 0 else a * 2 ^ k % 2 ^ w
  | .shr => if w ≤ k then 0 else a / 2 ^ k
  | .sha => Bits.wrap w (Bits.signed a w / (2 ^ min k (w - 1) : Nat))
  | .rotl => a * 2 ^ (k % 32) % 2 ^ 32 + a / 2 ^ (32 - k % 32)
  | .popc => popc32 a
  | .clz => clz32 a
  | .brev => brevN 32 a
  | .bfe =>
    if bfNone b then 0
    else
      let v := Bits.field a (bfPos b) (bfTake b)
      if sg then Bits.wrap 32 (Bits.signed v (bfTake b)) else v
  | .bfi => if bfNone b then c else Bits.setField c (bfPos b) (bfTake b) a
  | .icmp => if icmpHolds sc x y then 2 ^ w - 1 else 0
  | .sel => if c ≠ 0 then a else b

/-- IDOT4 (R250): a and b in the 8-bit format, c in the 32-bit format of the same signedness. -/
def idot4 (sg sat : Bool) (a b c : Nat) : Nat :=
  let t := (List.range 4).foldl (fun t p => t + intVal sg 8 (elem a 8 p) * intVal sg 8 (elem b 8 p)) (intVal sg 32 c)
  narrowInt sat sg 32 t

/-- Width of an element as the instruction computes it. -/
def intWord (op : IntOp) (o : VOps) (a b c : Nat) : Nat :=
  let sg := Fmt.isSigned o.fmt
  let sat := o.qual.getLsbD 4
  let w := Fmt.elemBits o.fmt
  let sc := o.sc.toNat
  if op = .idot4 then idot4 sg sat a b c
  else if w = 64 then
    let r := intElem op sg sat sc 64 a b c
    if op = .icmp then r % 2 ^ 32 else r
  else packElems w (32 / w) fun p => intElem op sg sat sc w (elem a w p) (elem b w p) (elem c w p)

/-- Shifts take one 32-bit register as their count, also for a 64-bit format (R247). -/
def isShift : IntOp → Bool
  | .shl => true
  | .shr => true
  | .sha => true
  | _ => false

/-- The result of the instruction for a strand. -/
def intResult (op : IntOp) (o : VOps) (x : Group) (st : Nat) : Nat :=
  if Fmt.is64 o.fmt then
    intWord op o (x.operandPair st o.sa.toNat)
      (if isShift op then x.srcB o st else x.srcBPair o st) 0
  else intWord op o (x.operand st o.sa.toNat).toNat (x.srcB o st) (x.operand st o.sc.toNat).toNat

/-- An integer instruction: the destination of every active strand receives its result; ICMP on a 64-bit format writes
one register. -/
def intEffect (op : IntOp) (o : VOps) (ctx : LaneCtx) (s : State) : LRes :=
  let f := intResult op o ctx.x
  ctx.done s (if Fmt.is64 o.fmt && op ≠ .icmp then ctx.writePair (ctx.opened o) o.dst.toNat f
              else ctx.write (ctx.opened o) o.dst.toNat f)

/-- An integer instruction, charged entry 0 (12 Table 12.1). -/
def execInt (op : IntOp) (o : VOps) (s : State) : Host.Outcome State Fault Refusal := execLane {} 0 (intEffect op o) s

def execLIadd (o : VOps) (s : State) := execInt .iadd o s
def execLIsub (o : VOps) (s : State) := execInt .isub o s
def execLImul (o : VOps) (s : State) := execInt .imul o s
def execLImulh (o : VOps) (s : State) := execInt .imulh o s
def execLImad (o : VOps) (s : State) := execInt .imad o s
def execLImin (o : VOps) (s : State) := execInt .imin o s
def execLImax (o : VOps) (s : State) := execInt .imax o s
def execLIabs (o : VOps) (s : State) := execInt .iabs o s
def execLIdot4 (o : VOps) (s : State) := execInt .idot4 o s
def execLAnd (o : VOps) (s : State) := execInt .and o s
def execLOr (o : VOps) (s : State) := execInt .or o s
def execLXor (o : VOps) (s : State) := execInt .xor o s
def execLAndn (o : VOps) (s : State) := execInt .andn o s
def execLNot (o : VOps) (s : State) := execInt .not o s
def execLShl (o : VOps) (s : State) := execInt .shl o s
def execLShr (o : VOps) (s : State) := execInt .shr o s
def execLSha (o : VOps) (s : State) := execInt .sha o s
def execLRotl (o : VOps) (s : State) := execInt .rotl o s
def execLPopc (o : VOps) (s : State) := execInt .popc o s
def execLClz (o : VOps) (s : State) := execInt .clz o s
def execLBrev (o : VOps) (s : State) := execInt .brev o s
def execLBfe (o : VOps) (s : State) := execInt .bfe o s
def execLBfi (o : VOps) (s : State) := execInt .bfi o s
def execLIcmp (o : VOps) (s : State) := execInt .icmp o s
def execLSel (o : VOps) (s : State) := execInt .sel o s

/-- The .W form (R251): the effect of the base instruction computed once on uniform registers, charged entry 1. -/
def execLWform (op : IntOp) (o : VOps) (s : State) : Host.Outcome State Fault Refusal :=
  execLane {} 1 (intEffect op o) s

end Sys2Proof.Machine
end

