-- ==== Sys2Proof/Machine/LaneConv.lean ====
section
/-! DEFINITION. Lane conversions and residue registers (08 R255 to R260, 02 R66). -/

namespace Sys2Proof.Machine

open Sys2Proof Fl

/-! ## What a matrix step reads (Table 10.1, 10 R310) -/

/-- Pairs of a step. -/
def stepK (f : BitVec 6) : Nat := if Fmt.isA4 f then 128 else if f = Fmt.F16x2 || f = Fmt.BF16x2 then 32 else 64

/-- Limit in an edge word's field; 0 means all. -/
def limitOf (v all : Nat) : Nat := if v = 0 then all else v

def klimOf (f : BitVec 6) (edge : Nat) : Nat := limitOf (Bits.field edge 0 8) (stepK f)
def climOf (edge : Nat) : Nat := limitOf (Bits.field edge 14 6) 32

/-- The live rows: below RLIM, their strands active. -/
def liveRows (edge : Nat) (act : BitVec 32) : List Nat :=
  (List.range (limitOf (Bits.field edge 8 6) 32)).filter fun r => act.getLsbD r

/-- Registers that hold k codes. -/
def codeRegs (f : BitVec 6) (k : Nat) : Nat := (k * Fmt.elemBits f + 31) / 32

/-! ## Residue registers -/

namespace Group

/-- Residue `p` of e(n) for a strand. -/
def residue (x : Group) (n st p : Nat) : Word32 := x.e.get 0 (128 * n + 4 * st + p)
def setResidue (x : Group) (n st p : Nat) (v : Word32) : Group := { x with e := x.e.set 0 (128 * n + 4 * st + p) v }

end Group

/-- An AST.EF of the group is still in the matrix queue: its residues are not final (10 R316). -/
def residueBusy (t : Team) (g : Nat) : Bool :=
  t.matq.any fun a => a.g = g && (match a.i with | .lAst o => Checks.astEf o | _ => false)

/-! ## CVT (R255) -/

/-- Value of an integer element. -/
def intFVal (z : Int) : FVal := .fin (z < 0) z.natAbs 0

/-- A source element converted to the 32-bit destination. -/
def cvtElem (o : VOps) (x : Nat) : FRes :=
  let sf := Checks.srcFmt o
  let w := Fmt.elemBits sf
  let mode := modeOf o
  if Fmt.isInt sf then
    let z := intVal (Fmt.isSigned sf) w x
    if o.fmt = Fmt.F32 then pack f32 mode false false (intFVal z)
    else { w := narrowInt (Checks.sat o) (Fmt.isSigned o.fmt) 32 z }
  else
    let v := decodeFz (ffOf sf) (Checks.fz o) x
    if o.fmt = Fmt.F32 then { w := (pack f32 .rn false false v).w }
    else Fl32.toInteger mode (Fmt.isSigned o.fmt) 32 v

def execLCvt (o : VOps) (s : State) : Host.Outcome State Fault Refusal :=
  execLane {} 6 (fun ctx s =>
    let w := Fmt.elemBits (Checks.srcFmt o)
    let p := (o.sc.extractLsb' 6 2).toNat
    ctx.done s (ctx.writeRaise (ctx.opened o) o.dst.toNat fun st =>
      cvtElem o (elem (ctx.x.operand st o.sa.toNat).toNat w p))) s

/-! ## CVTN (R257) -/

/-- Position `p` of the destination from its source word, without .EF. -/
def cvtnElem (o : VOps) (x : Nat) : FRes :=
  if Fmt.isFloat o.fmt then narrow (ffOf o.fmt) (modeOf o) (Checks.sat o) (Checks.fz o) x
  else
    let sg := Fmt.isSigned o.fmt
    { w := narrowInt (Checks.sat o) sg (Fmt.elemBits o.fmt) (intVal sg 32 x) }

/-- One strand's result of CVTN.EF, its residues written (R66). -/
def efStrand (o : VOps) (x : Group) (y : Group) (st : Nat) : Group :=
  let k := Fmt.perContainer o.fmt
  let w := Fmt.elemBits o.fmt
  let n := (o.sc.extractLsb' 0 3).toNat
  let r (p : Nat) := errorFeedback (ffOf o.fmt) (Checks.sat o) (x.operand st (o.sa.toNat + p)).toNat (x.residue n st p).toNat
  let y1 := (List.range k).foldl (fun y p => (y.setResidue n st p (BitVec.ofNat 32 (r p).2.1)).raise (r p).2.2) y
  y1.setV o.dst.toNat st (BitVec.ofNat 32 (packElems w k fun p => (r p).1))

def execLCvtn (o : VOps) (s : State) : Host.Outcome State Fault Refusal :=
  execLane {} 6 (fun ctx s =>
    let k := Fmt.perContainer o.fmt
    let w := Fmt.elemBits o.fmt
    if Checks.ef o then
      if residueBusy ctx.t ctx.g then .wait s
      else ctx.done s (ctx.strands.foldl (efStrand o ctx.x) (ctx.opened o))
    else
      ctx.done s (ctx.writeRaise (ctx.opened o) o.dst.toNat fun st =>
        let r (p : Nat) := cvtnElem o (ctx.x.operand st (o.sa.toNat + p)).toNat
        { w := packElems w k (fun p => (r p).w), fl := (List.range k).foldl (fun fl p => fl ||| (r p).fl) 0 })) s

/-! ## CVTW (R256) -/

/-- The converted value of the pair or word `x`. -/
def cvtwValue (o : VOps) (x : Nat) : FRes :=
  let sf := Checks.srcFmt o
  let w := Fmt.elemBits o.fmt
  if sf = Fmt.F32 then Fl32.toInteger (modeOf o) (Fmt.isSigned o.fmt) 64 (decode f32 x)
  else
    let z := intVal (Fmt.isSigned sf) (Fmt.elemBits sf) x
    if o.fmt = Fmt.F32 then pack f32 (modeOf o) false false (intFVal z)
    else { w := narrowInt (Checks.sat o) (Fmt.isSigned o.fmt) w z }

def execLCvtw (o : VOps) (s : State) : Host.Outcome State Fault Refusal :=
  execLane {} 6 (fun ctx s =>
    let r (st : Nat) : FRes :=
      cvtwValue o (if Fmt.is64 (Checks.srcFmt o) then ctx.x.operandPair st o.sa.toNat else (ctx.x.operand st o.sa.toNat).toNat)
    let y := ctx.opened o
    let y1 := if Fmt.is64 o.fmt then ctx.writePair y o.dst.toNat (fun st => (r st).w) else ctx.write y o.dst.toNat (fun st => (r st).w)
    ctx.done s (y1.raise (ctx.strands.foldl (fun fl st => fl ||| (r st).fl) 0))) s

/-! ## DQ and QZ (R258, R259) -/

/-- DQ: code i goes to position i mod k of register DST + i div k. -/
def execLDq (o : VOps) (s : State) : Host.Outcome State Fault Refusal :=
  execLane {} 6 (fun ctx s =>
    let sf := Checks.srcFmt o
    let cw := Fmt.elemBits sf
    let k := if o.fmt = Fmt.F32 then 1 else 2
    let w := Fmt.elemBits o.fmt
    let val (st i : Nat) : Nat :=
      decodeCode o.fmt sf (elem (ctx.x.operand st o.sa.toNat).toNat cw i) (ctx.x.srcB o st)
    ctx.done s ((List.range (Checks.dqRegs o)).foldl (fun y r =>
      ctx.write y (o.dst.toNat + r) fun st => packElems w k fun p => val st (r * k + p)) (ctx.opened o))) s

/-- QZ: n values from the run at SA into one packed destination. -/
def execLQz (o : VOps) (s : State) : Host.Outcome State Fault Refusal :=
  execLane {} 6 (fun ctx s =>
    let n := Fmt.perContainer o.fmt
    let w := Fmt.elemBits o.fmt
    ctx.done s (ctx.writeRaise (ctx.opened o) o.dst.toNat fun st =>
      let r (p : Nat) := quantCode (Fmt.isA4 o.fmt) (modeOf o) (ctx.x.srcB o st) (ctx.x.operand st (o.sa.toNat + p)).toNat
      { w := packElems w n (fun p => (r p).w), fl := (List.range n).foldl (fun fl p => fl ||| (r p).fl) 0 })) s

/-! ## EFCLR and EFMOV (R260) -/

def efReg (o : VOps) : Nat := (o.sc.extractLsb' 0 3).toNat

def execLEfclr (o : VOps) (s : State) : Host.Outcome State Fault Refusal :=
  execLane {} 6 (fun ctx s =>
    if residueBusy ctx.t ctx.g then .wait s
    else
      ctx.done s (ctx.strands.foldl (fun y st =>
        (List.range 4).foldl (fun y p => y.setResidue (efReg o) st p 0) y) (ctx.opened o))) s

def execLEfmov (o : VOps) (s : State) : Host.Outcome State Fault Refusal :=
  execLane {} 6 (fun ctx s =>
    if residueBusy ctx.t ctx.g then .wait s
    else
      ctx.done s (ctx.strands.foldl (fun y st =>
        (List.range 4).foldl (fun y p =>
          if o.sc.getLsbD 6 then y.setResidue (efReg o) st p (ctx.x.operand st (o.sa.toNat + p))
          else y.setV (o.dst.toNat + p) st (ctx.x.residue (efReg o) st p)) y) (ctx.opened o))) s

end Sys2Proof.Machine
end

