-- ==== Sys2Proof/Machine/Trans.lean ====
section
/-! DEFINITION. Translation: page-table walks and their checks (01 R10 to R19, R418), the TLBs and the pointer cache
(R32, R33, R419), permissions (R37), and the location that a translated address names (Table 1.8, Table 1.7). -/

namespace Sys2Proof.Machine

open Sys2Proof

/-! ## Walks -/

/-- The peer window (R21). -/
def inPeerWindow (va : Nat) : Bool := decide (0x000F_0000_0000_0000 ≤ va) && decide (va < 0x0010_0000_0000_0000)

/-- Where a physical page lies (Table 1.8). -/
inductive Region where
  | hbm | qctl | host | none
  deriving DecidableEq, Repr

/-- The region of a page; one that lies only partly in a region of Table 1.8 counts as reserved (DESIGN CHOICE, log 45). -/
def regionOf (pa n : Nat) : Region :=
  if pa + n ≤ 0x040_0000_0000 then .hbm
  else if 0x100_0000_0000 ≤ pa && pa + n ≤ 0x100_0400_0000 then .qctl
  else if 0x400_0000_0000 ≤ pa && pa + n ≤ 0x800_0000_0000 then .host
  else .none

/-- Fields of a leaf entry (Table 1.3). -/
def leafOf (raw size : Nat) : Leaf where
  frame := Bits.field raw 20 28
  peer := Bits.bit raw 18
  sdx := Bits.field raw 12 6
  geom := Bits.field raw 10 2
  fmt := Bits.field raw 6 4
  cache := Bits.field raw 4 2
  x := Bits.bit raw 2
  w := Bits.bit raw 1
  size := size

/-- Import index and 64 KiB offset of a peer leaf (Table 1.7). -/
def Leaf.imp (l : Leaf) : Nat := Bits.field l.frame 18 10
def Leaf.off (l : Leaf) : Nat := Bits.field l.frame 0 18

/-- MALFORMED cases that do not depend on FMT (R418, group 1). A PEER leaf whose import index holds no import is MALFORMED
too: the spec gives no cause for it (DESIGN CHOICE, log 45). -/
def leafBad1 (x : Die) (raw va : Nat) (l : Leaf) : Bool :=
  let region := regionOf (l.frame * 65536) (2 ^ l.size)
  Bits.field raw 48 16 ≠ 0 || Bits.bit raw 19 || l.frame % 2 ^ (l.size - 16) ≠ 0 || l.geom = 3 ||
  (l.peer != inPeerWindow va) ||
  (if l.peer then
     (match x.imports.find? l.imp with | some i => decide (i.len ≤ l.off) | none => true)
   else
     region = .none || (region = .qctl && l.cache ≠ 3) || (region = .host && decide (l.cache < 2)))

/-- MALFORMED cases that depend on FMT (R418, group 3; Table 1.5). -/
def leafBad3 (l : Leaf) : Bool :=
  let region := regionOf (l.frame * 65536) (2 ^ l.size)
  (l.fmt = 0 && (l.geom ≠ 0 || l.sdx ≠ 0)) || (decide (3 ≤ l.fmt) && l.geom ≠ 0) ||
  (l.peer && l.fmt ≠ 0) || (!l.peer && (region = .qctl || region = .host) && l.fmt ≠ 0)

/-- The descriptor does not fit the leaf or the address (R19). -/
def descBad (sd : Desc) (l : Leaf) (va : Nat) : Bool :=
  !sd.valid || sd.fmt ≠ l.fmt || sd.geom ≠ l.geom || decide (va < sd.base) || decide (sd.base + sd.limit ≤ va)

/-- A leaf entry checked in the order of R418. -/
def checkLeaf (x : Die) (raw va size : Nat) : Except Nat TlbEntry :=
  let l := leafOf raw size
  let e : TlbEntry := { va := va / 2 ^ size * 2 ^ size, leaf := l, desc := none }
  if leafBad1 x raw va l then .error Cause.MALFORMED
  else if 6 ≤ l.fmt then .error Cause.BADFMT
  else if leafBad3 l then .error Cause.MALFORMED
  else if l.fmt = 0 then .ok e
  else
    let sd := x.sdt.getD l.sdx {}
    if descBad sd l va then .error Cause.DESCRIPTOR else .ok { e with desc := some sd }

/-- The next table's offset from a pointer entry whose table is aligned to 2^align (Table 1.2). -/
def checkPtr (raw align : Nat) : Except Nat Nat :=
  if Bits.field raw 28 36 ≠ 0 || Bits.field raw 4 4 ≠ 0 || Bits.field raw 1 2 ≠ 0 ||
     (raw / 256 * 256) % 2 ^ align ≠ 0 then .error Cause.MALFORMED
  else .ok (raw / 256 * 256)

def tableEntry (x : Die) (ofs : Nat) : Nat := x.table.read ofs 8

/-- Level D (Table 1.1). -/
def walkD (x : Die) (va next : Nat) : Except Nat TlbEntry :=
  let raw := tableEntry x (next + 8 * Bits.field va 16 5)
  if !Bits.bit raw 0 then .error Cause.NOTMAPPED
  else if !Bits.bit raw 3 then .error Cause.MALFORMED
  else checkLeaf x raw va 16

/-- Level C. -/
def walkC (x : Die) (va next : Nat) : Except Nat TlbEntry :=
  let raw := tableEntry x (next + 8 * Bits.field va 21 9)
  if !Bits.bit raw 0 then .error Cause.NOTMAPPED
  else if Bits.bit raw 3 then checkLeaf x raw va 21
  else
    match checkPtr raw 8 with
    | .error e => .error e
    | .ok n => walkD x va n

/-- Level B, and the level B pointer where it is one. -/
def walkB (x : Die) (va next : Nat) : Except Nat TlbEntry × List PtrEntry :=
  let raw := tableEntry x (next + 8 * Bits.field va 30 9)
  if !Bits.bit raw 0 then (.error Cause.NOTMAPPED, [])
  else if Bits.bit raw 3 then (checkLeaf x raw va 30, [])
  else
    match checkPtr raw 12 with
    | .error e => (.error e, [])
    | .ok n => (walkC x va n, [{ level := 1, tag := Bits.field va 30 22, next := n }])

/-- The whole walk of an address, starting below what the pointer cache holds (R10, R419), with the pointers it
used, which become the most recent. -/
def walk (x : Die) (va : Nat) : Except Nat TlbEntry × List PtrEntry :=
  if 2 ^ 52 ≤ va then (.error Cause.NONCANON, [])
  else if !x.ptroot.getLsbD 0 then (.error Cause.NOTMAPPED, [])
  else
    match x.ptrCache.find? (fun p => p.level = 1 && p.tag = Bits.field va 30 22) with
    | some p => (walkC x va p.next, [p])
    | none =>
      match x.ptrCache.find? (fun p => p.level = 0 && p.tag = Bits.field va 39 13) with
      | some p => let r := walkB x va p.next; (r.1, p :: r.2)
      | none =>
        let raw := tableEntry x (Bits.field x.ptroot.toNat 16 12 * 65536 + 8 * Bits.field va 39 13)
        if !Bits.bit raw 0 then (.error Cause.NOTMAPPED, [])
        else if Bits.bit raw 3 then (.error Cause.MALFORMED, [])
        else
          match checkPtr raw 12 with
          | .error e => (.error e, [])
          | .ok n =>
            let r := walkB x va n
            (r.1, { level := 0, tag := Bits.field va 39 13, next := n } :: r.2)

/-! ## TLBs -/

/-- The entry answers the address: it lies in the page and, on a format page, in the element region of the copied
descriptor, so that what a TLB holds never changes an access's outcome (R19, R20, R419). -/
def TlbEntry.covers (e : TlbEntry) (va : Nat) : Bool :=
  va / 2 ^ e.leaf.size * 2 ^ e.leaf.size = e.va &&
  (match e.desc with
   | some sd => decide (sd.base ≤ va) && decide (va < sd.base + sd.limit)
   | none => true)

def tlbFind (l : List TlbEntry) (va : Nat) : Option TlbEntry := l.find? (·.covers va)

/-- An entry made the most recent of at most `n`. -/
def tlbPut (n : Nat) (l : List TlbEntry) (e : TlbEntry) : List TlbEntry := (e :: l.filter (· ≠ e)).take n

/-- The set of the cluster TLB that an entry lies in (R419). -/
def clusterSet (e : TlbEntry) : Nat :=
  if e.leaf.size = 16 then Bits.field e.va 16 8 else if e.leaf.size = 21 then Bits.field e.va 21 8 else Bits.field e.va 30 8

/-- An entry filled into the cluster TLB: 256 sets of 8 ways, least recently used replaced (R419). -/
def clusterPut (l : List TlbEntry) (e : TlbEntry) : List TlbEntry :=
  let same := (l.filter (fun f => f ≠ e && clusterSet f = clusterSet e)).take 7
  e :: same ++ l.filter (fun f => clusterSet f ≠ clusterSet e)

def ptrPut (l : List PtrEntry) (p : PtrEntry) : List PtrEntry := (p :: l.filter (· ≠ p)).take 1024

namespace Die

def coreTlbOf (x : Die) (c : Nat) : List TlbEntry := x.coreTlb.get [] c
def fillCore (x : Die) (c : Nat) (e : TlbEntry) : Die := { x with coreTlb := x.coreTlb.set [] c (tlbPut 64 (x.coreTlbOf c) e) }
def clusterTlbOf (x : Die) (c : Nat) : List TlbEntry := x.clusterTlb.get [] (x.clusterOf c)
def fillCluster (x : Die) (c : Nat) (e : TlbEntry) : Die :=
  { x with clusterTlb := x.clusterTlb.set [] (x.clusterOf c) (clusterPut (x.clusterTlbOf c) e) }
def putPtrs (x : Die) (ps : List PtrEntry) : Die := { x with ptrCache := ps.foldl ptrPut x.ptrCache }

end Die

/-- The answer of a translation that a party asks for: with EN = 0 every access ends NOTMAPPED, whatever a TLB holds
(Table 1.9, Table 1.14). -/
inductive Tr where
  | ok (e : TlbEntry)
  | fail (cause : Nat)
  | miss
  deriving DecidableEq, Repr

/-- A miss recorded, merged with one of the core on the same page; a 33rd page of a core is not recorded (R33). -/
def addMiss (x : Die) (c page : Nat) (r : Req) : Die :=
  if x.misses.any (fun m => m.core = c && m.page = page) then
    { x with misses := x.misses.map fun m =>
        if m.core = c && m.page = page && !m.who.contains r then { m with who := m.who ++ [r] } else m }
  else if (x.misses.filter (fun m => m.core = c)).length < 32 then
    { x with misses := x.misses ++ [{ core := c, page := page, who := [r] }] }
  else x

/-- A core party's translation (R8, R32, R33): the core TLB, then the cluster TLB; else the failure that its walk has
recorded for it, else a miss that the walkers will serve. -/
def translate (x : Die) (c : Nat) (r : Req) (failed : List (Nat × Nat)) (va : Nat) : Die × Tr :=
  if 2 ^ 52 ≤ va then (x, .fail Cause.NONCANON)
  else if !x.ptroot.getLsbD 0 then (x, .fail Cause.NOTMAPPED)
  else
    match tlbFind (x.coreTlbOf c) va with
    | some e => (x.fillCore c e, .ok e)
    | none =>
      match tlbFind (x.clusterTlbOf c) va with
      | some e => ((x.fillCluster c e).fillCore c e, .ok e)
      | none =>
        match failed.find? (fun f => f.1 = va / 65536) with
        | some f => (x, .fail f.2)
        | none => (addMiss x c (va / 65536) r, .miss)

/-- An engine of a core, or a prefetch, translates at once, through the core TLB and the walkers (log 10). -/
def translateNow (x : Die) (c va : Nat) : Die × Except Nat TlbEntry :=
  if 2 ^ 52 ≤ va then (x, .error Cause.NONCANON)
  else if !x.ptroot.getLsbD 0 then (x, .error Cause.NOTMAPPED)
  else
    match tlbFind (x.coreTlbOf c) va with
    | some e => (x.fillCore c e, .ok e)
    | none =>
      match tlbFind (x.clusterTlbOf c) va with
      | some e => ((x.fillCluster c e).fillCore c e, .ok e)
      | none =>
        let r := walk x va
        match r.1 with
        | .ok e => (((x.putPtrs r.2).fillCluster c e).fillCore c e, .ok e)
        | .error k => (x.putPtrs r.2, .error k)

/-- The die copy engine's translation, through its private TLB (R32). -/
def translateCopy (x : Die) (va : Nat) : Die × Except Nat TlbEntry :=
  if !x.ptroot.getLsbD 0 && decide (va < 2 ^ 52) then (x, .error Cause.NOTMAPPED) else
  match tlbFind x.copyTlb va with
  | some e => ({ x with copyTlb := tlbPut 64 x.copyTlb e }, .ok e)
  | none =>
    let r := walk x va
    match r.1 with
    | .ok e => ({ (x.putPtrs r.2) with copyTlb := tlbPut 64 x.copyTlb e }, .ok e)
    | .error k => (x.putPtrs r.2, .error k)

/-- The collective engine's translation, through its private TLB (R32). -/
def translateColl (x : Die) (va : Nat) : Die × Except Nat TlbEntry :=
  if !x.ptroot.getLsbD 0 && decide (va < 2 ^ 52) then (x, .error Cause.NOTMAPPED) else
  match tlbFind x.collTlb va with
  | some e => ({ x with collTlb := tlbPut 64 x.collTlb e }, .ok e)
  | none =>
    let r := walk x va
    match r.1 with
    | .ok e => ({ (x.putPtrs r.2) with collTlb := tlbPut 64 x.collTlb e }, .ok e)
    | .error k => (x.putPtrs r.2, .error k)

/-! ## Locations and permissions -/

/-- The location of an address under its entry (Table 1.3, Table 1.7, Table 1.8). -/
def TlbEntry.loc (e : TlbEntry) (va : Nat) : Loc :=
  let low := va % 2 ^ e.leaf.size
  if e.leaf.peer then .peer e.leaf.imp (e.leaf.off * 65536 + low)
  else
    let pa := e.leaf.frame * 65536 + low
    match regionOf pa 1 with
    | .qctl => .qctl (pa - 0x100_0000_0000)
    | .host => .host (pa - 0x400_0000_0000)
    | _ => .hbm pa

/-- How an access uses a page (Table 1.12); a SIGNAL packet's addition is an atomic that the aperture serves (R27). -/
inductive Access where
  | load | store | atomic | fetch | signal
  | engineRead | engineWrite
  deriving DecidableEq, Repr

/-- The trigger word of a die's function (14 R400), as an offset in the queue-control range. -/
def triggerOfs : Nat := 1023 * 65536 + 0xFFC0

/-- The package's own BARs: the bus address and the size of BAR0 of every function and of the host windows (14 Table 14.1). -/
def ownBars : List (Nat × Nat) :=
  (Config.bar 0 0, 65 * 65536) ::
    [1, 2, 3].flatMap fun fn => [(Config.bar fn 0, 1024 * 65536), (Config.bar fn 2, 2 ^ 34)]

/-- n bytes at a bus address lie, or begin or end, inside an own BAR: the control die does not send them to the host (14
R400). -/
def ownBus (b n : Nat) : Bool := ownBars.any fun r => decide (b < r.1 + r.2) && decide (r.1 < b + n)

/-- The bus address of a function's trigger word. -/
def triggerBus (fn : Nat) : Nat := Config.bar fn 0 + (if fn = 0 then 0x40 else triggerOfs)

/-- n bytes at a location touch the trigger word of the die's function, or, through the host aperture, one of the
package's. -/
def Loc.hitsTrigger (l : Loc) (n : Nat) : Bool :=
  match l with
  | .qctl o => decide (o < triggerOfs + 8) && decide (triggerOfs < o + n)
  | .host b => (List.range 4).any fun fn => decide (b < triggerBus fn + 8) && decide (triggerBus fn < b + n)
  | _ => false

/-- The cause for which an access of `n` bytes is denied, if any (Table 1.12, Table 1.10, R27, 14 R400). A peer page
whose import does not allow atomics denies them as NOWRITE (log 16); an access that fails W or X and the rule for device
pages too is denied for W or X (log 43). -/
def denied (x : Die) (a : Access) (n va : Nat) (e : TlbEntry) : Option Nat :=
  let l := e.leaf
  let device := l.cache = 3
  let aperture := !l.peer && regionOf (l.frame * 65536) 1 = .host
  match a with
  | .load => if device && !(n = 4 || n = 8) then some Cause.DEVICEKIND
             else if (e.loc va).hitsTrigger n then some Cause.DEVICEKIND else none
  | .store => if !l.w then some Cause.NOWRITE
              else if device && !(n = 4 || n = 8) then some Cause.DEVICEKIND
              else if (e.loc va).hitsTrigger n then some Cause.DEVICEKIND else none
  | .atomic => if !l.w then some Cause.NOWRITE
               else if device || aperture then some Cause.DEVICEKIND
               else if l.peer && !(match x.imports.find? l.imp with | some i => i.ra | none => false) then some Cause.NOWRITE
               else none
  | .signal => if !l.w then some Cause.NOWRITE
               else if device && !aperture then some Cause.DEVICEKIND
               else if l.peer && !(match x.imports.find? l.imp with | some i => i.ra | none => false) then some Cause.NOWRITE
               else none
  | .fetch => if !l.x then some Cause.NOEXEC else if device then some Cause.DEVICEKIND else none
  | .engineRead => if device then some Cause.DEVICEKIND else none
  | .engineWrite => if !l.w then some Cause.NOWRITE else if device then some Cause.DEVICEKIND else none

end Sys2Proof.Machine
end

