-- ==== Sys2Proof/Machine/Home.lean ====
section
/-! DEFINITION. Memory at its points of coherence: the read-modify-write operations (06 Table 6.11, 07 R212), the
last-level cache's residency (03 R91, R92), commutative-update episodes (R93 to R96), peer exports (01 R23 to R25,
R345), and the queues' CLAIM and COMMIT registers (11 R348, R349). -/

namespace Sys2Proof.Machine

open Sys2Proof

/-! ## Read-modify-write operations -/

/-- Minimum or maximum of two n-bit numbers, signed or not. -/
def pick (max signed : Bool) (n x y : Nat) : Nat :=
  let lt := if signed then decide (Bits.signed x n < Bits.signed y n) else decide (x < y)
  if max then (if lt then y else x) else (if lt then x else y)

/-- The value that an atomic or reduction leaves (06 R189): operation code, format, old value, operand `x`, comparand
`y` of a cas. -/
def rmw (op : Nat) (fmt : BitVec 6) (n old x y : Nat) : Nat :=
  let bits := 8 * n
  let sg := Fmt.isSigned fmt
  if fmt = Fmt.F32 && (op = 0 || op = 8) then Fl.addF32 old x
  else if fmt = Fmt.F32 && op = 1 then (Fl.minMax Fl.f32 false false old x).w
  else if fmt = Fmt.F32 && op = 2 then (Fl.minMax Fl.f32 true false old x).w
  else match op with
  | 0 => (old + x) % 2 ^ bits
  | 1 => pick false sg bits old x
  | 2 => pick true sg bits old x
  | 3 => old &&& x
  | 4 => old ||| x
  | 5 => old ^^^ x
  | 6 => x
  | 7 => if old = y then x else old
  | 8 => Fl.addF32 old x
  | _ => old

/-- The element a fresh partial holds (03 Table 3.5a). -/
def cuIdentity (op : Nat) (fmt : BitVec 6) (n : Nat) : Nat :=
  let bits := 8 * n
  if fmt = Fmt.F32 then (if op = 8 || op = 0 then 0x8000_0000 else Fl.f32.nan)
  else match op with
  | 1 => if Fmt.isSigned fmt then 2 ^ (bits - 1) - 1 else 2 ^ bits - 1
  | 2 => if Fmt.isSigned fmt then 2 ^ (bits - 1) else 0
  | 3 => 2 ^ bits - 1
  | _ => 0

/-- Bytes of an element of a commutative-update or atomic format. -/
def elemBytes (fmt : BitVec 6) : Nat := if Fmt.is64 fmt then 8 else 4

/-- Two 128-byte lines combined element by element (R95). -/
def combineLine (op : Nat) (fmt : BitVec 6) (v p : Nat) : Nat :=
  let n := elemBytes fmt
  (List.range (128 / n)).foldl (fun acc k =>
    acc + rmw op fmt n (Bits.field v (8 * n * k) (8 * n)) (Bits.field p (8 * n * k) (8 * n)) 0 * 2 ^ (8 * n * k)) 0

def identityLine (op : Nat) (fmt : BitVec 6) : Nat :=
  let n := elemBytes fmt
  (List.range (128 / n)).foldl (fun acc k => acc + cuIdentity op fmt n * 2 ^ (8 * n * k)) 0

/-! ## Episodes and the last-level cache, by line number PA / 128 -/

/-- Home slice of a line (R91). -/
def sliceOf (line : Nat) : Nat :=
  let pa := line * 128
  Bits.field pa 7 7 ^^^ Bits.field pa 14 7 ^^^ Bits.field pa 21 7 ^^^ Bits.field pa 28 7 ^^^ Bits.field pa 35 7 ^^^
    Bits.field pa 42 2

/-- HBM stack of a physical address (R97). -/
def stackOf (pa : Nat) : Nat := Bits.field pa 9 2 ^^^ Bits.field pa 21 2

/-- The lines that n bytes touch. -/
def linesOf (pa n : Nat) : List Nat := (List.range ((pa + n + 127) / 128 - pa / 128)).map (pa / 128 + ·)

/-- Slice and set of a line (R91). -/
def llcSet (line : Nat) : Nat × Nat := (sliceOf line, line / 128 % 768)

/-- Holders in the order of the key (PKG, DIE, unit) (R94). -/
def Partial.before (a b : Partial) : Bool :=
  decide (a.pkg < b.pkg) || (a.pkg = b.pkg && (decide (a.die < b.die) || (a.die = b.die && decide (a.unit < b.unit))))

def insertPartial (p : Partial) : List Partial → List Partial
  | [] => [p]
  | q :: r => if p.before q then p :: q :: r else q :: insertPartial p r

namespace Die

def episode? (x : Die) (line : Nat) : Option Episode := x.episodes.find? (fun e => e.line = line)

/-- Word k of a line, of 64 bits, is uncorrectable, or lies in an uncorrectable unit. -/
def wordBad (x : Die) (line k : Nat) : Bool :=
  (x.bad.find? (4 * line + k / 4)).isSome || x.badLlc.contains (16 * line + k)

/-- The words of a line that are correct, written from a line's value (13 R388: a reduction leaves an
uncorrectable unit as it is). -/
def mergeUnits (x : Die) (line v : Nat) : Mem :=
  (List.range 16).foldl (fun m k =>
    if x.wordBad line k then m else m.write (line * 128 + 8 * k) 8 (Bits.field v (64 * k) 64)) x.hbm

/-- What a merge over uncorrectable words of its line has to report (13 R388): the cores of the package with the parties whose
contributions it drops; nothing where every word is correct. -/
def mergeErrs (x : Die) (e : Episode) : List (List (Nat × Nat × LKey × Party)) :=
  if (List.range 16).any (x.wordBad e.line) then
    [e.partials.flatMap fun p => (p.asked.filter fun a => x.wordBad e.line a.2.2).map fun a => (p.die, p.unit, a.1, a.2.1)]
  else []

/-- The episode on a line ended: every partial is merged in the order of the holders' keys (R95). What uncorrectable words drop
is still to be reported. -/
def endEpisode (x : Die) (line : Nat) : Die :=
  match x.episode? line with
  | none => x
  | some e =>
    let v := x.hbm.read (line * 128) 128
    let v' := (e.partials.foldr insertPartial []).foldl (fun v p => combineLine e.op e.fmt v p.data) v
    { x with hbm := x.mergeUnits line v', episodes := x.episodes.filter (fun f => f.line ≠ line)
             mergeUe := x.mergeUe ++ x.mergeErrs e }

/-- A forced merge (R96). -/
def forceMerge (x : Die) (line : Nat) : Die :=
  { (x.endEpisode line) with forced := if x.forced = BitVec.allOnes 32 then x.forced else x.forced + 1 }

/-- An access's effect on residency (R91, R92, R100): treatment 0 allocate, 1 evict-first, 2 none. A set whose 16
ways all hold episode lines forces a merge before it allocates (R96). A hit of treatment none leaves the order of the set
as it is (log 43). -/
def llcTouch (x : Die) (line treat : Nat) : Die :=
  match x.llc.find? (fun l => l.line = line) with
  | some l =>
    if l.evictFirst || treat = 2 then x
    else { x with llc := l :: x.llc.filter (fun k => k.line ≠ line) }
  | none =>
    if treat = 2 then x
    else
      let same := x.llc.filter (fun l => llcSet l.line = llcSet line)
      let new : LlcLine := { line := line, evictFirst := treat = 1 }
      let add (l : List LlcLine) : List LlcLine := if treat = 1 then l ++ [new] else new :: l
      if same.length < 16 then { x with llc := add x.llc }
      else
        match (same.filter (fun l => (x.episode? l.line).isNone)).getLast? with
        | some v => { x with llc := add (x.llc.filter (fun l => l.line ≠ v.line)) }
        | none =>
          match same.getLast? with
          | some v =>
            let y := x.forceMerge v.line
            { y with llc := add (y.llc.filter (fun l => l.line ≠ v.line)) }
          | none => x

/-- Parked partials of a slice, oldest line first, and of the die (Table 3.5b). -/
def parkedIn (x : Die) (slice : Nat) : List (Nat × Nat) :=
  x.episodes.foldl (fun acc e =>
    if sliceOf e.line = slice then acc ++ ((e.partials.filter (·.parked)).map fun p => (p.seq, e.line)) else acc) []

def parkedCount (x : Die) : Nat :=
  x.episodes.foldl (fun n e => n + (e.partials.filter (·.parked)).length) 0

/-- The key of the least recently used entry of a list of (age, line). -/
def oldest : List (Nat × Nat) → Option (Nat × Nat)
  | [] => none
  | a :: r => match oldest r with | some b => if b.1 < a.1 then some b else some a | none => some a

/-- One partial parked at its line's home slice, at `now` in the order of the package; a slice that holds 128 first merges
the line of its oldest (R94, R96). -/
def park (x : Die) (now line pkg die unit : Nat) : Die :=
  let sl := x.parkedIn (sliceOf line)
  let y := if 128 ≤ sl.length then (match oldest sl with | some o => x.forceMerge o.2 | none => x) else x
  { y with
    episodes := y.episodes.map fun e =>
      if e.line = line then
        { e with partials := e.partials.map fun p =>
            if p.pkg = pkg && p.die = die && p.unit = unit then { p with parked := true, seq := now } else p }
      else e }

/-- Partials of a holder that its core buffers for lines of the die, with their recency. -/
def buffered (x : Die) (pkg die unit : Nat) : List (Nat × Nat) :=
  x.episodes.foldl (fun acc e =>
    acc ++ ((e.partials.filter (fun p => !p.parked && p.pkg = pkg && p.die = die && p.unit = unit)).map
      fun p => (p.seq, e.line))) []

/-- The holder has a partial of the line. -/
def holds (x : Die) (pkg die unit line : Nat) : Bool :=
  match x.episode? line with
  | some e => e.partials.any fun p => p.pkg = pkg && p.die = die && p.unit = unit
  | none => false

/-- An episode of another operation or type ends before a contribution to its line (R95). -/
def endOther (x : Die) (line op : Nat) (fmt : BitVec 6) : Die :=
  match x.episode? line with
  | some e => if e.op = op && e.fmt = fmt then x else x.endEpisode line
  | none => x

/-- A contribution entered in the order of SEQ, behind those of the same SEQ (10 R341). -/
def insertPart (a : Nat × Nat × Nat) : List (Nat × Nat × Nat) → List (Nat × Nat × Nat)
  | [] => [a]
  | b :: r => if a.1 < b.1 then a :: b :: r else b :: insertPart a r

/-- An element of n bytes at byte k of a line's partial combined with a value. -/
def combine (op : Nat) (fmt : BitVec 6) (data k v : Nat) : Nat :=
  let n := elemBytes fmt
  Bits.setField data (8 * k) (8 * n) (rmw op fmt n (Bits.field data (8 * k) (8 * n)) v 0)

/-- A partial after a contribution to byte k. One with a SEQ enters in its order: the partial is what the contributions give
in the order of SEQ (10 R341). -/
def enterPart (p : Partial) (op : Nat) (fmt : BitVec 6) (k v : Nat) (seq : Option Nat) : Partial :=
  match seq with
  | none => { p with data := combine op fmt p.data k v }
  | some n =>
    let l := insertPart (n, k, v) p.parts
    { p with parts := l, data := l.foldl (fun d e => combine op fmt d e.2.1 e.2.2) (identityLine op fmt) }

/-- The party of a contribution to a word noted with the partial, once. -/
def Partial.ask (p : Partial) (word : Nat) : Option (LKey × Party) → Partial
  | none => p
  | some a => if p.asked.contains (a.1, a.2, word) then p else { p with asked := (a.1, a.2, word) :: p.asked }

/-- A contribution of a holder to a line, at `now` in the order of the package (R93, R94): an episode opens where none of
its operation and type is open. `seq` is the SEQ of a collective packet, `who` the party of a core that contributes. -/
def contribute (x : Die) (now pkg die unit pa op : Nat) (fmt : BitVec 6) (v treat : Nat) (seq : Option Nat := none)
    (who : Option (LKey × Party) := none) : Die :=
  let line := pa / 128
  let x1 := x.endOther line op fmt
  let x2 := if (x1.episode? line).isNone then
      let y := x1.llcTouch line treat
      { y with episodes := y.episodes ++ [{ line := line, op := op, fmt := fmt, partials := [] }] }
    else x1
  let mine (p : Partial) : Bool := p.pkg = pkg && p.die = die && p.unit = unit
  let fresh : Partial := { pkg, die, unit, data := identityLine op fmt, parked := false, seq := now }
  let upd (p : Partial) : Partial :=
    Partial.ask { (enterPart p op fmt (pa % 128) v seq) with seq := if p.parked then p.seq else now } (pa % 128 / 8) who
  { x2 with
    episodes := x2.episodes.map fun e =>
      if e.line = line then
        { e with partials := if e.partials.any mine then e.partials.map (fun p => if mine p then upd p else p)
                             else e.partials ++ [upd fresh] }
      else e }

/-- Some 32-byte unit of the bytes in HBM, or some 64-bit word of them in the last-level cache, is uncorrectable (13 R388,
03 R98). -/
def isBad (x : Die) (pa n : Nat) : Bool :=
  x.bad.any (fun e => decide (e.1 * 32 < pa + n) && decide (pa < e.1 * 32 + 32)) ||
  x.badLlc.any fun w => decide (w * 8 < pa + n) && decide (pa < w * 8 + 8)

/-- An access of n bytes reaches the home agent of every line it touches: an episode on the line ends (R91, R95). -/
def homeTouch (x : Die) (pa n treat : Nat) : Die :=
  (linesOf pa n).foldl (fun y k => (y.endEpisode k).llcTouch k treat) x

/-- A read served at the home slices: it ends the episodes on its lines; `none` for uncorrectable data. -/
def homeRead (x : Die) (pa n treat : Nat) : Die × Option Nat :=
  let y := x.homeTouch pa n treat
  (y, if y.isBad pa n then none else some (y.hbm.read pa n))

/-- The units and words of memory that lie wholly in n written bytes are correct again (13 R388). -/
def healMem (x : Die) (pa n : Nat) : Die :=
  { x with bad := x.bad.filter (fun e => !(decide (pa ≤ e.1 * 32) && decide (e.1 * 32 + 32 ≤ pa + n)))
           badLlc := x.badLlc.filter fun w => !(decide (pa ≤ w * 8) && decide (w * 8 + 8 ≤ pa + n)) }

/-- Bytes written at the home slices: the episodes on their lines end first; units written whole are correct again. -/
def rawWrite (x : Die) (pa n v treat : Nat) : Die :=
  let y := x.homeTouch pa n treat
  { (y.healMem pa n) with hbm := y.hbm.write pa n v }

end Die

/-- The lines whose episodes in `x` have ended in `y`, as ranges of written bytes: a merge is a write (04 R108). -/
def Die.endedLines (x y : Die) : List (Nat × Nat) :=
  let kept (e : Episode) : Bool :=
    match y.episode? e.line with
    | none => false
    | some g => g.op = e.op && g.fmt = e.fmt &&
        e.partials.all fun p => g.partials.any fun q => q.pkg = p.pkg && q.die = p.die && q.unit = p.unit
  (x.episodes.filter fun e => !kept e).map fun e => (128 * e.line, 128)

/-! ## Queues' registers (11) -/

namespace Queue

def size (q : Queue) : Nat := 2 ^ (if 6 ≤ q.lsize ∧ q.lsize ≤ 16 then q.lsize else 6)

/-- CLAIM (R348): the answer, and the queue after it. -/
def claim (q : Queue) : Queue × Word64 :=
  if !q.en || decide (q.size ≤ (q.tail - q.head).toNat) then (q, 0x8000_0000_0000_0000 + q.tail.zeroExtend 64)
  else ({ q with tail := q.tail + 1 }, q.tail.zeroExtend 64)

/-- COMMIT of slot n (R349): claimed and not yet committed, else ignored with ERR. -/
def commit (q : Queue) (n : Word32) : Queue × Bool :=
  if decide ((n - q.head).toNat < (q.tail - q.head).toNat) && (q.committed.find? n.toNat).isNone then
    ({ q with committed := q.committed.insert n.toNat true }, true)
  else ({ q with err := true }, false)

/-- One 8-byte word of BITMAP (Table 11.1): bit n mod SIZE for slot n. -/
def bitmapWord (q : Queue) (k : Nat) : Word64 :=
  (List.range 64).foldl (fun w j =>
    if q.committed.any (fun e => e.1 % q.size = 64 * k + j) then w ||| (1 <<< j : Word64) else w) 0

def qcfg (q : Queue) : Word64 := BitVec.ofNat 64 (Bits.ofBool q.en * 65536 + q.shares * 256 + q.lsize)
def qstat (q : Queue) : Word64 := BitVec.ofNat 64 (q.losses * 2 + Bits.ofBool q.err)

/-- A load of n bytes at an offset of the control page (Table 11.1); any other access to CLAIM returns 0 and sets
ERR (R348). -/
def pageRead (q : Queue) (ofs n : Nat) : Queue × Word64 :=
  if ofs < 8 then
    if ofs = 0 && n = 8 then q.claim else ({ q with err := true }, 0)
  else
    let w : Word64 :=
      if ofs / 8 = 2 then q.head.zeroExtend 64
      else if ofs / 8 = 3 then q.tail.zeroExtend 64
      else if ofs / 8 = 4 then q.qcfg
      else if ofs / 8 = 5 then BitVec.ofNat 64 q.qbase
      else if ofs / 8 = 6 then q.qstat
      else if 0x2000 ≤ ofs && ofs < 0x4000 then q.bitmapWord ((ofs - 0x2000) / 8)
      else 0
    (q, BitVec.ofNat 64 (Bits.field (w.toNat / 2 ^ (8 * (ofs % 8))) 0 (8 * n)))

/-- A store of n bytes by a program or producer: COMMIT publishes a slot, QSTAT clears ERR where its bit is written 1,
QCFG and QBASE are ignored with ERR, and so is a store to CLAIM (R347 to R349). The answer says whether a slot was
committed. -/
def pageWrite (q : Queue) (ofs n v : Nat) : Queue × Bool :=
  if ofs = 8 && (n = 4 || n = 8) then q.commit (BitVec.ofNat 32 v)
  else if ofs = 0x30 then ({ q with err := if Bits.bit v 0 then false else q.err }, false)
  else ({ q with err := true }, false)

end Queue

/-! ## Links and exports -/

namespace State

/-- The link of the triangle between two core dies. -/
def dieLink (a b : Nat) : Nat := if a + b = 1 then 0 else if a + b = 2 then 1 else 2

def dieLinkUp (s : State) (a b : Nat) : Bool := s.pkg.dieLinks.getD (dieLink a b) false

/-- The link of a core die to the control die. -/
def ctlLinkUp (s : State) (d : Nat) : Bool := s.pkg.dieLinks.getD (3 + d) false

/-- A route from one die to another, over the third where their own link is down (10 R345). -/
def dieRoute (s : State) (a b : Nat) : Bool := a = b || s.dieLinkUp a b || (s.dieLinkUp a (3 - a - b) && s.dieLinkUp (3 - a - b) b)

/-- Some link of the mask toward a package is up (14 R403). -/
def pkgRoute (s : State) (p : Nat) : Bool :=
  let m := s.pkg.route.get 0 p
  (List.range 16).any fun k => m.getLsbD k && (s.pkg.links.getD k {}).up

end State

/-- What a request asks of the exported page: a load, a store or a read-modify-write, or a read or write of an engine. -/
inductive PeerUse where
  | read | write | atomic | engineRead | engineWrite
  deriving DecidableEq, Repr

/-- It changes the page. -/
def PeerUse.writes : PeerUse → Bool
  | .read => false | .engineRead => false | _ => true

/-- The use is one that a device page serves (Table 1.12), if its size is 4 or 8 bytes. -/
def PeerUse.onDevice : PeerUse → Bool
  | .read => true | .write => true | _ => false

/-- What a request's operation asks of the page. -/
def peerUse : PeerOp → PeerUse
  | .read _ => .read | .write _ => .write | .atomic _ _ _ _ => .atomic | .cu _ _ _ _ _ _ => .atomic

/-- The address and the entry of an exported byte, with the pointers of the exporter's walk (R419); REVOKED or PEERMISS where
there is none (R24, R25). A request beyond LEN, as a large PEER leaf across LEN allows it, is PEERMISS (DESIGN CHOICE, log
45). -/
def exporterEntry (x : Die) (exp : Nat) (gen : BitVec 16) (ofs n : Nat) : List PtrEntry × Except Nat (Nat × TlbEntry) :=
  match x.exports.find? exp with
  | none => ([], .error Cause.REVOKED)
  | some e =>
    if !e.used || e.gen ≠ gen then ([], .error Cause.REVOKED)
    else if e.len * 65536 < ofs + n then ([], .error Cause.PEERMISS)
    else
      let r := walk x (e.base + ofs)
      (r.2, match r.1 with | .error _ => .error Cause.PEERMISS | .ok t => .ok (e.base + ofs, t))

/-- The cause for which an exporter refuses a request of n bytes to an exported page: the permissions of its leaf cut to the
handle's rights, what a device page allows (Tables 1.10 and 1.12) and that the aperture takes no read-modify-write (R27) among
them, are PEERMISS (R23, R25); the trigger word is DEVICEKIND (14 R400). An exported page that is a PEER page is PEERMISS too
(DESIGN CHOICE, log 45). -/
def exporterDenies (t : TlbEntry) (va n : Nat) (u : PeerUse) (rw : Bool) : Option Nat :=
  let device := t.leaf.cache = 3 && (!u.onDevice || !(n = 4 || n = 8))
  let aperture := u = .atomic && regionOf (t.leaf.frame * 65536) 1 = .host
  if t.leaf.peer || (u.writes && (!t.leaf.w || !rw)) || device || aperture then some Cause.PEERMISS
  else if (t.loc va).hitsTrigger n then some Cause.DEVICEKIND
  else none

/-- Where an exporter serves a request of n bytes and its own leaf's treatment (03 R101), or the cause of its refusal
(R23 to R25); and the exporter with the pointers that its walk has used (R419). -/
def exporterLoc (x : Die) (exp : Nat) (gen : BitVec 16) (ofs n : Nat) (u : PeerUse) (rw : Bool) :
    Die × Except Nat (Loc × Nat) :=
  let r := exporterEntry x exp gen ofs n
  (x.putPtrs r.1,
    match r.2 with
    | .error k => .error k
    | .ok (va, t) =>
      match exporterDenies t va n u rw with
      | some k => .error k
      | none => .ok (t.loc va, min t.leaf.cache 2))

/-- An import frozen by a PEERMISS (R25). -/
def freezeImport (s : State) (d i : Nat) : State :=
  s.updDie d fun x =>
    match x.imports.find? i with
    | some m => { x with imports := x.imports.insert i { m with frozen := true } }
    | none => x

/-- The site of a location of die `d` for an access of n bytes; a PEERMISS freezes the import (R25). -/
def siteOf (s : State) (d : Nat) (l : Loc) (n : Nat) (u : PeerUse) (op : PeerOp) : State × Except Nat Site :=
  match l with
  | .peer i ofs _ =>
    match (s.die d).imports.find? i with
    | none => (s, .error Cause.REVOKED)
    | some m =>
      if m.frozen then (s, .error Cause.FROZEN)
      else if m.pkg = s.pkg.pkgNo.toNat then
        if !s.dieRoute d m.die || !(s.die m.die).present then (s, .error Cause.LINKDOWN)
        else
          let r := exporterLoc (s.die m.die) m.exp m.gen ofs n u m.rw
          let s1 := s.updDie m.die fun _ => r.1
          match r.2 with
          | .ok l' => (s1, .ok (.at m.die l'.1 (some l'.2)))
          | .error k => (if k = Cause.PEERMISS then freezeImport s1 d i else s1, .error k)
      else if !s.pkgRoute m.pkg then (s, .error Cause.LINKDOWN)
      else (s, .ok (.far d i m.pkg m.die
        { expDie := m.die, exp := m.exp, gen := m.gen, off := ofs, rw := m.rw, ra := m.ra, op := op
          pkg := s.pkg.pkgNo.toNat, die := d }))
  | l => (s, .ok (.at d l))

/-- What another package answers to a request beside its data: an error of R24, R25, R139 or R388, or none. Which one is
a free value (log 6). -/
def farCause (v : Word64) : Option Nat :=
  if v = 1 then some Cause.REVOKED
  else if v = 2 then some Cause.PEERMISS
  else if v = 3 then some Cause.LINKDOWN
  else if v = 4 then some Cause.UE
  else none

/-- A site's answer to the check of R36: another package's is free, and freezes the import where it is PEERMISS. -/
def acceptSite (s : State) : Site → State × Option Nat
  | .far d i _ _ _ =>
    let f := s.takeFree
    (if farCause f.1 = some Cause.PEERMISS then freezeImport f.2 d i else f.2, farCause f.1)
  | .at _ _ _ => (s, none)

/-- The memory that a location's byte is, where it lies behind an import (04 R106). -/
def placeOf (s : State) (d : Nat) (l : Loc) : Place :=
  match l with
  | .peer i ofs _ =>
    (match (s.die d).imports.find? i with
     | none => .unknown
     | some m =>
       if m.pkg ≠ s.pkg.pkgNo.toNat then .far m.pkg m.die m.exp ofs
       else
         match (exporterEntry (s.die m.die) m.exp m.gen ofs 1).2 with
         | .ok (va, t) =>
           (match t.loc va with
            | .hbm pa => if m.die = d then .own pa else .mem m.die pa
            | .qctl o => .ctl m.die o
            | _ => .unknown)
         | .error _ => .unknown)
  | _ => .unknown

/-- The location of an address under its entry, with the memory behind an import. -/
def locAt (s : State) (d : Nat) (e : TlbEntry) (va : Nat) : Loc :=
  match e.loc va with
  | .peer i ofs _ => .peer i ofs (placeOf s d (.peer i ofs))
  | l => l

end Sys2Proof.Machine
end

