-- ==== Sys2Proof/Machine/Links.lean ====
section
/-! DEFINITION. The flits of the Swiax links (14 R402, R403): their bytes, the link that each leaves on, and the messages
that leave the package as flits; power intents (12 Table 12.16) and time messages (14 R404) among them. -/

namespace Sys2Proof.Machine

open Sys2Proof

/-- A list cut or filled with zeros to n bytes. -/
def fitBytes (n : Nat) (l : List Byte) : List Byte := (l ++ List.replicate n 0).take n

/-- Bytes 0 to 247 of a flit (Table 14.3). -/
def flitBytes (f : Flit) : List Byte :=
  Bits.toBytes 2 (f.dpkg.toNat + f.ddie.toNat * 2 ^ 14) ++ [f.vc, f.seq, f.ack, 0, 0, 0] ++ fitBytes 240 f.payload

def updLink (s : State) (k : Nat) (f : Link → Link) : State := { s with pkg := { s.pkg with links := Bits.updAt s.pkg.links k f } }

/-- A flit leaves on link k under its next sequence number, and is kept until it is acknowledged. -/
def sendFlit (s : State) (k : Nat) (f : Flit) : State :=
  let l := s.pkg.links.getD k {}
  let g0 := { f with seq := l.tx + 1, ack := l.rx }
  let g := { g0 with crc := Config.crc64 (flitBytes g0) }
  (updLink s k fun l => { l with tx := l.tx + 1, unacked := l.unacked ++ [{ flit := g, sent := s.pkg.mclk }] }).send (.flit k g)

/-! ## The link of a flit (R403) -/

/-- The links of the mask toward a package that are up, lowest first. -/
def linksToward (s : State) (p : Nat) : List Nat :=
  (List.range 16).filter fun k => (s.pkg.route.get 0 p).getLsbD k && (s.pkg.links.getD k {}).up

/-- The first of some links with a free credit on a flit's VC; whether one has is a free value (log 35). -/
def creditLink : List Nat → State → State × Option Nat
  | [], s => (s, none)
  | k :: r, s =>
    let f := s.takeFree
    if f.1.getLsbD 0 then (f.2, some k) else creditLink r f.2

/-- A flit as it was before a link took it. -/
def plainFlit (f : Flit) : Flit := { f with seq := 0, ack := 0, crc := 0 }

/-- A launch whose gang's GO a flit carried: its record will say LINKDOWN (11 R361). -/
def Launch.goLost (l : Launch) (f : Flit) : Launch :=
  if l.goFlits.contains (plainFlit f) && l.cause = 0 then { l with cause := Status.LINKDOWN } else l

/-- A flit returned as LINKDOWN. -/
def returnFlit (s : State) (f : Flit) : State :=
  State.send { s with dies := s.dies.map fun x => { x with launches := x.launches.map fun l => l.goLost f } } (.linkDown f)

/-- A flit leaves on the lowest link toward its package that is up and has a free credit; it waits where none has one, and is
returned as LINKDOWN where none is up. -/
def forward (s : State) (f : Flit) : State :=
  match linksToward s f.dpkg.toNat with
  | [] => returnFlit s f
  | l =>
    let r := creditLink l s
    match r.2 with
    | some k => sendFlit r.1 k f
    | none => { r.1 with pkg := { r.1.pkg with flits := r.1.pkg.flits ++ [f] } }

/-- The flits that wait tried again, those of VC 7 before every other. -/
def retryFlits (s : State) : State :=
  let l := s.pkg.flits
  (l.filter (·.vc = 7) ++ l.filter (·.vc ≠ 7)).foldl forward { s with pkg := { s.pkg with flits := [] } }

/-- A flit behind those that wait. -/
def queueFlit (s : State) (f : Flit) : State := retryFlits { s with pkg := { s.pkg with flits := s.pkg.flits ++ [f] } }

/-! ## Messages (Table 14.3) -/

/-- Bytes cut into payloads of 240; the fuel bounds their number. -/
def payloads : Nat → List Byte → List (List Byte)
  | 0, _ => []
  | n + 1, l => if l.length ≤ 240 then [l] else l.take 240 :: payloads n (l.drop 240)

/-- The flits that carry a message to a die of another package on a VC. -/
def farFlits (p die vc : Nat) (m : Msg) : List Flit :=
  let b := Config.messageBytes m
  (payloads (b.length / 240 + 1) b).map fun l =>
    { dpkg := BitVec.ofNat 14 p, ddie := BitVec.ofNat 2 die, vc := BitVec.ofNat 8 vc, seq := 0, ack := 0, payload := l, crc := 0 }

/-- A message to a die of another package leaves as flits of a VC. The spec gives no layout of most messages:
`Config.messageBytes` stands for it (log 26). -/
def State.sendFar (s : State) (p die vc : Nat) (m : Msg) : State := (farFlits p die vc m).foldl queueFlit (s.send m)

/-! ## Intent messages (12 Table 12.16) -/

/-- The 32 bytes of an intent message. -/
def intentBytes (m : IntentMsg) : List Byte :=
  Bits.toBytes 32 (m.job.toNat + m.dw % 2 ^ 32 * 2 ^ 32 + m.slot % 2 ^ 64 * 2 ^ 64 + m.ktick % 2 ^ 64 * 2 ^ 128 + m.kpkg.toNat * 2 ^ 192)

/-- The message that 32 bytes are. -/
def intentOf (b : List Byte) : IntentMsg :=
  let v := Bits.ofBytes (b.take 32)
  { job := BitVec.ofNat 32 v, dw := Bits.field v 32 32, slot := Bits.field v 64 64, ktick := Bits.field v 128 64
    kpkg := BitVec.ofNat 14 (Bits.field v 192 14) }

/-- An intent posted: a flit on VC 7 toward every package that the routing table leads to by a link that is up (R378;
log 35). -/
def postIntent (s : State) (m : IntentMsg) : State :=
  ((s.pkg.route.map (·.1)).filter fun p => p ≠ s.pkg.pkgNo.toNat && !(linksToward s p).isEmpty).foldl (fun s p =>
    queueFlit s { dpkg := BitVec.ofNat 14 p, ddie := 0, vc := 7, seq := 0, ack := 0, payload := intentBytes m, crc := 0 })
    (s.send (.intent m))

/-! ## Time messages (R404) -/

/-- A time message to a neighbour, with TICK and the distance to the master: a flit of VC 7 toward the neighbour's fabric number,
which no register says: it is a free value (log 35). -/
def sendTime (s : State) : State :=
  let hops := if s.pkg.tbMaster then 0 else s.pkg.tbHops.toNat
  let m : Msg := .time s.tick hops
  let f := s.takeFree
  queueFlit (f.2.send m)
    { dpkg := BitVec.ofNat 14 f.1.toNat, ddie := 0, vc := 7, seq := 0, ack := 0, payload := Config.messageBytes m, crc := 0 }

/-- The time message of a 10 µs period, to the neighbour nearer the master, in a package that is not the master. -/
def timeOut (s : State) : State :=
  if s.pkg.tbMaster || s.pkg.boot < 6 || s.pkg.tbSent = s.tick / 10000 + 1 then s
  else sendTime { s with pkg := { s.pkg with tbSent := s.tick / 10000 + 1 } }

/-- Slewing ends: OFS is the part of the correction under way that has been applied (Table 14.5), if any has. -/
def Pkg.endSlew (p : Pkg) : Pkg :=
  { p with tbOfs := if p.tbGoal = p.tbSlew then p.tbOfs else BitVec.ofInt 16 (p.tbGoal - p.tbSlew)
           tbGoal := 0, tbSlew := 0 }

/-- No time message for 1 ms: LOST, and TICK runs on free (R404). -/
def timeBaseLost (s : State) : State :=
  if s.pkg.tbMaster || s.pkg.boot < 6 || s.pkg.tbLost || decide (s.tick < s.pkg.tbLast + 1000000) then s
  else { s with pkg := { s.pkg.endSlew with tbLost := true } }

end Sys2Proof.Machine
end

