-- ==== Sys2Proof/Machine/Packets.lean ====
section
/-! DEFINITION. The fields and checks of shape records (10 Table 10.6), copy packets (Table 10.7), collective packets
(Tables 10.12, 10.13) and of the packets of a queue (11 Tables 11.4 to 11.7). A packet is eight 64-bit words, word 0
first. -/

namespace Sys2Proof.Machine

open Sys2Proof

/-- A packet's bits as one number. -/
def pktNat : List Word64 → Nat
  | [] => 0
  | w :: r => w.toNat + 2 ^ 64 * pktNat r

/-- A 64-byte number as a packet. -/
def pktOfNat (x : Nat) : List Word64 := (List.range 8).map fun k => BitVec.ofNat 64 (x / 2 ^ (64 * k))

def pktType (p : List Word64) : Nat := (p.getD 0 0).toNat % 256

/-- Word `k` of a packet. -/
def pktWord (p : List Word64) (k : Nat) : Nat := (p.getD k 0).toNat

/-! ## Shape records -/

/-- The shape of a record, where it meets R234 and R326. -/
def shapeOf (r : Nat) : Option Shape :=
  let f := Bits.field r
  let ndim := f 0 3
  let fmt := BitVec.ofNat 6 (f 8 6)
  let e := [f 32 32, f 64 32, f 96 32, f 128 32]
  let s := [f 192 48, f 256 48, f 320 48]
  let box := [f 384 16, f 400 16, f 416 16, f 432 16]
  let zero := f 3 5 = 0 && f 14 18 = 0 && f 160 32 = 0 && f 240 16 = 0 && f 304 16 = 0 && f 368 16 = 0 && f 448 64 = 0
  let dimOk (d : Nat) : Bool :=
    if d < ndim then e.getD d 0 ≠ 0 && box.getD d 0 ≠ 0 && decide (box.getD d 0 ≤ e.getD d 0)
    else e.getD d 0 = 0 && box.getD d 0 = 0 && (d = 0 || s.getD (d - 1) 0 = 0)
  if 1 ≤ ndim && ndim ≤ 4 && zero && (List.range 4).all dimOk && e.getD 2 0 ≤ 65536 && e.getD 3 0 ≤ 65536 &&
     Fmt.defined.contains fmt && (box.getD 0 0 * Fmt.elemBits fmt) % 128 = 0 && s.all (fun v => v % 16 = 0) then
    some { ndim, fmt, e, s, box }
  else none

/-- Extent of the box in a dimension; 1 beyond NDIM. -/
def Shape.boxOf (h : Shape) (d : Nat) : Nat := if d < h.ndim then h.box.getD d 1 else 1
def Shape.extOf (h : Shape) (d : Nat) : Nat := if d < h.ndim then h.e.getD d 1 else 1
def Shape.strideOf (h : Shape) (d : Nat) : Nat := if d < h.ndim then h.s.getD (d - 1) 0 else 0

/-- A coordinate at or beyond its extent, or non-zero beyond NDIM (Table 10.8, check 2). -/
def Shape.coordBad (h : Shape) (c : List Nat) : Bool :=
  (List.range 4).any fun d => if d < h.ndim then decide (h.extOf d ≤ c.getD d 0) else c.getD d 0 ≠ 0

/-! ## Copy packets -/

/-- A queue's copy packet breaks Table 10.7: a must-be-zero field, DEC with a destination format that is none, a format
without DEC, a misaligned record address, or one of DSP, FESET and SCF, which only a core's engine serves (DESIGN CHOICE, log 45). The alignment of CMPL is
the model's (log 43). -/
def copyMalformed (p : List Word64) : Bool :=
  let w := pktWord p 0
  let dec := Bits.bit w 16
  let dfmt := BitVec.ofNat 6 (Bits.field w 28 6)
  Bits.field w 8 8 ≠ 0 || Bits.field w 40 24 ≠ 0 || pktWord p 7 ≠ 0 || Bits.field w 34 6 ≠ 0 ||
  (if dec then !Fmt.defined.contains dfmt else dfmt ≠ 0) || pktWord p 6 % 64 ≠ 0 ||
  Bits.bit w 17 || Bits.bit w 18 || Bits.bit w 19 || pktWord p 5 % 32 ≠ 0

/-! ## Collective packets -/

/-- A hop entry (Table 10.13). -/
structure Hop where
  pkg : Nat
  die : Nat
  op  : Nat
  arg : Nat
  deriving DecidableEq, Repr

/-- Hop `i` as posted: HOP_i in bits [32i + 287 : 32i + 256]. -/
def hopOf (p : List Word64) (i : Nat) : Hop :=
  let h := Bits.field (pktNat p) (256 + 32 * i) 32
  { pkg := Bits.field h 18 14, die := Bits.field h 16 2, op := Bits.field h 8 8, arg := Bits.field h 0 8 }

def collComm (p : List Word64) : Nat := Bits.field (pktWord p 0) 8 8
def collVc (p : List Word64) : Nat := Bits.field (pktWord p 0) 18 2
def collPrio (p : List Word64) : Nat := Bits.field (pktWord p 0) 20 2
def collNhop (p : List Word64) : Nat := Bits.field (pktWord p 0) 28 4
def collSeq (p : List Word64) : Nat := Bits.field (pktWord p 0) 32 16
def collLen (p : List Word64) : Nat := Bits.field (pktWord p 1) 0 15
def collOff (p : List Word64) : Nat := Bits.field (pktWord p 1) 32 32
def collSrcv (p : List Word64) : Nat := pktWord p 2
def collCmpv (p : List Word64) : Nat := pktWord p 3

/-- Fields of COMM_TAB_c (Table 10.10). -/
def commOf (x : Die) (c : Nat) : Nat := (x.commTab.getD c 0).toNat
def commValid (x : Die) (c : Nat) : Bool := Bits.bit (commOf x c) 2
def commVc (x : Die) (c : Nat) : Nat := Bits.field (commOf x c) 0 2
def commNslm1 (x : Die) (c : Nat) : Nat := Bits.field (commOf x c) 4 8
def commBase (x : Die) (c : Nat) : Nat := Bits.field (commOf x c) 12 40 * 4096

/-- A collective packet that is not posted (R339, R344): a broken field, or a VC other than the one that a VALID
entry of the origin binds. -/
def collMalformed (x : Die) (p : List Word64) : Bool :=
  let w := pktWord p 0
  let n := collNhop p
  pktType p ≠ 6 || Bits.field w 16 2 ≠ 0 || Bits.field w 22 6 ≠ 0 || Bits.field (pktWord p 1) 15 17 ≠ 0 ||
  n = 0 || decide (8 < n) || decide (collLen p < 16) || decide (16384 < collLen p) || collLen p % 16 ≠ 0 ||
  collOff p % 16 ≠ 0 || ((List.range n).any fun i => decide (7 < (hopOf p i).op)) ||
  (commValid x (collComm p) && commVc x (collComm p) ≠ collVc p)

/-! ## LAUNCH packets (11 Table 11.5) -/

namespace Pkt

def aff (p : List Word64) : Nat := Bits.field (pktWord p 0) 24 3
def shares (p : List Word64) : Nat := Bits.field (pktWord p 0) 16 8
def prio (p : List Word64) : Nat := Bits.field (pktWord p 0) 10 2
def hmode (p : List Word64) : Nat := Bits.field (pktWord p 0) 8 2
def cells (p : List Word64) : Nat := Bits.field (pktWord p 0) 32 6
def entry (p : List Word64) : Nat := Bits.field (pktWord p 1) 0 52
def tmpl64 (p : List Word64) : Nat := Bits.field (pktWord p 1) 52 12
def tmpl (p : List Word64) : Nat := Bits.field (pktWord p 2) 0 52
def team (p : List Word64) : Word64 := p.getD 3 0
def quota (p : List Word64) : Nat := Bits.field (pktWord p 4) 32 32
def rect (p : List Word64) : Nat := Bits.field (pktWord p 4) 0 16
def x0 (p : List Word64) : Nat := Bits.field (rect p) 0 4
def y0 (p : List Word64) : Nat := Bits.field (rect p) 4 4
def width (p : List Word64) : Nat := Bits.field (rect p) 8 4 + 1
def height (p : List Word64) : Nat := Bits.field (rect p) 12 4 + 1
def work (p : List Word64) : Nat := pktWord p 5
def depv (p : List Word64) : Bool := Bits.bit (pktWord p 6) 63
def depx (p : List Word64) : Bool := Bits.bit (pktWord p 6) 62
def depdie (p : List Word64) : Nat := Bits.field (pktWord p 6) 60 2
def depq (p : List Word64) : Nat := Bits.field (pktWord p 6) 49 11
def depslot (p : List Word64) : Nat := Bits.field (pktWord p 6) 32 16
def deppkg (p : List Word64) : Nat := Bits.field (pktWord p 0) 50 14
def nm1 (p : List Word64) : Nat := Bits.field (pktWord p 6) 0 32
def cmpl (p : List Word64) : Nat := pktWord p 7

/-- Logical cores of the rectangle, ascending. -/
def cores (p : List Word64) : List Nat :=
  (List.range 256).filter fun k =>
    decide (x0 p ≤ k % 16) && decide (k % 16 < x0 p + width p) && decide (y0 p ≤ k / 16) && decide (k / 16 < y0 p + height p)

/-- Resident groups of a lane (05 R143). -/
def slots (vregs : Nat) : Nat := min 4 (256 / vregs)

/-- The team declaration meets 07 Table 7.10 and 05 Table 5.1. -/
def teamOk (w : Word64) : Bool :=
  let t := w.toNat
  let groups := Bits.field t 0 9
  let vregs := Bits.field t 16 8
  let acc := Bits.field t 24 8
  let scr := Bits.field t 32 9
  let divs := Bits.field t 48 7
  Bits.field t 9 7 = 0 && Bits.field t 41 7 = 0 && Bits.field t 55 9 = 0 &&
  decide (1 ≤ groups) && decide (groups ≤ 320) && decide (8 ≤ vregs) && decide (vregs ≤ 192) && vregs % 8 = 0 &&
  decide (groups ≤ 80 * slots vregs) && decide (acc ≤ 8) && decide (divs ≤ 64) &&
  decide (scr * 4096 + (groups * divs * 64 + 4095) / 4096 * 4096 ≤ 1536 * 1024)

/-- The admission checks of 11 Table 11.5a that do not depend on the queue. -/
def launchOk (p : List Word64) : Bool :=
  let w0 := pktWord p 0
  let list := decide (2 ≤ hmode p)
  pktType p = 1 && Bits.field w0 38 12 = 0 && Bits.field w0 27 5 = 0 && Bits.field w0 12 4 = 0 &&
  Bits.field (pktWord p 2) 52 12 = 0 && Bits.field (pktWord p 4) 16 16 = 0 && !Bits.bit (pktWord p 6) 48 &&
  decide (cells p ≤ 32) && decide (tmpl64 p ≤ 2048) && tmpl p % 64 = 0 && entry p % 4 = 0 && teamOk (team p) &&
  decide (x0 p + width p ≤ 16) && decide (y0 p + height p ≤ 16) &&
  (if list then work p % 16 = 0 && decide (work p < 2 ^ 52) else decide (work p < 2 ^ 60) && nm1 p = 0) &&
  (if depv p then decide (depdie p ≤ 2) && decide (depq p ≤ 1087) && (depx p || deppkg p = 0)
   else !depx p && depdie p = 0 && depq p = 0 && depslot p = 0 && deppkg p = 0) &&
  cmpl p % 32 = 0

/-- WAITDEP and SIGNAL packets (R353): every other bit zero, A 8-byte aligned; that CMPL is 32-byte aligned, as Table
11.5 has it for a LAUNCH, is the model's choice (log 43). -/
def waitOk (p : List Word64) : Bool :=
  pktWord p 0 / 256 = 0 && pktWord p 1 % 8 = 0 && pktWord p 3 = 0 && pktWord p 4 = 0 && pktWord p 5 = 0 &&
  pktWord p 6 = 0 && cmpl p % 32 = 0

/-- Fields of a GANG packet (Table 11.7). -/
def gangId (p : List Word64) : Word32 := BitVec.ofNat 32 (Bits.field (pktWord p 0) 32 32)
def gangSelf (p : List Word64) : Nat := Bits.field (pktWord p 0) 12 4
def gangNm1 (p : List Word64) : Nat := Bits.field (pktWord p 0) 8 4
def gangTick (p : List Word64) : Nat := pktWord p 1
def gangLva (p : List Word64) : Nat := pktWord p 2
def gangCmpl (p : List Word64) : Nat := pktWord p 3
/-- MEM_i: package and die. -/
def gangMem (p : List Word64) (i : Nat) : Nat × Nat :=
  let m := Bits.field (pktWord p (4 + i / 4)) (16 * (i % 4)) 16
  (Bits.field m 2 14, Bits.field m 0 2)
/-- The field limits of R360 and the participant's own checks of R362; the alignment of CMPL is the model's (log 43). -/
def gangOk (p : List Word64) (pkg die : Nat) : Bool :=
  Bits.field (pktWord p 0) 16 16 = 0 && decide (1 ≤ gangNm1 p) && gangLva p % 64 = 0 && gangCmpl p % 32 = 0 &&
  decide (gangSelf p ≤ gangNm1 p) && gangMem p (gangSelf p) = (pkg, die)

/-- NOP packet (Table 11.4). -/
def nopOk (p : List Word64) : Bool := pktNat p = 7

end Pkt

end Sys2Proof.Machine
end

