-- ==== Sys2Proof/Machine/Memory.lean ====
section
/-! DEFINITION. Reads, writes and read-modify-writes of the whole package at their points of coherence: local HBM, the
control pages of the queues, host memory, the exports of another die and of another package; and the watch table,
which compares every write (10 R334, R335, 11 R351). -/

namespace Sys2Proof.Machine

open Sys2Proof

namespace State

/-! ## Queues by number: 1,024 + n is package queue n -/

def queue (s : State) (d q : Nat) : Queue :=
  if q < 1024 then (s.die d).queues.get {} q else s.pkg.queues.get {} (q - 1024)

def setQueue (s : State) (d q : Nat) (x : Queue) : State :=
  if q < 1024 then s.updDie d fun y => { y with queues := y.queues.set {} q x }
  else { s with pkg := { s.pkg with queues := s.pkg.queues.set {} (q - 1024) x } }

/-- A queue is enabled, and open: bring-up opens a die's queues with the die (14 R405). -/
def queueLive (s : State) (d q : Nat) : Bool := (s.queue d q).en && (decide (1024 ≤ q) || (s.die d).queuesOpen)

/-- CLAIM: a queue that is not open answers as one that is not enabled. -/
def claim (s : State) (d q : Nat) : State × Word64 :=
  let x := s.queue d q
  let r := ({ x with en := s.queueLive d q } : Queue).claim
  (s.setQueue d q { r.1 with en := x.en }, r.2)

/-- A load of a control page. -/
def queueRead (s : State) (d q ofs n : Nat) : State × Word64 :=
  if ofs = 0 && n = 8 then s.claim d q
  else
    let r := (s.queue d q).pageRead ofs n
    (s.setQueue d q r.1, r.2)

/-- A store to a control page; a commit is told to firmware's event queue (11 R364). -/
def queueWrite (s : State) (d q ofs n v : Nat) : State :=
  let r := (s.queue d q).pageWrite ofs n v
  let t := s.setQueue d q r.1
  if r.2 then t.postFw (.commit d q) else t

end State

/-! ## Reading -/

/-- `k` free values as one number of n bytes: what another package answers (log 6). -/
def freeBytes (s : State) (n : Nat) : State × Nat :=
  ((List.range ((n + 7) / 8)).foldl (fun (acc : State × Nat) k =>
    let r := acc.1.takeFree
    (r.2, acc.2 + r.1.toNat * 2 ^ (64 * k))) (s, 0)).map id (fun v => v % 2 ^ (8 * n))

/-- A request to the host that it answers with an error or leaves unanswered (01 R27): whether is a free value (log 6). -/
def hostFails (s : State) : State × Bool :=
  let f := s.takeFree
  (f.2, f.1 = 1)

/-- The same for a request of n bytes at a bus address: one inside an own BAR does not reach the host (14 R400). -/
def busFails (s : State) (b n : Nat) : State × Bool := if ownBus b n then (s, false) else hostFails s

/-- The lines of another package that n bytes of an export lie in end their episodes: no core of the package buffers a
partial of them any longer (03 R94, R95). -/
def dropFar (s : State) (p e : Nat) (q : PeerReq) (n : Nat) : State :=
  let here (f : FarLine) : Bool :=
    f.pkg = p && f.die = e && f.exp = q.exp && decide (f.line * 128 < q.off + n) && decide (q.off < f.line * 128 + 128)
  { s with dies := s.dies.map fun x => { x with farLines := x.farLines.filter fun f => !here f } }

/-- The VC of a peer request (14 Table 14.3). -/
def requestVc : Nat := 0
def responseVc : Nat := 1

/-- n bytes of host memory read. What is read at an address inside an own BAR, which the control die does not send to the
host, is free (14 R400; log 28). -/
def hostRead (s : State) (b n : Nat) : State × Nat := if ownBus b n then freeBytes s n else (s, s.pkg.hostMem.read b n)

/-- A request of n bytes sent to another package, which ends the episodes on their lines. -/
def sendPeer (s : State) (p e : Nat) (q : PeerReq) (n : Nat) : State := dropFar (s.sendFar p e requestVc (.peer p e q)) p e q n

/-- A read of n bytes at a site, with the last-level treatment of the access, or its cause. Peer lines are never held in
the importer's last-level cache (03 R101). Host data that comes with an error is uncorrectable data, which is told to firmware
(01 R27, 13 R388). -/
def readSite (s : State) (n treat : Nat) : Site → State × Except Nat Nat
  | .far d i p e q =>
    let a := acceptSite (sendPeer s p e q n) (.far d i p e q)
    match a.2 with
    | some k => (a.1, .error k)
    | none =>
      let f := freeBytes a.1 n
      (f.1, .ok f.2)
  | .at e (.hbm pa) ll =>
    let h := (s.die e).homeRead pa n (ll.getD treat)
    let s1 := s.updDie e fun _ => h.1
    match h.2 with
    | some v => (s1, .ok v)
    | none => (reportUe s1 e, .error Cause.UE)
  | .at e (.qctl o) _ =>
    let h := s.queueRead e (o / 65536) (o % 65536) n
    (h.1, .ok (h.2.toNat % 2 ^ (8 * n)))
  | .at e (.host b) _ =>
    let h := busFails s b n
    if h.2 then (reportUe h.1 e, .error Cause.UE) else
      let v := hostRead h.1 b n
      (v.1, .ok v.2)
  | .at _ _ _ => (s, .error Cause.MALFORMED)

/-- A read at a location of die `d` by an engine; the merges that it causes are still to be compared by the watch table. -/
def readPlain (s : State) (d : Nat) (l : Loc) (n treat : Nat) : State × Except Nat Nat :=
  let r := siteOf s d l n .engineRead (.read n)
  match r.2 with
  | .error k => (r.1, .error k)
  | .ok x => readSite r.1 n treat x

/-! ## The watch table -/

/-- Bytes that an entry compares. -/
def Watch.len (w : Watch) : Nat := if w.wide then 8 else 4

/-- A watch entry's compare holds for the value at its location (R334); uncorrectable bytes satisfy none (13 R388). -/
def Watch.holds (w : Watch) (x : Die) : Bool :=
  let v := x.hbm.read w.pa w.len
  let c := if w.wide then w.value else w.value % 2 ^ 32
  !x.isBad w.pa w.len &&
  (if w.cmp = 0 then v = c else if w.cmp = 1 then v ≠ c else if w.cmp = 2 then decide (c ≤ v) else decide (v < c))

/-- Bytes of the entry are among n at `pa`. -/
def Watch.hit (w : Watch) (pa n : Nat) : Bool := decide (w.pa < pa + n) && decide (pa < w.pa + w.len)

/-- The lowest watch entry that bytes written at `pa` satisfy. -/
def hitWatch (x : Die) (pa n : Nat) : Option (Nat × Watch) :=
  List.find? (fun e : Nat × Watch => e.2.hit pa n && e.2.holds x) x.watch

/-- Bytes of memory that a write has changed: die, physical address, length. -/
abbrev Written := Nat × Nat × Nat

/-- The lines whose episodes have ended in a die. -/
def endedOn (d : Nat) (x y : Die) : List Written := (x.endedLines y).map fun e => (d, e.1, e.2)

/-- n bytes of host memory written; at an address inside an own BAR nothing is (14 R400; log 28). -/
def hostWrite (s : State) (b n v : Nat) : State :=
  if ownBus b n then s else { s with pkg := { s.pkg with hostMem := s.pkg.hostMem.write b n v } }

/-- Whether a write whose answer is an error, or is lost, was performed: whole or not at all (04 R139), a free value (log
6). -/
def stillPerformed (s : State) : State × Bool :=
  let f := s.takeFree
  (f.2, f.1.getLsbD 0)

/-- A write at a site, or the cause of its failure; the bytes of memory that it has changed are still to be compared by the
watch tables. What another package answers, and whether the host answers, is free (log 6); a write to the host that is
answered with an error was performed whole or not at all (01 R27, 04 R139). -/
def writeSite (s : State) (n v treat : Nat) : Site → State × Option Nat × List Written
  | .far d i p e q =>
    let a := acceptSite (sendPeer s p e q n) (.far d i p e q)
    (a.1, a.2, [])
  | .at e (.hbm pa) ll =>
    let y := (s.die e).rawWrite pa n v (ll.getD treat)
    (s.updDie e fun _ => y, none, (e, pa, n) :: endedOn e (s.die e) y)
  | .at e (.qctl o) _ => (s.queueWrite e (o / 65536) (o % 65536) n v, none, [])
  | .at _ (.host b) _ =>
    let h := busFails s b n
    if h.2 then
      let q := stillPerformed h.1
      (if q.2 then hostWrite q.1 b n v else q.1, some Cause.LINKDOWN, [])
    else (hostWrite h.1 b n v, none, [])
  | .at _ _ _ => (s, some Cause.MALFORMED, [])

/-- A 64-byte item written into a claimed slot of a queue of the die and committed, with the ranges of bytes written. A
ring that does not translate, or that an export or the host refuses, takes no bytes (log 17). -/
def commitItem (s : State) (d q : Nat) (n : Word32) (item : List Word64) : State × List Written :=
  let x := s.die d
  let qu := s.queue d q
  let va := qu.qbase + 64 * (n.toNat % qu.size)
  let v := pktNat item
  let k := walk x va
  let s := s.updDie d fun x => x.putPtrs k.2
  match k.1 with
  | .ok e =>
    let r := siteOf s d (e.loc va) 64 .write (.write (Bits.toBytes 64 v))
    (match r.2 with
     | .ok site =>
       let w := writeSite r.1 64 v (if e.leaf.peer then 2 else min 2 e.leaf.cache) site
       (w.1.queueWrite d q 8 8 n.toNat, w.2.2)
     | .error _ => (r.1.queueWrite d q 8 8 n.toNat, []))
  | .error _ => (s.queueWrite d q 8 8 n.toNat, [])

/-- A launch item posted to its queue: a queue that answers FULL leaves it with the die, to be claimed again after
1 µs (R351). -/
def postItem (s : State) (d q : Nat) (item : List Word64) : State × List Written :=
  let r := s.claim d q
  if r.2.getLsbD 63 then
    (s.updDie d fun x => { x with watchItems := x.watchItems ++ [{ q, item, due := s.pkg.mclk + 2100 }] }, [])
  else commitItem r.1 d q (r.2.truncate 32) item

/-- An uncollected engine error told to its launch, with its place in the order of the die's: the launch keeps the first (05 R151,
11 R365). -/
def Launch.keepErr (l : Launch) (no core cause : Nat) : Launch :=
  match l.xerr with
  | some e => if e.1 ≤ no then l else { l with xerr := some (no, core, cause) }
  | none => { l with xerr := some (no, core, cause) }

/-- One that is recorded now (10 R335). -/
def noteXerr (s : State) (d : Nat) (k : LKey) (core cause : Nat) : State :=
  s.updDie d fun x => { (x.updLaunch k fun l => l.keepErr x.errNo core cause) with errNo := x.errNo + 1 }

/-- A copy packet of a queue or of the watch table accepted by the die copy engine: its shape record is read and
checked (R327); the answer is the completion's cause. The merges that the read causes are still to be compared. -/
def acceptPlain (s : State) (d : Nat) (p : List Word64) (core q slot : Nat) (key : Option LKey) :
    State × Option Nat :=
  let shva := pktWord p 6
  let t := translateCopy (s.die d) shva
  let s1 := s.updDie d fun _ => t.1
  match t.2 with
  | .error k => (s1, some k)
  | .ok e =>
    match denied (s1.die d) .engineRead 64 shva e with
    | some k => (s1, some k)
    | none =>
      let r := readPlain s1 d (e.loc shva) 64 (if e.leaf.peer then 2 else min 2 e.leaf.cache)
      match r.2 with
      | .error k => (r.1, some k)
      | .ok rec =>
        match shapeOf rec with
        | none => (r.1, some Cause.BADPKT)
        | some h =>
          let coord := [Bits.field (pktWord p 3) 0 32, Bits.field (pktWord p 3) 32 32, Bits.field (pktWord p 4) 0 32,
            Bits.field (pktWord p 4) 32 32]
          let w := pktWord p 0
          let src := (pktWord p 1 + coord.getD 0 0 * Fmt.elemBits h.fmt / 8 + coord.getD 1 0 * h.strideOf 1 +
            coord.getD 2 0 * h.strideOf 2 + coord.getD 3 0 * h.strideOf 3) % 2 ^ 64
          if h.coordBad coord || src % 16 ≠ 0 || pktWord p 2 % 16 ≠ 0 then (r.1, some Cause.BADPKT)
          else
            let c : CopyOp :=
              { no := (r.1.die d).copyNo, src := pktWord p 1, dst := pktWord p 2, dsp := false, dec := Bits.bit w 16,
                dfmt := BitVec.ofNat 6 (Bits.field w 28 6), scf := false, feset := false, cgrp := 0, coord, shape := h,
                scNo := 0, scCnt := 0, scFilled := 0, done := 0, err := none, core, q, slot, cmpl := pktWord p 5,
                launch := key }
            (r.1.updDie d fun x => { x with copyNo := x.copyNo + 1, dieCopies := x.dieCopies ++ [c] }, none)

/-- A watch entry fires: it is freed and its item posted by its type (R335). The ranges of bytes written. -/
def fire (s : State) (d k : Nat) (w : Watch) : State × List Written :=
  let s1 := s.updDie d fun x => { x with watch := x.watch.erase k }
  let bad := (noteXerr s1 d w.key w.core Cause.BADPKT, [])
  match pktType w.item with
  | 6 =>
    if collMalformed (s1.die d) w.item then bad
    else
      (s1.updDie d fun x =>
        { x with coll := { x.coll with queue := x.coll.queue ++ [{ pkt := w.item, src := .watch w.key, org := d }] } }, [])
  | 2 =>
    if copyMalformed w.item then bad
    else
      let r := acceptPlain s1 d w.item w.core 2047 0 (some w.key)
      (match r.2 with | none => r.1 | some k => noteXerr r.1 d w.key w.core k, endedOn d (s1.die d) (r.1.die d))
  | 1 => if Pkt.launchOk w.item then postItem s1 d w.q w.item else bad
  | _ => bad

/-- The watch table compares bytes that are uncorrectable, which satisfy nothing and are reported (13 R388). -/
def reportWatch (s : State) (d pa n : Nat) : State :=
  if (s.die d).watch.any (fun e => e.2.hit pa n && (s.die d).isBad e.2.pa e.2.len) then reportUe s d else s

/-- Every entry that the writes of the list satisfy fires; what a firing writes is compared in turn. Each firing frees an
entry, so that the rounds end. -/
def fireOn : Nat → List Written → State → State
  | 0, _, s => s
  | _, [], s => s
  | f + 1, (d, pa, n) :: r, s =>
    match hitWatch (s.die d) pa n with
    | none => fireOn f r (reportWatch s d pa n)
    | some (k, w) =>
      let t := fire s d k w
      fireOn f ((d, pa, n) :: t.2 ++ r) t.1

/-- A party whose contribution a merge has dropped takes the error at its next release, where its core still holds its team (04
R139, 13 R388). -/
def tellDropped (s : State) (a : Nat × Nat × LKey × Party) : State :=
  if (s.team? a.1 a.2.1).map (·.key) = some a.2.2.1 then recordStoreErr s a.1 a.2.1 a.2.2.2 Cause.UE else s

/-- The merges over uncorrectable words reported: each to firmware, and to the parties whose contributions it has dropped (13
R388). -/
def reportMerges (s : State) : State :=
  (List.range s.dies.length).foldl (fun s d =>
    (s.die d).mergeUe.foldl (fun s l => reportUe (l.foldl tellDropped s) d) (s.updDie d fun x => { x with mergeUe := [] })) s

/-- The writes compared by the watch tables, behind the reports of the merges that they have caused. -/
def fireAll (l : List Written) (s : State) : State := fireOn (1024 + 4 * l.length) l (reportMerges s)

/-- An update of a die, with the lines whose episodes it ends compared by the watch table (04 R108, R131). -/
def updHome (s : State) (d : Nat) (f : Die → Die) : State :=
  let y := f (s.die d)
  fireAll (endedOn d (s.die d) y) (s.updDie d fun _ => y)

/-- The merges that an access at a site of memory has caused between two states, compared. -/
def compareAt (s0 s1 : State) : Site → State
  | .at e (.hbm _) _ => fireAll (endedOn e (s0.die e) (s1.die e)) s1
  | _ => s1

/-- A read of n bytes at a location of die `d`. -/
def readAt (s : State) (d : Nat) (l : Loc) (n treat : Nat) (u : PeerUse := .read) : State × Except Nat Nat :=
  let r := siteOf s d l n u (.read n)
  match r.2 with
  | .error k => (r.1, .error k)
  | .ok x =>
    let q := readSite r.1 n treat x
    (compareAt r.1 q.1 x, q.2)

/-- A copy packet of a queue accepted by the die copy engine. -/
def acceptDieCopy (s : State) (d : Nat) (p : List Word64) (core q slot : Nat) (key : Option LKey) :
    State × Option Nat :=
  let r := acceptPlain s d p core q slot key
  (fireAll (endedOn d (s.die d) (r.1.die d)) r.1, r.2)

/-! ## Writing -/

/-- A write at a location of die `d`, or the cause for which it was not performed. -/
def writeAt (s : State) (d : Nat) (l : Loc) (n v treat : Nat) (u : PeerUse := .write) : State × Option Nat :=
  let r := siteOf s d l n u (.write (Bits.toBytes n v))
  match r.2 with
  | .error k => (r.1, some k)
  | .ok x =>
    let w := writeSite r.1 n v treat x
    (fireAll w.2.2 w.1, w.2.1)

/-! ## Accesses that a site has accepted (01 R24) -/

/-- A read of n bytes at a site that has accepted it; another package's data is free (log 6). -/
def readAccepted (s : State) (n treat : Nat) : Site → State × Except Nat Nat
  | .far _ _ p e q =>
    let f := freeBytes (sendPeer s p e q n) n
    (f.1, .ok f.2)
  | x =>
    let q := readSite s n treat x
    (compareAt s q.1 x, q.2)

/-- A write at a site that has accepted it. -/
def writeAccepted (s : State) (n v treat : Nat) : Site → State × Option Nat
  | .far _ _ p e q => (sendPeer s p e q n, none)
  | x =>
    let w := writeSite s n v treat x
    (fireAll w.2.2 w.1, w.2.1)

/-- The treatment of a line by an atomic, reduction or contribution, which the home agent allocates whatever the policy
(R92): evict-first where the stronger treatment says so. -/
def allocTreat (t : Nat) : Nat := if t = 1 then 1 else 0

/-- A read-modify-write at a site that has accepted it: the old value. A cas whose comparison fails writes nothing (09
R278); uncorrectable data leaves memory unchanged (13 R388). -/
def rmwSite (s : State) (op : Nat) (fmt : BitVec 6) (n x y treat : Nat) : Site → State × Except Nat Nat
  | .far _ _ p e q =>
    let f := freeBytes (sendPeer s p e q n) n
    (f.1, .ok f.2)
  | .at e (.hbm pa) ll =>
    let tr := allocTreat (ll.getD treat)
    let h := (s.die e).homeRead pa n tr
    let s1 := updHome s e fun _ => h.1
    match h.2 with
    | none => (reportUe s1 e, .error Cause.UE)
    | some old =>
      let fails := op = 7 && old ≠ y
      (if fails then s1
       else fireAll [(e, pa, n)] (s1.updDie e fun z => z.rawWrite pa n (rmw op fmt n old x y) tr), .ok old)
  | .at _ _ _ => (s, .error Cause.DEVICEKIND)

/-- The request of a read-modify-write as an exporter receives it. -/
def rmwOp (op : Nat) (fmt : BitVec 6) (x y : Nat) : PeerOp := .atomic (BitVec.ofNat 5 op) fmt (BitVec.ofNat 64 x) (BitVec.ofNat 64 y)

/-- A read-modify-write at a location of die `d`, performed by the home agent. -/
def rmwAt (s : State) (d : Nat) (l : Loc) (op : Nat) (fmt : BitVec 6) (n x y treat : Nat) :
    State × Except Nat Nat :=
  let r := siteOf s d l n .atomic (rmwOp op fmt x y)
  match r.2 with
  | .error k => (r.1, .error k)
  | .ok site =>
    let a := acceptSite r.1 site
    match a.2 with
    | some k => (a.1, .error k)
    | none => rmwSite a.1 op fmt n x y treat site

/-! ## Commutative updates -/

/-- A line that a core buffers a partial of: of a die of the package, or of another package. -/
inductive Buffered where
  | near (seq die line : Nat)
  | far (f : FarLine)
  deriving DecidableEq, Repr

def Buffered.seq : Buffered → Nat
  | .near n _ _ => n
  | .far f => f.seq

/-- The lines that a core buffers partials of, on every die of the package and of other packages (R94). -/
def bufferedOf (s : State) (hp hd unit : Nat) : List Buffered :=
  ((List.range s.dies.length).flatMap fun e => ((s.die e).buffered hp hd unit).map fun p => .near p.1 e p.2) ++
  (if hp = s.pkg.pkgNo.toNat then ((s.die hd).farLines.filter fun f => f.unit = unit && !f.parked).map .far else [])

/-- The least recently used of buffered lines. -/
def leastRecent : List Buffered → Option Buffered
  | [] => none
  | a :: r => match leastRecent r with | some b => if b.seq < a.seq then some b else some a | none => some a

/-- The next number in the order of contributions and parkings. -/
def nextCu (s : State) : Nat × State := (s.pkg.cuSeq, { s with pkg := { s.pkg with cuSeq := s.pkg.cuSeq + 1 } })

/-- A buffered line parked at its home slice (R94); the slice of another package's line is that package's. -/
def parkLine (s : State) (hp hd unit : Nat) : Buffered → State
  | .near _ e line => let q := nextCu s; updHome q.2 e fun x => x.park q.1 line hp hd unit
  | .far f => s.updDie hd fun x => { x with farLines := x.farLines.map fun g => if g = f then { g with parked := true } else g }

/-- A core that would buffer a 33rd line parks its least recently used one at its home slice (R94). The collective engine
is held to the same number (log 43). -/
def makeRoom (s : State) (hp hd unit : Nat) : State :=
  let buf := bufferedOf s hp hd unit
  if buf.length < 32 then s
  else match leastRecent buf with | some o => parkLine s hp hd unit o | none => s

/-- A contribution of a core to a line of another package takes a place of its buffer, as the most recent; one to a line that is
parked enters the parked partial (R94). -/
def holdFar (s : State) (hp hd unit p e : Nat) (q : PeerReq) : State :=
  let here (f : FarLine) : Bool := f.unit = unit && f.pkg = p && f.die = e && f.exp = q.exp && f.line = q.off / 128
  if (s.die hd).farLines.any (fun f => here f && f.parked) then s else
  let s1 := if (s.die hd).farLines.any here then s else makeRoom s hp hd unit
  let n := nextCu s1
  n.2.updDie hd fun x =>
    { x with farLines := { unit, pkg := p, die := e, exp := q.exp, line := q.off / 128, seq := n.1 } :: x.farLines.filter fun f => !here f }

/-- A contribution of a holder (package, die, unit) to memory of a die (R93, R94). -/
def contributeHome (s : State) (hp hd unit e pa op : Nat) (fmt : BitVec 6) (v treat : Nat) (seq : Option Nat := none)
    (who : Option (LKey × Party) := none) : State :=
  let s1 := updHome s e fun x => x.endOther (pa / 128) op fmt
  let s2 := if (s1.die e).holds hp hd unit (pa / 128) then s1 else makeRoom s1 hp hd unit
  let q := nextCu s2
  updHome q.2 e fun x => x.contribute q.1 hp hd unit pa op fmt v (allocTreat treat) seq who

/-- A contribution to a commutative-update episode at a location of die `d`, by the holder (package, die, unit). The data of
a partial of another package's line is with its exporter (log 43). `seq` is the SEQ of a collective packet (10 R341). -/
def contributeBy (s : State) (d hp hd unit : Nat) (l : Loc) (op : Nat) (fmt : BitVec 6) (v treat : Nat)
    (seq : Option Nat := none) (who : Option (LKey × Party) := none) : State × Option Nat :=
  let r := siteOf s d l (elemBytes fmt) .atomic (.cu (BitVec.ofNat 5 op) fmt (BitVec.ofNat 64 v) hp hd unit)
  match r.2 with
  | .error k => (r.1, some k)
  | .ok (.far d i p e q) =>
    let a := acceptSite (r.1.sendFar p e requestVc (.peer p e q)) (.far d i p e q)
    (if a.2.isNone && hp = s.pkg.pkgNo.toNat then holdFar a.1 hp hd unit p e q else a.1, a.2)
  | .ok (.at e (.hbm pa) ll) =>
    if (r.1.die e).isBad pa (elemBytes fmt) then (reportUe r.1 e, some Cause.UE)
    else (contributeHome r.1 hp hd unit e pa op fmt v (ll.getD treat) seq who, none)
  | .ok (.at _ _ _) => (r.1, some Cause.DEVICEKIND)

/-- A contribution of core `unit` of die `d`, for a party of its team. -/
def contributeAt (s : State) (d unit : Nat) (l : Loc) (op : Nat) (fmt : BitVec 6) (v treat : Nat)
    (who : Option (LKey × Party)) : State × Option Nat :=
  contributeBy s d s.pkg.pkgNo.toNat d unit l op fmt v treat none who

end Sys2Proof.Machine
end

