-- ==== Sys2Proof/Machine/CorePath.lean ====
section
/-! DEFINITION. The memory path of one core: the parties' store queues, the core's total store order S and what a load
observes of them (04 R110, R113, R114), the L1 (03 R80 to R83), range locks (R123 to R127), and the scratchpads. -/

namespace Sys2Proof.Machine

open Sys2Proof

/-! ## Overlap -/

/-- A location that an import makes of the die's own HBM is that location (04 R106). -/
def Loc.norm (l : Loc) : Loc :=
  match l with
  | .peer _ _ (.own pa) => .hbm pa
  | l => l

/-- Whether two byte ranges of located bytes meet, whatever import names them (04 R106). -/
def Loc.meets (a : Loc) (n : Nat) (b : Loc) (m : Nat) : Bool :=
  let hit (x y : Nat) : Bool := decide (x < y + m) && decide (y < x + n)
  match a.norm, b.norm with
  | .hbm x, .hbm y => hit x y
  | .sp c x, .sp d y => c = d && hit x y
  | .peer i x p, .peer j y q =>
    (i = j && hit x y) ||
    (match p, q with
     | .mem d x, .mem e y => d = e && hit x y
     | .ctl d x, .ctl e y => d = e && hit x y
     | .far p d k x, .far q e l y => p = q && d = e && k = l && hit x y
     | _, _ => false)
  | .host x, .host y => hit x y
  | .qctl x, .qctl y => hit x y
  | _, _ => false

/-- Bytes that lie k further on, or k back. -/
def Place.move (p : Place) (f : Nat → Nat) : Place :=
  match p with
  | .unknown => .unknown
  | .own x => .own (f x)
  | .mem d x => .mem d (f x)
  | .ctl d x => .ctl d (f x)
  | .far p d e x => .far p d e (f x)

/-- The first byte of the aligned n-byte block that holds the location. -/
def Loc.down (l : Loc) (n : Nat) : Loc :=
  match l with
  | .hbm x => .hbm (x / n * n)
  | .sp c x => .sp c (x / n * n)
  | .peer i x p => .peer i (x / n * n) (p.move fun y => y - x % n)
  | .host x => .host (x / n * n)
  | .qctl x => .qctl (x / n * n)

/-- The location k bytes on. -/
def Loc.plus (l : Loc) (k : Nat) : Loc :=
  match l with
  | .hbm x => .hbm (x + k)
  | .sp c x => .sp c (x + k)
  | .peer i x p => .peer i (x + k) (p.move (· + k))
  | .host x => .host (x + k)
  | .qctl x => .qctl (x + k)

/-- The COMMIT register of a queue's control page (11 Table 11.1). -/
def Loc.isCommit (l : Loc) : Bool :=
  match l with
  | .qctl o => o % 65536 = 8
  | .peer _ _ (.ctl _ o) => o % 65536 = 8
  | _ => false

def Loc.ofs : Loc → Nat
  | .hbm x => x | .sp _ x => x | .peer _ x _ => x | .host x => x | .qctl x => x

/-- Bytes that a queued write touches. -/
def WriteKind.bytes : WriteKind → Nat
  | .store n _ => n | .fill _ _ => 16 | .empty n => n | .full n => n
  | .atomic _ n _ _ _ => n | .red _ n _ _ => n | .cu _ n _ _ => n
  | _ => 0

/-- The bytes that an access meets a queued write on: a contribution stands for its whole line, whose episode any access to it
ends (03 R95, R137). -/
def Write.touches (w : Write) (l : Loc) (n : Nat) : Bool :=
  match w.kind with
  | .cu _ _ _ _ => (w.loc.down 128).meets 128 l n
  | k => w.loc.meets k.bytes l n

/-- The bytes that a queued write forwards, if they are known: those that a mask names, and their values (R110). -/
def WriteKind.value : WriteKind → Option (Nat × Nat)
  | .store n v => some (2 ^ n - 1, v) | .fill m v => some (m, v) | _ => none

/-- The widest scope at which a write waits for the earlier writes of S (R114): that of a release beyond the team, with
fences, arrivals and LTRIG among them. -/
def Write.waitsAt (w : Write) : Option Nat :=
  match w.rel with
  | some sc => if 2 ≤ sc then some sc else none
  | none => match w.kind with | .fence | .span _ _ | .arrive _ | .ltrig => some 3 | _ => none

/-- A write that is still in S is performed at a scope: once it is in S at .TEAM, once the crossbar has accepted it at
.CLU (Table 4.3). A fence is no access. -/
def Write.performedAt (v : Write) (scope : Nat) : Bool :=
  decide (scope ≤ 1) || (scope = 2 && v.accepted) || v.kind = .fence

/-! ## What a party observes -/

/-- Bytes of `w` laid over the n-byte value `v` at `l`. -/
def overlay (w : Write) (l : Loc) (n v : Nat) : Nat :=
  match w.kind.value with
  | none => v
  | some (m, x) =>
    (List.range n).foldl (fun acc k =>
      (List.range w.kind.bytes).foldl (fun acc j =>
        if Bits.bit m j && (w.loc.plus j).meets 1 (l.plus k) 1 then Bits.setField acc (8 * k) 8 (Bits.field x (8 * j) 8)
        else acc) acc) v

namespace Team

/-- The party's own queued writes, oldest first. -/
def queued (t : Team) (p : Party) : List Write := t.sq.filter (fun w => w.party = p)

/-- The party's queued writes that come before its access of issue number `no`; the composer's are in its order. -/
def queuedTo (t : Team) (p : Party) (no : Nat) : List Write :=
  t.sq.filter (fun w => w.party = p && (p = .composer || decide (w.no < no)))

/-- A value read at a point of coherence, as the party sees it behind its own stores that are not performed yet (R110,
R119). -/
def seen (t : Team) (p : Party) (no : Nat) (l : Loc) (n v : Nat) : Nat :=
  (t.ts.filter (fun w => w.party = p) ++ t.queuedTo p no).foldl (fun v w => overlay w l n v) v

/-- A queued write to the bytes that a read must wait for: one whose value is known only once it is performed, or one of S of
another party, which no read sees before it is performed (R119). -/
def unsettled (t : Team) (p : Party) (no : Nat) (l : Loc) (n : Nat) : Bool :=
  t.ts.any (fun w => w.touches l n && (w.party ≠ p || w.kind.value.isNone)) ||
  (t.queuedTo p no).any fun w => w.touches l n && w.kind.value.isNone

/-- Any queued write of S, or of the party's queue before the access, to the bytes. -/
def inQueue (t : Team) (p : Party) (no : Nat) (l : Loc) (n : Nat) : Bool := (t.ts ++ t.queuedTo p no).any fun w => w.touches l n

/-- No write of the party is queued or in S: every earlier store is performed at every scope (Table 4.3). -/
def drained (t : Team) (p : Party) : Bool := (t.queued p).isEmpty && t.ts.all (fun w => w.party ≠ p)

/-- A peer write of the party, or one to the host aperture (01 R27), still awaits its answer (R139). -/
def peerPending (t : Team) (p : Party) : Bool :=
  (t.sq ++ t.ts).any fun w => w.party = p && (match w.loc with | .peer _ _ _ => true | .host _ => true | _ => false)

/-! ## L1 -/

/-- Lines that hold bytes of a location. -/
def lineOf : Loc → Option LineId
  | .hbm pa => some (.hbm (pa / 128))
  | .peer i o _ => some (.peer i (o / 128))
  | _ => none

/-- Every load in flight must not install the lines that the test names, by a byte of each (R83). -/
def barInstall (t : Team) (f : Loc → Bool) : Team :=
  { t with groups := t.groups.map fun g =>
      { g with loads := g.loads.map fun o =>
          { o with noInstall := ((o.units.filter fun u => f u.loc).map fun u => u.loc.ofs / 128) ++ o.noInstall } } }

/-- The lines that hold a byte of a location leave the L1, through whatever import they came (04 R106). -/
def evict (t : Team) (l : Loc) : Team := { t with l1 := t.l1.filter fun x => !(x.loc.meets 128 l 1) }

/-- A write of the core to the bytes invalidates the matching L1 lines (R81). -/
def dropLine (t : Team) (l : Loc) : Team :=
  match lineOf l with
  | none => t
  | some _ => (t.barInstall fun k => (k.down 128).meets 128 l 1).evict l

/-- Every line invalidated, by an acquire beyond the core (R82). -/
def dropL1 (t : Team) : Team := { (t.barInstall fun _ => true) with l1 := [] }

/-- The line that a load hits: a line that fails its parity check counts as a miss and is fetched again (R84). -/
def l1Find (t : Team) (l : Loc) : Option L1Line :=
  match lineOf l with
  | none => none
  | some id => t.l1.find? (fun x => x.id = id && !x.bad)

/-- A line installed: 20 ways a set, the least recently used replaced, an evict-first line as the next victim
(R80). -/
def l1Put (t : Team) (x : L1Line) : Team :=
  let same := (t.l1.filter (fun y => y.set = x.set && y.id ≠ x.id)).take 19
  let rest := t.l1.filter (fun y => y.set ≠ x.set)
  { t with l1 := if x.evictFirst then rest ++ same ++ [x] else x :: rest ++ same }

/-- A hit makes a line the most recent, unless it is evict-first. -/
def l1Hit (t : Team) (x : L1Line) : Team :=
  if x.evictFirst then t else { t with l1 := x :: t.l1.filter (fun y => y.id ≠ x.id) }

/-! ## Range locks (R123 to R126) -/

/-- An entry that an access to [lo, lo + n) of a space conflicts with (R124). -/
def lockHit (t : Team) (sp write : Bool) (lo n : Nat) : Bool :=
  t.locks.any fun k => k.sp = sp && decide (k.lo < lo + n) && decide (lo < k.hi) && (write || k.write)

/-- An entry over the 256-byte blocks of a span (R123). -/
def lockOn (o : LockOwner) (write sp : Bool) (lo n : Nat) : Lock :=
  { owner := o, write, sp, lo := lo / 256 * 256, hi := (lo + n + 255) / 256 * 256 }

def canLock (t : Team) (n : Nat) : Bool := decide (t.locks.length + n ≤ 32)

def unlock (t : Team) (o : LockOwner) : Team := { t with locks := t.locks.filter (fun k => k.owner ≠ o) }

/-- An operation must wait for an entry of an earlier operation of the core that conflicts with one of its own
(R126); entries stand in the order in which they were taken. -/
def lockWaits (t : Team) (o : LockOwner) : Bool :=
  let before := t.locks.takeWhile (fun k => k.owner ≠ o)
  (t.locks.filter (fun k => k.owner = o)).any fun k =>
    before.any fun j => j.sp = k.sp && decide (j.lo < k.hi) && decide (k.lo < j.hi) && (j.write || k.write)

/-! ## Scratchpad (03 R75 to R79, 02 R64) -/

def tagOf (t : Team) (win : Nat) : BitVec 6 := t.tags.get 0x3F win
def setTag (t : Team) (win : Nat) (f : BitVec 6) : Team := { t with tags := t.tags.set 0x3F win f }
def isFull (t : Team) (granule : Nat) : Bool := t.fe.get false granule
def setFull (t : Team) (granule : Nat) (b : Bool) : Team := { t with fe := t.fe.set false granule b }

/-- The windows that n bytes touch. -/
def windowsOf (ofs n : Nat) : List Nat := (List.range ((ofs + n + 2047) / 2048 - ofs / 2048)).map (ofs / 2048 + ·)

/-- Bytes written by a party that is not a keep copy: the tag of every window touched becomes 0x3F (02 R64); words written
whole are correct again (13 R388). -/
def spWrite (t : Team) (ofs n v : Nat) : Team :=
  { ((windowsOf ofs n).foldl (fun t w => t.setTag w 0x3F) t) with
    sp := t.sp.write ofs n v, bad := t.bad.filter fun r => !r.wholeSp ofs n }

/-- The granules of an access set FULL or EMPTY (03 Table 3.3). -/
def setGranules (t : Team) (ofs n : Nat) (b : Bool) : Team :=
  (List.range ((ofs + n + 15) / 16 - ofs / 16)).foldl (fun t k => t.setFull (ofs / 16 + k) b) t

/-- The bytes of a granule that a mask names, written, and the granule set FULL (03 R79, 09 R276). -/
def fillGranule (t : Team) (ofs m v : Nat) : Team :=
  let whole (r : Ram) : Bool :=
    (Bits.field m 0 8 = 255 && r.wholeSp ofs 8) || (Bits.field m 8 8 = 255 && r.wholeSp (ofs + 8) 8)
  let sp := (List.range 16).foldl (fun s k => if Bits.bit m k then s.write (ofs + k) 1 (Bits.field v (8 * k) 8) else s) t.sp
  ({ (t.setTag (ofs / 2048) 0x3F) with sp := sp, bad := t.bad.filter fun r => !whole r }).setFull (ofs / 16) true

/-- A write performed at this core's scratchpad. -/
def spPerform (t : Team) (ofs : Nat) (k : WriteKind) : Team :=
  match k with
  | .store n v => t.spWrite ofs n v
  | .fill m v => t.fillGranule ofs m v
  | .empty n => t.setGranules ofs n false
  | .full n => t.setGranules ofs n true
  | .red op n fmt x => if t.badSp ofs n then t else t.spWrite ofs n (rmw op fmt n (t.sp.read ofs n) x 0)
  | .atomic op n fmt x y => if t.badSp ofs n then t else t.spWrite ofs n (rmw op fmt n (t.sp.read ofs n) x y)
  | _ => t

end Team

/-! ## Moving writes (R110, R114) -/

/-- The core still serves remote accesses: it hosts a team and its cluster's admission is open (13 R387). -/
def remotePresent (x : Die) (c : Nat) : Bool := (x.teams.find? c).isSome && !x.closing.contains (x.clusterOf c) && !x.gated.contains (x.clusterOf c)

/-- A write added to its party's queue, with the number of the instruction that issues it. -/
def pushWrite (s : State) (d c : Nat) (w : Write) : State :=
  s.updTeam d c fun t => { t with sq := t.sq ++ [{ w with no := t.issues }] }

/-- A queued write may enter S: every load and atomic of its party before it has returned its value (R109). -/
def Team.mayEnter (t : Team) (w : Write) : Bool :=
  match w.party with
  | .composer => true
  | .group g => match t.groups[g]? with | some x => x.clearTo t.stopReq w.no | none => true

/-- The accesses of a group issued from number `no` on that have brought nothing yet are given up, with what an ATOM among them
has queued. -/
def giveUp (s : State) (d c g no : Nat) : State :=
  s.updTeam d c fun t =>
    let mine (w : Write) : Bool :=
      w.party = .group g && decide (no ≤ w.no) && (match w.kind with | .atomic _ _ _ _ _ => true | _ => false)
    { t with groups := Bits.updAt t.groups g fun x => x.giveUp no
             sq := t.sq.filter (fun w => !mine w), ts := t.ts.filter (fun w => !mine w) }

/-- A write to the core's own scratchpad may be performed as it enters S: it is no release beyond the team, no fence of
its party is before it in S, and no write of S to its bytes (R114). -/
def spDirect (t : Team) (w : Write) : Bool :=
  w.waitsAt.isNone && t.ts.all fun v => !(v.party = w.party && v.kind = .fence) && !v.loc.meets v.kind.bytes w.loc w.kind.bytes

/-- The oldest queued write of a party leaves its queue and enters S; one to the core's own scratchpad is performed
there where nothing holds it back, one to global memory drops its L1 line first (R81, R110). It stays where a load of the
party before it has not returned its value (R109). -/
def enterS (s : State) (d c : Nat) (p : Party) : State :=
  s.updTeam d c fun t =>
    match t.sq.find? (fun w => w.party = p) with
    | none => t
    | some w =>
      if !t.mayEnter w then t
      else
      let t1 := { t with sq := t.sq.erase w }
      match w.loc, w.kind with
      | .sp _ _, .arrive _ => { t1 with ts := t1.ts ++ [w] }
      | .sp k o, kd => if k = c && spDirect t w then t1.spPerform o kd else { t1 with ts := t1.ts ++ [w] }
      | l, kd => let t2 := if kd.bytes = 0 then t1 else t1.dropLine l; { t2 with ts := t2.ts ++ [w] }

/-- Every queued write of a party enters S now: what precedes a hand-off at .TEAM is in S before the acquiring side's
accesses. -/
def drainToS (s : State) (d c : Nat) (p : Party) : State :=
  match s.team? d c with
  | some t => (t.queued p).foldl (fun s _ => enterS s d c p) s
  | none => s

def drainGroups (s : State) (d c first count : Nat) : State :=
  (List.range count).foldl (fun s k => drainToS s d c (.group (first + k))) s

/-- A queued write is on its way to bytes that an entry of core c covers; `own` where core c issued it. -/
def Lock.meetsWrite (k : Lock) (c : Nat) (own : Bool) (w : Write) : Bool :=
  decide (0 < w.kind.bytes) &&
  (match w.loc with
   | .sp core o => k.sp && core = c && decide (k.lo < o + w.kind.bytes) && decide (o < k.hi)
   | _ => own && !k.sp && decide (k.lo < w.va + w.kind.bytes) && decide (w.va < k.hi))

/-- An engine operation of a core takes its entries: there is room for all of them (R127), and no write that was checked before
is still on its way to their bytes, so that none meets an entry behind its check (R124, R125; log 44). -/
def takesLocks (x : Die) (c : Nat) (t : Team) (l : List Lock) : Bool :=
  t.canLock l.length && l.all fun k => x.teams.all fun e => (e.2.sq ++ e.2.ts).all fun w => !k.meetsWrite c (e.1 = c) w

/-- An earlier write of S that a write follows at its home: one to its bytes, or a contribution to its line (R108, R137); for a contribution, one of the core to
its line that is a contribution too, or one of its party (03 R94, R136); for an atomic, one of its party's atomics (09
R278). -/
def Write.follows (w v : Write) : Bool :=
  match w.kind, v.kind with
  | .cu _ _ _ _, .cu _ _ _ _ => v.loc.meets v.kind.bytes (w.loc.down 128) 128
  | .cu _ _ _ _, _ =>
    v.loc.meets v.kind.bytes w.loc w.kind.bytes || (v.party = w.party && v.loc.meets v.kind.bytes (w.loc.down 128) 128)
  | .atomic _ _ _ _ _, .atomic _ _ _ _ _ => v.party = w.party || v.touches w.loc w.kind.bytes
  | _, _ => v.touches w.loc w.kind.bytes

/-- No write that the crossbar of the cluster has accepted from another core of it is still on its way to its home: what a
core has seen of them at .CLU is performed at .DIE. -/
def clusterHome (x : Die) (c : Nat) : Bool :=
  x.teams.all fun e => e.1 = c || x.clusterOf e.1 ≠ x.clusterOf c || e.2.ts.all fun w => !w.accepted

/-- Whether the k-th write of S may go on, to the crossbar or to its home: what it follows has gone before it, a release has
every earlier write performed at its scope, those of other cores of the cluster that the core may have seen among them, and
no earlier fence of its party stands before it (R108, R114; log 19). -/
def mayGo (x : Die) (c : Nat) (t : Team) (toXbar : Bool) (k : Nat) : Bool :=
  match t.ts[k]? with
  | none => false
  | some w =>
    let before := t.ts.take k
    before.all (fun v => !w.follows v || (toXbar && v.accepted)) &&
    (match w.waitsAt with
     | some sc => before.all (·.performedAt sc) && (decide (sc < 3) || w.accepted || clusterHome x c)
     | none => true) &&
    before.all (fun v => !(v.party = w.party && v.kind = .fence))

def mayPerform (x : Die) (c : Nat) (t : Team) (k : Nat) : Bool := mayGo x c t false k

/-- A write that the crossbar of the cluster has accepted from another core of it, and that has not reached its home,
touches the bytes: requests from the cluster to them come after it (03 R90). -/
def xbarHolds (x : Die) (c : Nat) (l : Loc) (n : Nat) : Bool :=
  x.teams.any fun e => e.1 ≠ c && x.clusterOf e.1 = x.clusterOf c &&
    e.2.ts.any fun w => w.accepted && w.touches l n

/-- A register of a queue's control page. -/
def Loc.isControl (l : Loc) : Bool :=
  match l with
  | .qctl _ => true
  | .peer _ _ (.ctl _ _) => true
  | _ => false

/-- A load of a party may not be bound yet: a queued write to its bytes has no value for it until it is performed, a register is
read behind the party's stores to it (11 R348), or the crossbar has an earlier request to the bytes under way. -/
def loadHeld (s : State) (d c : Nat) (t : Team) (p : Party) (no : Nat) (l : Loc) (n : Nat) : Bool :=
  t.unsettled p no l n || (l.isControl && t.inQueue p no l n) || xbarHolds (s.die d) c l n

/-- The crossbar may accept the k-th write of S of a core: one to memory, which may go and follows none that another core
of the cluster has on its way to the same bytes (R90, Table 4.3). -/
def mayAccept (x : Die) (t : Team) (c k : Nat) : Bool :=
  match t.ts[k]? with
  | none => false
  | some w =>
    (match w.loc with | .sp _ _ => false | _ => true) && decide (0 < w.kind.bytes) && !w.accepted &&
    mayGo x c t true k && !xbarHolds x c w.loc w.kind.bytes

end Sys2Proof.Machine
end

