-- ==== Sys2Proof/Machine/ComposerMem.lean ====
section
/-! DEFINITION. Composer memory instructions: LD, ST, AMO and FENCE (07 R210 to R213). -/

namespace Sys2Proof.Machine

open Sys2Proof

/-- ACCESS of a memory fault: kind, log2 of the bytes, space (13 Table 13.2). -/
def accessOf (kind lg space : Nat) : Nat := kind + 16 * lg + 256 * space

/-- A composer fault on an access at an address. -/
def compFault (s : State) (code cause access va : Nat) : CRes := .fault { code, cause, access, va } s

/-- A translation or peer cause as a composer fault: GPROT for NOWRITE, NOEXEC and DEVICEKIND, GUE for uncorrectable
data, else GXLATE (01 Table 1.9, 13 R388). -/
def compCause (s : State) (cause access va : Nat) : CRes :=
  if cause = Cause.NOWRITE || cause = Cause.NOEXEC || cause = Cause.DEVICEKIND then
    compFault s Code.GPROT cause access va
  else if cause = Cause.UE then compFault s Code.GUE 0 access va
  else compFault s Code.GXLATE cause access va

/-- A composer that consumes an uncorrectable word of its core faults GUE, and firmware is told (13 R388). -/
def compUe (s : State) (d access va : Nat) : CRes := compCause (reportUe s d) Cause.UE access va

/-- The size of an AMO as an unsigned format. -/
def amoFmt (n : Nat) : BitVec 6 := if n = 8 then Fmt.N64 else Fmt.N32

/-- The atomic operation code of an AMO operation (07 R212, 06 Table 6.4). -/
def amoOp (o : BitVec 2) : Nat := if o = 0 then 0 else if o = 1 then 6 else if o = 2 then 7 else 4

/-- The translation of a composer access, in the order of R36: the continuation runs on the entry. -/
def withEntry (s : State) (d c : Nat) (t : Team) (a : Access) (n va acc : Nat)
    (k : State → TlbEntry → CRes) : CRes :=
  let r := translate (s.die d) c .composer t.comp.walkFail va
  let s1 := s.updDie d fun _ => r.1
  match r.2 with
  | .miss => .wait s1
  | .fail cause => compCause s1 cause acc va
  | .ok e =>
    match denied r.1 a n va e with
    | some cause => compCause s1 cause acc va
    | none => k s1 e

/-- A release or fence of the composer at .DIE or wider takes a store error recorded for it; the taking clears the error
(R139). -/
def compTakesErr (s : State) (d c : Nat) (t : Team) (scope acc va : Nat) (k : CRes) : CRes :=
  if scope < 3 then k
  else
    match t.comp.storeErr with
    | some cause => compCause (s.updComp d c fun x => { x with storeErr := none }) cause acc va
    | none => k

/-- The release side of an ordering at issue (R139): a release at .DIE or wider waits for the answers of the party's
peer stores, and takes a store error recorded for it. -/
def compRelease (s : State) (d c : Nat) (t : Team) (scope acc va : Nat) (k : CRes) : CRes :=
  compTakesErr s d c t scope acc va (if 3 ≤ scope && t.peerPending .composer then .wait s else k)

/-- Treatment of a composer's or engine's access, which carries no policy (03 R99, R100): its page's. -/
def pageLl (l : Leaf) : Nat := if l.peer then 2 else min 2 l.cache

/-- LD (R210, R211). -/
def execCLd (d a : BitVec 5) (z sp : BitVec 2) (o : BitVec 12) (s : State) : Host.Outcome State Fault Refusal :=
  execComposer (fun dd c t s =>
    let n := 2 ^ z.toNat
    let va := (t.comp.reg a + o.signExtend 64).toNat
    let put (s : State) (v : Nat) : CRes := .next (s.updComp dd c fun k => k.setReg d (BitVec.ofNat 64 v))
    let acc (space : Nat) := accessOf 0 z.toNat space
    let space := if sp = 0 then 3 else if sp = 1 then 1 else 0
    if va % n ≠ 0 then compFault s Code.GMISALIGN 0 (acc space) va
    else if sp = 0 then
      if 0x20000 ≤ va then compFault s Code.GXLATE Cause.OUTSIDE (acc 3) va
      else if t.badStore va n then compUe s dd (acc 3) va
      else put s (t.store.read va n)
    else if sp = 1 then
      if t.scratch ≤ va then compFault s Code.GXLATE Cause.OUTSIDE (acc 1) va
      else if t.lockHit true false va n then .wait s
      else if t.unsettled .composer 0 (.sp c va) n then .wait s
      else if t.badSp va n then compUe s dd (acc 1) va
      else put s (t.seen .composer 0 (.sp c va) n (t.sp.read va n))
    else
      withEntry s dd c t .load n va (acc 0) fun s1 e =>
        let l := locAt s1 dd e va
        if t.lockHit false false va n || loadHeld s1 dd c t .composer 0 l n then .wait s1
        else
          let r := readAt s1 dd l n (pageLl e.leaf)
          match r.2 with
          | .ok v => put r.1 (if l.isControl then v else t.seen .composer 0 l n v)
          | .error cause => compCause r.1 cause (acc 0) va) s

/-- ST (R210, R211). -/
def execCSt (d a : BitVec 5) (z sp : BitVec 2) (o : BitVec 12) (s : State) : Host.Outcome State Fault Refusal :=
  execComposer (fun dd c t s =>
    let n := 2 ^ z.toNat
    let va := (t.comp.reg a + o.signExtend 64).toNat
    let v := (t.comp.reg d).toNat % 2 ^ (8 * n)
    let acc (space : Nat) := accessOf 1 z.toNat space
    let space := if sp = 0 then 3 else if sp = 1 then 1 else 0
    if va % n ≠ 0 then compFault s Code.GMISALIGN 0 (acc space) va
    else if sp = 0 then
      if 0x20000 ≤ va then compFault s Code.GXLATE Cause.OUTSIDE (acc 3) va
      else .next (s.updTeam dd c fun t => t.storeWrite va n v)
    else if sp = 1 then
      if t.scratch ≤ va then compFault s Code.GXLATE Cause.OUTSIDE (acc 1) va
      else if t.lockHit true true va n then .wait s
      else .next (pushWrite s dd c { party := .composer, loc := .sp c va, kind := .store n v, va := va })
    else
      withEntry s dd c t .store n va (acc 0) fun s1 e =>
        let l := locAt s1 dd e va
        compRelease s1 dd c t (if l.isCommit then 5 else 0) (acc 0) va <|
          if t.lockHit false true va n then .wait s1
          else .next (pushWrite s1 dd c
            { party := .composer, loc := l, kind := .store n v, va := va, rel := if l.isCommit then some 5 else none,
              treat := pageLl e.leaf })) s

/-- The composer's atomic on its scratchpad may be performed at the bank: its earlier stores have entered S, no write of S
to the bytes and no fence of it stands before it there; for a release beyond the team S is empty, and for one beyond the
cluster nothing that the cluster has accepted is on its way (04 R114, R116). -/
def spAmoReady (x : Die) (t : Team) (c va n release : Nat) : Bool :=
  (t.queued .composer).isEmpty && (decide (release < 2) || t.ts.isEmpty) && (decide (release < 3) || clusterHome x c) &&
  t.ts.all fun w => !(w.party = .composer && w.kind = .fence) && !w.loc.meets w.kind.bytes (.sp c va) n

/-- AMO (R212). A scratchpad atomic is performed at the bank once what is ordered before it is; a global one is queued, and
HOME_AGENT_ACCESS completes it. A cas that fails writes no byte (02 R64). -/
def execCAmo (d a b : BitVec 5) (o : BitVec 2) (sp : BitVec 1) (z r : BitVec 2) (sc : BitVec 3) (s : State) :
    Host.Outcome State Fault Refusal :=
  execComposer (fun dd c t s =>
    let n := 2 ^ z.toNat
    let va := (t.comp.reg a).toNat
    let x := (t.comp.reg b).toNat % 2 ^ (8 * n)
    let y := (t.comp.reg d).toNat % 2 ^ (8 * n)
    let acq := r.getLsbD 0
    let rel := r.getLsbD 1
    let scope := sc.toNat
    let acc (space : Nat) := accessOf 2 z.toNat space
    let inval (t : Team) : Team := if acq && decide (2 ≤ scope) then t.dropL1 else t
    if va % n ≠ 0 then compFault s Code.GMISALIGN 0 (acc (if sp = 0 then 0 else 1)) va
    else if sp = 1 then
      if t.scratch ≤ va then compFault s Code.GXLATE Cause.OUTSIDE (acc 1) va
      else
        compRelease s dd c t (if rel then scope else 0) (acc 1) va <|
          if t.lockHit true true va n || !spAmoReady (s.die dd) t c va n (if rel then scope else 0) then .wait s
          else if t.badSp va n then compUe s dd (acc 1) va
          else
            let old := t.sp.read va n
            .next ((s.updTeam dd c fun t =>
                inval (if o = 2 && old ≠ y then t else t.spWrite va n (rmw (amoOp o) (amoFmt n) n old x y))).updComp dd c fun k =>
              k.setReg d (BitVec.ofNat 64 old))
    else
      withEntry s dd c t .atomic n va (acc 0) fun s1 e =>
        compRelease s1 dd c t (if rel then scope else 0) (acc 0) va <|
          if t.lockHit false true va n then .wait s1
          else
            .wait ((pushWrite s1 dd c
                { party := .composer, loc := locAt s1 dd e va, kind := .atomic (amoOp o) n (amoFmt n) x y, va := va,
                  rel := if rel then some scope else none, treat := pageLl e.leaf }).updComp dd c fun k =>
              { k with wait := .amo d (acq && decide (2 ≤ scope)) })) s

/-- The release part of a fence: an item that later stores of the party stay behind (R114). -/
def fenceItem (p : Party) (scope : Nat) : Write := { party := p, loc := .hbm 0, kind := .fence, rel := some scope }

/-- FENCE (R213; 04 R112 to R115): kind 0 ACQ, 1 REL, 2 AR, 3 SC. The composer's loads have returned when it
executes. A fence of any kind at .DIE or wider takes a recorded store error (04 R139). -/
def execCFence (k : BitVec 2) (sc : BitVec 3) (s : State) : Host.Outcome State Fault Refusal :=
  execComposer (fun dd c t s =>
    let scope := sc.toNat
    let acq := k ≠ 1
    let rel := k ≠ 0
    compTakesErr s dd c t scope 0 0 <| compRelease s dd c t (if rel then scope else 0) 0 0 <|
      if k = 3 && (if scope = 0 then false else if scope = 1 then !(t.queued .composer).isEmpty
          else !t.drained .composer || (decide (3 ≤ scope) && !clusterHome (s.die dd) c))
      then .wait s
      else
        let s1 := if acq && decide (2 ≤ scope) then s.updTeam dd c Team.dropL1 else s
        .next (if rel && decide (2 ≤ scope) then pushWrite s1 dd c (fenceItem .composer scope) else s1)) s

end Sys2Proof.Machine
end

