-- ==== Sys2Proof/Machine/LaneSync.lean ====
section
/-! DEFINITION. Lane synchronisation instructions: SYNC, rendezvous points and span barriers (09 R286 to R293; 05 R167
to R173; 04 R132 to R135, R139). -/

namespace Sys2Proof.Machine

open Sys2Proof

/-! ## Lane faults of memory and synchronisation -/

/-- A translation or peer cause as a lane fault (01 Table 1.9, 13 R388). -/
def laneCode (cause : Nat) : Nat :=
  if cause = Cause.NOWRITE || cause = Cause.NOEXEC || cause = Cause.DEVICEKIND then Code.PROT
  else if cause = Cause.UE then Code.UE else Code.XLATE

def laneCause (cause access va : Nat) (mask : BitVec 32) : FaultInfo :=
  { code := laneCode cause, cause := if cause = Cause.UE then 0 else cause, mask, access, va }

/-- A release or fence at .DIE or wider takes a recorded store error of the group, which the taking clears (04 R139). -/
def laneTakesErr (ctx : LaneCtx) (s : State) (scope : Nat) (k : LRes) : LRes :=
  if scope < 3 then k
  else
    match ctx.x.storeErr with
    | some cause =>
      .fault (laneCause cause 0 0 0) (s.updGroup ctx.d ctx.c ctx.g fun x => { x with storeErr := none })
    | none => k

/-- The release side of an ordering of a group (04 R139): at .DIE or wider it takes a recorded store error, and waits
for the answers of the group's peer writes. -/
def laneRelease (ctx : LaneCtx) (s : State) (scope : Nat) (k : LRes) : LRes :=
  laneTakesErr ctx s scope (if 3 ≤ scope && ctx.t.peerPending (.group ctx.g) then .wait s else k)

/-- The slot has issued an instruction that an event completes. -/
def LaneCtx.hold (ctx : LaneCtx) (s : State) (w : Wait) : LRes :=
  .held (s.updGroup ctx.d ctx.c ctx.g fun x => x.updSlot ctx.sl fun p => { p with wait := w, no := ctx.t.issues })

/-- The operands read: the latch follows KEEPA. -/
def LaneCtx.keep (ctx : LaneCtx) (o : VOps) (s : State) : State :=
  s.updGroup ctx.d ctx.c ctx.g fun x => { x with latch := if o.keepa = 1 then some o.sa.toNat else none }

/-! ## SYNC (05 R167, R287) -/

/-- Members that can not arrive: exited, parked in a spill entry, inactive under their counter, or in the other slot
when it is not live. -/
def syncBad (ctx : LaneCtx) (m : Word32) : BitVec 32 :=
  let p := ctx.x.slot ctx.sl
  let q := ctx.x.slot (1 - ctx.sl)
  (List.range 32).foldl (fun b st =>
    let ok := ctx.x.nestOf st = 0 &&
      (p.mask.getLsbD st || (q.st = .live && q.mask.getLsbD st))
    if m.getLsbD st && !ok then b ||| (1 <<< st : BitVec 32) else b) 0

/-- Members in the other PC slot. -/
def syncAway (ctx : LaneCtx) (m : Word32) : Bool := m &&& (ctx.x.slot (1 - ctx.sl)).mask ≠ 0

/-- A SYNC completed while the other slot waits at one of mask `m'`: members of that one among `here` have arrived with a
different mask, and it stops the group (log 23). -/
def syncMissed (ctx : LaneCtx) (s : State) (m' here : BitVec 32) : State :=
  if m' &&& here = 0 then s
  else
    takeLaneFault (s.updGroup ctx.d ctx.c ctx.g fun x => x.updSlot (1 - ctx.sl) fun p => { p with wait := .none })
      ctx.d ctx.c ctx.g (1 - ctx.sl) { code := Code.SYNCMASK, mask := m' &&& here }

/-- SYNC. -/
def execLSync (o : VOps) (s : State) : Host.Outcome State Fault Refusal :=
  execLane {} 9 (fun ctx s =>
    let m := ctx.x.operand 0 o.sa.toNat
    let bad := syncBad ctx m
    if m = 0 then .done (ctx.keep o s)
    else if bad ≠ 0 then .fault { code := Code.SYNCMASK, mask := bad } s
    else
      match (ctx.x.slot (1 - ctx.sl)).wait with
      | .sync m' =>
        if m' = m then .done (advanceSlot (ctx.keep o s) ctx.d ctx.c ctx.g (1 - ctx.sl))
        else if syncAway ctx m then .fault { code := Code.SYNCMASK, mask := m &&& (ctx.x.slot (1 - ctx.sl)).mask } s
        else .done (syncMissed ctx (ctx.keep o s) m' m)
      | _ => if syncAway ctx m then ctx.hold (ctx.keep o s) (.sync m) else .done (ctx.keep o s)) s

/-! ## Rendezvous points (05 R168 to R170) -/

/-- One group arrival at a point at cycle `now`, with the scope of its release. -/
def Point.arrive (p : Point) (scope now : Nat) : Point :=
  let sc := max p.scope scope
  if p.count + 1 = p.expected then
    { p with count := 0, phase := !p.phase, time := now, scope := 0, doneScope := sc }
  else { p with count := p.count + 1, scope := sc }

def Team.point (t : Team) (n : Nat) : Point := t.points.getD n {}

def Team.arriveAt (t : Team) (n scope now : Nat) : Team :=
  { t with points := Bits.updAt t.points n fun p => p.arrive scope now }

/-- An acquire at a scope: .CLU and wider invalidate the L1 (03 R82). -/
def acquireAt (s : State) (d c scope : Nat) : State :=
  if 2 ≤ scope then s.updTeam d c Team.dropL1 else s

/-- RVINIT (R288). -/
def execLRvinit (o : VOps) (s : State) : Host.Outcome State Fault Refusal :=
  execLane {} 9 (fun ctx s =>
    let w := (ctx.x.operand 0 o.sa.toNat).toNat
    let p := ctx.t.point o.sc.toNat
    if w = 0 || decide (65536 ≤ w) || (p.expected ≠ 0 && p.expected ≠ w) then .fault { code := Code.BADTARGET } s
    else
      .done ((ctx.keep o s).updTeam ctx.d ctx.c fun t =>
        { t with points := Bits.updAt t.points o.sc.toNat fun p => { p with expected := w } })) s

/-- ARRIVE (R289): the phase bit before the arrival goes to DST. Its release at .TEAM puts the group's writes into S. -/
def execLArrive (o : VOps) (s : State) : Host.Outcome State Fault Refusal :=
  execLane { behindLoads := false } 9 (fun ctx s =>
    let p := ctx.t.point o.sc.toNat
    if p.expected = 0 then .fault { code := Code.BADTARGET } s
    else
      let s1 := drainToS s ctx.d ctx.c (.group ctx.g)
      .done ((s1.updTeam ctx.d ctx.c fun t => t.arriveAt o.sc.toNat 1 s.pkg.mclk).updGroup ctx.d ctx.c ctx.g fun x =>
        x.setW (o.dst.toNat - 192) (if p.phase then 1 else 0))) s

/-- A WAIT for a phase value returns: the phase bit differs, and the quadrant's 8q cycles are over (R170). -/
def waitOver (s : State) (p : Point) (g : Nat) (phase : Bool) : Bool :=
  p.phase ≠ phase && decide (p.time + 8 * quadrantOf g ≤ s.pkg.mclk)

/-- WAIT (R290). -/
def execLWait (o : VOps) (s : State) : Host.Outcome State Fault Refusal :=
  execLane {} 9 (fun ctx s =>
    let p := ctx.t.point o.sc.toNat
    let phase := (ctx.x.operand 0 o.sa.toNat).getLsbD 0
    if p.expected = 0 then .fault { code := Code.BADTARGET } s
    else if waitOver s p ctx.g phase then .done (acquireAt (ctx.keep o s) ctx.d ctx.c p.doneScope)
    else ctx.hold (ctx.keep o s) (.rendezvous o.sc.toNat phase)) s

/-- Scope that holds two cores of one die: .CLU within a cluster, else .DIE (R133). -/
def scopeBetween (x : Die) (a b : Nat) : Nat := if x.clusterOf a = x.clusterOf b then 2 else 3

/-- RARRIVE (R291): to the own core as ARRIVE, behind the group's loads and atomics; to another one a release whose arrival
STORE_PERFORMED counts. -/
def execLRarrive (o : VOps) (s : State) : Host.Outcome State Fault Refusal :=
  execLane {} 9 (fun ctx s =>
    let w := (ctx.x.operand 0 o.sa.toNat).toNat
    let n := o.sc.toNat
    let x := s.die ctx.d
    if 256 ≤ w || !ctx.t.inRect w then .fault { code := Code.XLATE, cause := Cause.REMOTE, access := accessOf 0 0 2 } s
    else if w = ctx.c then
      if (ctx.t.point n).expected = 0 then .fault { code := Code.BADTARGET } s
      else if ctx.x.unbound then .wait s
      else
        .done ((drainToS (ctx.keep o s) ctx.d ctx.c (.group ctx.g)).updTeam ctx.d ctx.c fun t =>
          t.arriveAt n 1 s.pkg.mclk)
    else if !remotePresent x w then .fault { code := Code.ABSENT, access := accessOf 0 0 2 } s
    else
      let scope := scopeBetween x ctx.c w
      laneRelease ctx s scope <|
        ctx.hold (pushWrite (ctx.keep o s) ctx.d ctx.c
          { party := .group ctx.g, loc := .sp w 0, kind := .arrive n, rel := some scope, strand := ctx.sl }) .arrive) s

/-! ## Span barriers (05 R171 to R173, R292) -/

namespace SpanWord
def cell (w : Nat) : Nat := Bits.field w 24 5
def count (w : Nat) : Nat := Bits.field w 15 9
def lh (w : Nat) : Nat := Bits.field w 11 3
def lw (w : Nat) : Nat := Bits.field w 8 3
def oy (w : Nat) : Nat := Bits.field w 4 4
def ox (w : Nat) : Nat := Bits.field w 0 4
/-- Teams of the sub-rectangle. -/
def teams (w : Nat) : Nat := 2 ^ (lw w + lh w)

/-- The word obeys Table 5.8, R144 and R171 for a core of the team. -/
def ok (t : Team) (c w : Nat) : Bool :=
  let x := c % 16
  let y := c / 16
  let x0 := t.rectX + ox w
  let y0 := t.rectY + oy w
  Bits.field w 29 3 = 0 && !Bits.bit w 14 && decide (lw w ≤ 4) && decide (lh w ≤ 4) &&
  ox w % 2 ^ lw w = 0 && oy w % 2 ^ lh w = 0 && decide (ox w + 2 ^ lw w ≤ t.rectW) && decide (oy w + 2 ^ lh w ≤ t.rectH) &&
  decide (x0 ≤ x) && decide (x < x0 + 2 ^ lw w) && decide (y0 ≤ y) && decide (y < y0 + 2 ^ lh w) &&
  decide (cell w < t.ncells) && decide (1 ≤ count w) && decide (count w ≤ t.ngroups)

end SpanWord

namespace Cell

/-- Group arrivals of a core's team for a phase. -/
def issuedBy (k : Cell) (ph core : Nat) : Nat := k.issued.get 0 (256 * ph + core)
def arrivedBy (k : Cell) (ph core : Nat) : Nat := k.arrived.get 0 (256 * ph + core)

/-- The phase that a SPANA of a core counts toward: the current one, or the next where its team has made up COUNT. -/
def phaseFor (k : Cell) (core : Nat) (w : Word32) : Nat :=
  if SpanWord.count w.toNat ≤ k.issuedBy k.phase core then k.phase + 1 else k.phase

/-- Teams that have arrived for a phase. -/
def teamsIn (k : Cell) (ph : Nat) (w : Word32) : Nat :=
  ((List.range 256).filter fun c => decide (SpanWord.count w.toNat ≤ k.arrivedBy ph c)).length

/-- The current phase completes where every team of the sub-rectangle has arrived (R172), and so does each phase behind
it whose teams have all arrived before; the cell samples the release phases (R173). The fuel bounds their number. -/
def complete (x : Die) (now : Nat) : Nat → Cell → Cell
  | 0, k => k
  | n + 1, k =>
    match k.words.find? k.phase with
    | some w =>
      if SpanWord.teams w.toNat ≤ k.teamsIn k.phase w then
        complete x now n
          { k with phase := k.phase + 1
                   done := k.done.insert k.phase
                     { time := now, space := Bits.field x.phaseSpace.toNat 0 10, phm1 := Bits.field x.phaseSpace.toNat 16 4,
                       tab := x.phaseTab } }
      else k
    | none => k

/-- An arrival of a core's team counted for a phase. -/
def arrive (x : Die) (now core ph : Nat) (k : Cell) : Cell :=
  complete x now (k.words.length + 1)
    { k with arrived := k.arrived.set 0 (256 * ph + core) (k.arrivedBy ph core + 1) }

end Cell

/-- The die's cell behind CELL of a launch's span word. -/
def cellNo (x : Die) (t : Team) (w : Nat) : Nat :=
  match x.launch? t.key with | some l => l.cells.getD (SpanWord.cell w) 0 | none => 0

/-- SPANA (R292): counted for its phase at once, arriving once its release at .DIE is complete. -/
def execLSpana (o : VOps) (s : State) : Host.Outcome State Fault Refusal :=
  execLane {} 9 (fun ctx s =>
    let w := ctx.x.operand 0 o.sa.toNat
    let x := s.die ctx.d
    let n := cellNo x ctx.t w.toNat
    let k := x.cells.getD n {}
    let ph := k.phaseFor ctx.c w
    let other (v : Option Word32) : Bool := match v with | some v => v ≠ w | none => false
    let differs := other (k.words.find? k.phase) || other (k.words.find? ph)
    if !SpanWord.ok ctx.t ctx.c w.toNat || differs then .fault { code := Code.BADTARGET } s
    else
      laneRelease ctx s 3 <|
        let s1 := (ctx.keep o s).updDie ctx.d fun x =>
          { x with cells := Bits.updAt x.cells n fun k =>
              { k with words := k.words.insert ph w
                       issued := k.issued.set 0 (256 * ph + ctx.c) (k.issuedBy ph ctx.c + 1) } }
        let s2 := s1.updGroup ctx.d ctx.c ctx.g fun x => { x with spans := x.spans.insert n ph }
        .done (pushWrite s2 ctx.d ctx.c
          { party := .group ctx.g, loc := .hbm 0, kind := .span n ph, rel := some 3 })) s

/-- A SPANW for a phase returns: the phase is complete, and the cluster's release cycle has come (R173). -/
def spanOver (s : State) (d c n ph : Nat) : Bool :=
  let x := s.die d
  match (x.cells.getD n {}).done.find? ph with
  | none => false
  | some e =>
    let cl := x.clusterOf c
    let p := min (Bits.field (e.tab.getD (cl / 16) 0).toNat (4 * (cl % 16)) 4) e.phm1
    decide (e.time + 90 + p * e.space ≤ s.pkg.mclk)

/-- SPANW (R292): the word is compared with that of the phase that the group's latest SPANA joined, once that phase has completed
too (DESIGN CHOICE, log 45). -/
def execLSpanw (o : VOps) (s : State) : Host.Outcome State Fault Refusal :=
  execLane {} 9 (fun ctx s =>
    let w := ctx.x.operand 0 o.sa.toNat
    let x := s.die ctx.d
    let n := cellNo x ctx.t w.toNat
    match ctx.x.spans.find? n with
    | none => .fault { code := Code.BADTARGET } s
    | some ph =>
      let differs := match (x.cells.getD n {}).words.find? ph with | some v => v ≠ w | none => false
      if !SpanWord.ok ctx.t ctx.c w.toNat || differs then .fault { code := Code.BADTARGET } s
      else if spanOver s ctx.d ctx.c n ph then .done (acquireAt (ctx.keep o s) ctx.d ctx.c 3)
      else ctx.hold (ctx.keep o s) (.span n ph)) s

end Sys2Proof.Machine
end

