-- ==== Sys2Proof/Machine/LaneMem.lean ====
section
/-! DEFINITION. Lane memory instructions (09 R270 to R283): addresses (06 Table 6.17), the checks of every strand in the
order of 01 R36, range locks (04 R124, R125), decoding loads (02 R59 to R62), and what each instruction puts on its way:
loads in flight, queued writes, waiting full/empty loads. -/

namespace Sys2Proof.Machine

open Sys2Proof

/-! ## Addresses -/

/-- The signed offset field of IMM20: all of it, its low 19 bits, or its low 13 bits (06 Table 6.10). -/
def immOf (o : MOps) (bits : Nat) : Int := Bits.signed o.imm.toNat bits

namespace Group

/-- The scaled offset register of a strand; w63 gives none. -/
def memOfs (x : Group) (o : MOps) (st : Nat) : Int := (x.operand st o.ofs.toNat).toInt * 2 ^ o.scl.toNat

/-- ea_global, with the signed offset in the low `bits` bits of IMM20. -/
def eaGlobal (x : Group) (o : MOps) (bits st : Nat) : Nat :=
  let b := o.base.toNat
  let base : Nat := if b = 31 then 0 else (x.wreg (2 * b)).toNat + (x.wreg (2 * b + 1)).toNat * 2 ^ 32
  Bits.wrap 64 (base + x.memOfs o st + immOf o bits)

/-- ea_scratch. -/
def eaScratch (x : Group) (o : MOps) (st : Nat) : Nat :=
  Bits.wrap 32 ((x.wreg o.base.toNat).toNat + x.memOfs o st + immOf o (if Checks.mRem o then 13 else 19))

end Group

/-- Uniform register that names the core word of a remote access. -/
def coreWordReg (o : MOps) : Nat := Bits.field o.imm.toNat 13 6

/-! ## Charging (12 R368) -/

/-- Entry 16 for each distinct 128-byte line that the active strands touch, and at least once. The shadow lines that the scale
reads of a decoding load touch are not among them (DESIGN CHOICE, log 46). -/
def memPrice (addr : Group → Nat → Nat) (ctx : LaneCtx) (s : State) : Nat :=
  (s.die ctx.d).priceOf 16 * max 1 ((ctx.strands.map fun st => addr ctx.x st / 128).eraseDups.length)

/-! ## Checks (01 R36 to R38, 09 R271) -/

/-- What the checks of one access find. -/
inductive Chk where
  | ok (e : TlbEntry)
  | bad (f : FaultInfo)
  | miss

/-- One global access of n bytes checked in the order of R36. `count` containers on a device page are refused unless
there is one (Table 1.10); a load or atomic has its peer answer checked too. -/
def checkGlobal (ctx : LaneCtx) (s : State) (a : Access) (n count va acc : Nat) : State × Chk :=
  if 2 ^ 52 ≤ va then (s, .bad (laneCause Cause.NONCANON acc va 0))
  else if va % n ≠ 0 then (s, .bad { code := Code.MISALIGN, access := acc, va := va })
  else
    let r := translate (s.die ctx.d) ctx.c (.slot ctx.g ctx.sl) (ctx.x.slot ctx.sl).walkFail va
    let s1 := s.updDie ctx.d fun _ => r.1
    match r.2 with
    | .miss => (s1, .miss)
    | .fail k => (s1, .bad (laneCause k acc va 0))
    | .ok e =>
      match denied r.1 a n va e with
      | some k => (s1, .bad (laneCause k acc va 0))
      | none =>
        if e.leaf.cache = 3 && count ≠ 1 then (s1, .bad (laneCause Cause.DEVICEKIND acc va 0))
        else if e.leaf.peer && a ≠ .store then
          let p := siteOf s1 ctx.d (e.loc va) n (if a = .atomic then .atomic else .read) (.read n)
          match p.2 with
          | .error k => (p.1, .bad (laneCause k acc va 0))
          | .ok _ => (p.1, .ok e)
        else (s1, .ok e)

/-- What the checks of one strand's access find, with the units that it then reads or the place it writes. -/
inductive Strand (α : Type) where
  | ok (x : α)
  | bad (f : FaultInfo)
  | miss

/-- The findings of all active strands. -/
structure Found (α : Type) where
  s    : State
  oks  : List α := []
  bads : List (Nat × FaultInfo) := []
  miss : Bool := false

/-- Every active strand checked, ascending. Where one still misses, the exporters' answers are asked for again with the
instruction, and no import is frozen yet (R25). -/
def checkAll {α : Type} (ctx : LaneCtx) (s : State) (f : State → Nat → State × Strand α) : Found α :=
  let r := ctx.strands.foldl (fun acc st =>
    let r := f acc.s st
    match r.2 with
    | .ok x => { acc with s := r.1, oks := acc.oks ++ [x] }
    | .bad i => { acc with s := r.1, bads := acc.bads ++ [(st, i)] }
    | .miss => { acc with s := r.1, miss := true }) ({ s := s } : Found α)
  if r.miss then { r with s := r.s.updDie ctx.d fun x => { x with imports := (s.die ctx.d).imports } } else r

/-- The fault of the lowest failing strand, with the mask of all of them (R38). -/
def worst (l : List (Nat × FaultInfo)) : FaultInfo :=
  { ((l.head?.map (·.2)).getD { code := Code.XLATE }) with
    mask := l.foldl (fun m e => m ||| (1 <<< e.1 : BitVec 32)) 0 }

/-- Every strand passed the checks of R36 and R37, and then those of the range locks, which `lock` answers strand by
strand; else the instruction waits for walks, or faults (R271). -/
def onFound {α : Type} (r : Found α) (lock : α → Option (Nat × FaultInfo)) (k : State → List α → LRes) : LRes :=
  if r.miss then .wait r.s
  else if !r.bads.isEmpty then .fault (worst r.bads) r.s
  else
    let hits := r.oks.filterMap lock
    if !hits.isEmpty then .fault (worst hits) r.s else k r.s r.oks

def lockFault (acc va : Nat) : FaultInfo := { code := Code.LOCKHIT, access := acc, va := va }

/-! ## Treatments (03 R100, R101) -/

def polL1 (o : MOps) : Nat := min 2 (Checks.mPol o).toNat
def polLl (o : MOps) : Nat := if Checks.mPol o = 3 then 2 else if Checks.mPol o = 1 then 1 else 0
def effL1 (o : MOps) (l : Leaf) : Nat := max (polL1 o) (min 2 l.cache)
def effLl (o : MOps) (l : Leaf) : Nat := if l.peer then 2 else max (polLl o) (min 2 l.cache)

/-! ## Data -/

/-- The bytes that a strand stores: `count` containers of `c0` bytes from the run that DATA begins (R273). -/
def storeBytes (x : Group) (st data c0 : Nat) (count : Nat) : Nat :=
  (List.range count).foldl (fun acc k =>
    let v := if c0 = 8 then x.operandPair st (data + 2 * k) else (x.operand st (data + k)).toNat
    acc + v % 2 ^ (8 * c0) * 2 ^ (8 * c0 * k)) 0

/-- One loaded container as its register's value (R272). -/
def extend (z : BitVec 6) (v : Nat) : Nat :=
  if z = Fmt.szBS then Bits.wrap 32 (Bits.signed v 8) else if z = Fmt.szHS then Bits.wrap 32 (Bits.signed v 16) else v

/-- `count` containers of a strand written to the run that DATA begins. -/
def loadRegs (y : Group) (st data c0 : Nat) (z : BitVec 6) (count bytes : Nat) : Group :=
  (List.range count).foldl (fun y k =>
    let v := extend z (Bits.field bytes (8 * c0 * k) (8 * c0))
    if c0 = 8 then (y.setV (data + 2 * k) st (BitVec.ofNat 32 v)).setV (data + 2 * k + 1) st (BitVec.ofNat 32 (v / 2 ^ 32))
    else y.setV (data + k) st (BitVec.ofNat 32 v)) y

/-! ## Decoding loads (02 R59 to R62) -/

/-- Elements that one destination register receives. -/
def perReg (z : BitVec 6) : Nat := if z = Fmt.F32 then 1 else 2

/-- Bytes of one scale: a scale entry, or an E8M0 byte. -/
def scaleBytes (fmt : BitVec 6) : Nat := if Fmt.isAsym fmt then 4 else 1

/-- Elements in one byte of a page. -/
def perByte (fmt : BitVec 6) : Nat := 8 / Fmt.elemBits fmt

/-- Bytes that hold `n` elements from an element on. -/
def elemSpan (fmt : BitVec 6) (n : Nat) : Nat := (n + perByte fmt - 1) / perByte fmt

/-- The blocks of `n` elements from `i0` on. -/
def blocksOf (fmt : BitVec 6) (i0 n : Nat) : List Nat :=
  let b0 := i0 / Fmt.block fmt
  (List.range ((i0 + n - 1) / Fmt.block fmt + 1 - b0)).map (b0 + ·)

/-- A strand's units and how it decodes. -/
structure LoadPlan where
  st    : Nat
  units : List LUnit
  dec   : Option Decoding := none
  deriving DecidableEq, Repr

/-- The scale reads of a decoding strand, block by block, each checked as a load (R60); a format page in the shadow is
a DESCRIPTOR failure (01 R19). -/
def scaleUnits (ctx : LaneCtx) (st : Nat) (o : MOps) (fmt : BitVec 6) (shadow b0 : Nat) :
    List Nat → State → State × Strand (List LUnit)
  | [], s => (s, .ok [])
  | b :: bs, s =>
    let n := scaleBytes fmt
    let va := shadow + n * b
    let acc := accessOf 6 (Bits.log2 n) 0
    let r := checkGlobal ctx s .load n 1 va acc
    match r.2 with
    | .miss => (r.1, .miss)
    | .bad f => (r.1, .bad f)
    | .ok e =>
      if e.leaf.fmt ≠ 0 then (r.1, .bad (laneCause Cause.DESCRIPTOR acc va 0))
      else
        let t := scaleUnits ctx st o fmt shadow b0 bs r.1
        match t.2 with
        | .ok us =>
          (t.1, .ok ({ strand := st, part := 32 + (b - b0), loc := locAt t.1 ctx.d e va, va, n, l1 := effL1 o e.leaf, ll := effLl o e.leaf } :: us))
        | x => (t.1, x)

/-- One strand of LD. -/
def planLoad (ctx : LaneCtx) (o : MOps) (count : Nat) (s : State) (st : Nat) : State × Strand LoadPlan :=
  let c0 := Fmt.container o.szf
  let n := c0 * count
  let va := ctx.x.eaGlobal o 20 st
  let acc := accessOf 0 (Bits.log2 n) 0
  let r := checkGlobal ctx s .load n count va acc
  match r.2 with
  | .miss => (r.1, .miss)
  | .bad f => (r.1, .bad f)
  | .ok e =>
    let unit (part m : Nat) : LUnit :=
      let loc := locAt r.1 ctx.d e (va + part)
      { strand := st, part, loc, va := va + part, n := m, l1 := effL1 o e.leaf, ll := effLl o e.leaf
        lone := decide (e.leaf.cache = 3) || loc.isControl }
    let raw : Strand LoadPlan := .ok { st, units := if n = 16 then [unit 0 8, unit 8 8] else [unit 0 n] }
    match Fmt.ofPage e.leaf.fmt e.leaf.geom, e.desc with
    | some fmt, some sd =>
      if !Fmt.vecFloats.contains o.szf then (r.1, raw)
      else
        let i0 := (va - sd.base) * perByte fmt
        let m := count * perReg o.szf
        if perReg o.szf = 2 && i0 % 2 = 1 then (r.1, .bad { code := Code.MISALIGN, access := acc, va := va })
        else
          let q := scaleUnits ctx st o fmt sd.shadow (i0 / Fmt.block fmt) (blocksOf fmt i0 m) r.1
          match q.2 with
          | .ok us =>
            (q.1, .ok { st, units := (List.range (elemSpan fmt m)).map (fun k => unit k 1) ++ us, dec := some { fmt, i0 } })
          | .bad f => (q.1, .bad f)
          | .miss => (q.1, .miss)
    | _, _ => (r.1, raw)

/-- The first unit of a strand that a range lock forbids (R124); a scale read is an access of its own kind (01 R38). -/
def lockedUnit (t : Team) (acc : Nat) (p : LoadPlan) : Option (Nat × FaultInfo) :=
  (p.units.find? (fun u => t.lockHit false false u.va u.n)).map fun u =>
    (p.st, lockFault (if 32 ≤ u.part then accessOf 6 (Bits.log2 u.n) 0 else acc) u.va)

/-- A load put in flight; its slot waits until it is bound. -/
def LaneCtx.launchLoad (ctx : LaneCtx) (s : State) (i : Instr) (ps : List LoadPlan) : LRes :=
  let op : LoadOp :=
    { i, slot := ctx.sl, mask := ctx.act, units := ps.flatMap (·.units),
      decs := ps.foldl (fun m p => match p.dec with | some x => m.insert p.st x | none => m) [], no := ctx.t.issues }
  ctx.hold (s.updGroup ctx.d ctx.c ctx.g fun x => { x with loads := x.loads ++ [op] }) .load

/-- LD, LD.X2, LD.X4 (R272, R274). -/
def execLLd (n : Cnt) (o : MOps) (s : State) : Host.Outcome State Fault Refusal :=
  execLaneWith { cls := .memory } (memPrice (fun x st => x.eaGlobal o 20 st)) (fun ctx s =>
    let acc := accessOf 0 (Bits.log2 (Fmt.container o.szf * Checks.Cnt.num n)) 0
    onFound (checkAll ctx s (planLoad ctx o (Checks.Cnt.num n))) (lockedUnit ctx.t acc) fun s1 ps =>
      ctx.launchLoad s1 (.lLd n o) ps) s

/-! ## Global writes -/

/-- A strand's global write, checked. -/
structure WritePlan where
  st   : Nat
  va   : Nat
  loc  : Loc
  leaf : Leaf
  deriving DecidableEq, Repr

def planWrite (ctx : LaneCtx) (a : Access) (n count bits acc : Nat) (o : MOps) (s : State) (st : Nat) :
    State × Strand WritePlan :=
  let va := ctx.x.eaGlobal o bits st
  let r := checkGlobal ctx s a n count va acc
  match r.2 with
  | .miss => (r.1, .miss)
  | .bad f => (r.1, .bad f)
  | .ok e => (r.1, .ok { st, va, loc := locAt r.1 ctx.d e va, leaf := e.leaf })

def lockedWrite (t : Team) (n acc : Nat) (p : WritePlan) : Option (Nat × FaultInfo) :=
  if t.lockHit false true p.va n then some (p.st, lockFault acc p.va) else none

/-- The writes of an instruction put into its group's queue, in ascending strand index (R273). -/
def LaneCtx.pushAll {α : Type} (ctx : LaneCtx) (s : State) (l : List α) (f : α → Write) : State :=
  s.updTeam ctx.d ctx.c fun t => { t with sq := t.sq ++ l.map fun a => { f a with no := ctx.t.issues } }

/-- The single-copy units of a strand's store of n bytes to global memory, with their values: 16 bytes are two halves
(04 Table 4.4). -/
def storeUnits (p : WritePlan) (n v : Nat) : List (WritePlan × Nat × Nat) :=
  if n = 16 then [(p, 8, v % 2 ^ 64), ({ p with va := p.va + 8, loc := p.loc.plus 8 }, 8, v / 2 ^ 64)] else [(p, n, v)]

/-- Scope at which a store is a release: what its qualifier says, and .SYS for one to a COMMIT register (11 R349); 0 for
none. -/
def storeScope (o : MOps) (l : Loc) : Nat := max (if Checks.mFlag o then (Checks.mScope o).toNat else 0) (if l.isCommit then 5 else 0)

/-- ST, ST.X2, ST.X4 (R273, R274). -/
def execLSt (n : Cnt) (o : MOps) (s : State) : Host.Outcome State Fault Refusal :=
  execLaneWith { cls := .memory } (memPrice (fun x st => x.eaGlobal o 20 st)) (fun ctx s =>
    let count := Checks.Cnt.num n
    let c0 := Fmt.container o.szf
    let m := c0 * count
    let acc := accessOf 1 (Bits.log2 m) 0
    onFound (checkAll ctx s (planWrite ctx .store m count 20 acc o)) (lockedWrite ctx.t m acc) fun s1 ps =>
      laneRelease ctx s1 (ps.foldl (fun k p => max k (storeScope o p.loc)) 0) <|
        .done (ctx.pushAll s1 (ps.flatMap fun p => storeUnits p m (storeBytes ctx.x p.st o.data.toNat c0 count)) fun u =>
          { party := .group ctx.g, loc := u.1.loc, kind := .store u.2.1 u.2.2,
            rel := if Checks.mFlag o || u.1.loc.isCommit then some (storeScope o u.1.loc) else none, strand := u.1.st,
            va := u.1.va, treat := effLl o u.1.leaf })) s

/-! ## Atomics and reductions (R278 to R281) -/

/-- Operand of a read-modify-write in a width of n bytes. -/
def rmwOperand (x : Group) (st data n : Nat) : Nat := if n = 8 then x.operandPair st data else (x.operand st data).toNat

/-- ATOM's ordering: acquire and release (06 Table 6.11). -/
def atomAcq (o : MOps) : Bool := Checks.mFlag o && Checks.mOrd o ≠ 1
def atomRel (o : MOps) : Bool := Checks.mFlag o && Checks.mOrd o ≠ 0

/-- Treatment of a line by an ATOM or RED: the policy has no effect but for .STM, which makes the line evict-first, as a STREAM
page does (03 R100, R278, R280). -/
def rmwTreat (o : MOps) (l : Leaf) : Nat := if Checks.mPol o = 1 || l.cache = 1 then 1 else 0

/-- Treatment of a line by a RED.CU, on which the policy has no effect: its page's (R281). -/
def cuTreat (_ : MOps) (l : Leaf) : Nat := if l.cache = 1 then 1 else 0

/-- ATOM (R278): its accesses are queued, and HOME_AGENT_ACCESS performs them. -/
def execLAtom (o : MOps) (s : State) : Host.Outcome State Fault Refusal :=
  execLaneWith { cls := .memory } (memPrice (fun x st => x.eaGlobal o 13 st)) (fun ctx s =>
    let n := elemBytes o.szf
    let acc := accessOf 2 (Bits.log2 n) 0
    let op := (Checks.mOp o).toNat
    let sc := (Checks.mScope o).toNat
    let data := o.data.toNat
    onFound (checkAll ctx s (planWrite ctx .atomic n 1 13 acc o)) (lockedWrite ctx.t n acc) fun s1 ps =>
      laneRelease ctx s1 (if atomRel o then sc else 0) <|
        ctx.hold (ctx.pushAll s1 ps fun p =>
          let a := rmwOperand ctx.x p.st data n
          let b := rmwOperand ctx.x p.st (data + n / 4) n
          { party := .group ctx.g, loc := p.loc,
            kind := if op = 7 then .atomic op n o.szf b a else .atomic op n o.szf a 0,
            rel := if atomRel o then some sc else none, strand := p.st, va := p.va, treat := rmwTreat o p.leaf }) (.atom o)) s

/-- Strands of a reduction whose home data is uncorrectable: the lane faults UE exactly, and firmware is told (13 R388). -/
def ueStrands (ctx : LaneCtx) (n acc : Nat) (s : State) (ps : List WritePlan) : State × List (Nat × FaultInfo) :=
  ps.foldl (fun a p =>
    let r := siteOf a.1 ctx.d p.loc n .atomic (.read n)
    match r.2 with
    | .ok (.at e (.hbm pa) _) =>
      if (r.1.die e).isBad pa n then (reportUe r.1 e, a.2 ++ [(p.st, laneCause Cause.UE acc p.va 0)]) else (r.1, a.2)
    | _ => (r.1, a.2)) (s, [])

/-- The common part of RED and RED.CU: `k` builds the queued write from the operand, `treat` gives the line's treatment. -/
def reduction (o : MOps) (kind : Nat) (treat : MOps → Leaf → Nat) (k : Nat → Nat → WriteKind) (s : State) : Host.Outcome State Fault Refusal :=
  execLaneWith { cls := .memory } (memPrice (fun x st => x.eaGlobal o 13 st)) (fun ctx s =>
    let n := elemBytes o.szf
    let acc := accessOf kind (Bits.log2 n) 0
    let sc := (Checks.mScope o).toNat
    onFound (checkAll ctx s (planWrite ctx .atomic n 1 13 acc o)) (lockedWrite ctx.t n acc) fun s0 ps =>
      let ue := ueStrands ctx n acc s0 ps
      let s1 := ue.1
      if !ue.2.isEmpty then .fault (worst ue.2) s1
      else laneRelease ctx s1 (if Checks.mFlag o then sc else 0) <|
        .done (ctx.pushAll s1 ps fun p =>
          { party := .group ctx.g, loc := p.loc, kind := k n (rmwOperand ctx.x p.st o.data.toNat n),
            rel := if Checks.mFlag o then some sc else none, strand := p.st, va := p.va, treat := treat o p.leaf })) s

/-- RED (R280). -/
def execLRed (o : MOps) (s : State) : Host.Outcome State Fault Refusal :=
  reduction o 3 rmwTreat (fun n x => .red (Checks.mOp o).toNat n o.szf x) s

/-- The operation and type of an episode: I and N formats are one type but for min and max (R279, 03 Table 3.5a). -/
def cuType (op : Nat) (f : BitVec 6) : BitVec 6 :=
  if op = 1 || op = 2 then f else if f = Fmt.I32 then Fmt.N32 else if f = Fmt.I64 then Fmt.N64 else f

/-- RED.CU (R281). -/
def execLRedCu (o : MOps) (s : State) : Host.Outcome State Fault Refusal :=
  reduction o 4 cuTreat (fun n x => .cu (Checks.mOp o).toNat n (cuType (Checks.mOp o).toNat o.szf) x) s

/-! ## Scratchpad accesses (R272, R273, R275 to R277) -/

/-- A strand's scratchpad access, checked: its core and offset. -/
structure SpPlan where
  st   : Nat
  core : Nat
  ofs  : Nat
  deriving DecidableEq, Repr

/-- Space number of a scratchpad access in ACCESS. -/
def spSpace (ctx : LaneCtx) (core : Nat) : Nat := if core = ctx.c then 1 else 2

/-- The core that a scratchpad instruction acts on: its own, or the one of its core word (01 R30). -/
def spCore (ctx : LaneCtx) (o : MOps) : Nat :=
  if Checks.mRem o then (ctx.x.wreg (coreWordReg o)).toNat else ctx.c

/-- One strand's access of n bytes: alignment, the core word, the target's presence, the range (01 R29, R30, R36). Where a
remote access fails for its target and for its range too, the target is named (DESIGN CHOICE, log 45). -/
def planSp (ctx : LaneCtx) (n kind : Nat) (o : MOps) (s : State) (st : Nat) : State × Strand SpPlan :=
  let a := ctx.x.eaScratch o st
  let core := spCore ctx o
  let acc := accessOf kind (Bits.log2 n) (spSpace ctx core)
  if a % n ≠ 0 then (s, .bad { code := Code.MISALIGN, access := acc, va := a })
  else if Checks.mRem o && (decide (256 ≤ core) || !ctx.t.inRect core) then (s, .bad (laneCause Cause.REMOTE acc a 0))
  else if core ≠ ctx.c && !remotePresent (s.die ctx.d) core then (s, .bad { code := Code.ABSENT, access := acc, va := a })
  else
    match s.team? ctx.d core with
    | none => (s, .bad { code := Code.ABSENT, access := acc, va := a })
    | some t =>
      if t.scratch ≤ a then (s, .bad (laneCause Cause.OUTSIDE acc a 0)) else (s, .ok { st, core, ofs := a })

/-- A strand's access that the target's range locks forbid. -/
def lockedSp (ctx : LaneCtx) (s : State) (write : Bool) (n kind : Nat) (p : SpPlan) : Option (Nat × FaultInfo) :=
  match s.team? ctx.d p.core with
  | some t =>
    if t.lockHit true write p.ofs n then some (p.st, lockFault (accessOf kind (Bits.log2 n) (spSpace ctx p.core)) p.ofs) else none
  | none => none

/-- Whether LDS is a full/empty load. -/
def isFeLoad (o : MOps) : Bool := Checks.mPol o ≠ 0

/-- LDS, LDS.X2, LDS.X4 (R272, R276). A full/empty load waits at its granules, behind the earlier loads of its group (04 R110,
R113); strands that were served before a pre-emption are not served again. -/
def execLLds (n : Cnt) (o : MOps) (s : State) : Host.Outcome State Fault Refusal :=
  execLaneWith { cls := .memory } (memPrice (fun x st => x.eaScratch o st)) (fun ctx s =>
    let m := Fmt.container o.szf * Checks.Cnt.num n
    onFound (checkAll ctx s (planSp ctx m 0 o)) (fun p => if isFeLoad o then none else lockedSp ctx s false m 0 p)
      fun s1 ps =>
        if isFeLoad o then
          ctx.hold s1 (.fe n o ((ps.filter fun p => !ctx.x.feServed.getLsbD p.st).map fun p =>
            { strand := p.st, core := p.core, ofs := p.ofs }))
        else
          ctx.launchLoad s1 (.lLds n o) (ps.map fun p =>
            { st := p.st, units := [{ strand := p.st, part := 0, loc := .sp p.core p.ofs, va := p.ofs, n := m }] })) s

/-- The last of an instruction's accesses to a granule, by strand: the granule's bit is set once for the instruction (09
Table 9.3; log 42). -/
def lastOn (ps : List SpPlan) (p : SpPlan) : Bool :=
  ps.all fun q => q.core ≠ p.core || q.ofs / 16 ≠ p.ofs / 16 || decide (q.st ≤ p.st)

/-- Mask and value of the bytes of the granule of `p` that the strands of a store of n bytes write, a later strand over an
earlier one: data and FULL are one action (03 R79, 04 R121). -/
def granuleOf (ps : List SpPlan) (p : SpPlan) (n : Nat) (v : Nat → Nat) : Nat × Nat :=
  (ps.filter fun q => q.core = p.core && q.ofs / 16 = p.ofs / 16).foldl (fun a q =>
    let k := q.ofs % 16
    (Bits.setField a.1 k n (2 ^ n - 1), Bits.setField a.2 (8 * k) (8 * n) (v q.st))) (0, 0)

/-- STS, STS.X2, STS.X4 (R273, R276). -/
def execLSts (n : Cnt) (o : MOps) (s : State) : Host.Outcome State Fault Refusal :=
  execLaneWith { cls := .memory } (memPrice (fun x st => x.eaScratch o st)) (fun ctx s =>
    let c0 := Fmt.container o.szf
    let count := Checks.Cnt.num n
    let m := c0 * count
    let sc := (Checks.mScope o).toNat
    onFound (checkAll ctx s (planSp ctx m 1 o)) (lockedSp ctx s true m 1) fun s1 ps =>
      laneRelease ctx s1 (if Checks.mFlag o then sc else 0) <|
        let v (st : Nat) : Nat := storeBytes ctx.x st o.data.toNat c0 count
        let rel := if Checks.mFlag o then some sc else none
        .done (if Checks.mPol o = 1 then
            ctx.pushAll s1 (ps.filter (lastOn ps)) fun p =>
              let g := granuleOf ps p m v
              { party := .group ctx.g, loc := .sp p.core (p.ofs / 16 * 16), kind := .fill g.1 g.2, rel, strand := p.st, va := p.ofs }
          else
            ctx.pushAll s1 ps fun p =>
              { party := .group ctx.g, loc := .sp p.core p.ofs, kind := .store m (v p.st), rel, strand := p.st, va := p.ofs })) s

/-- FEOP.SETF and FEOP.SETE: `k` is the queued write of a granule, one for all strands that name it (R277). -/
def feopSet (o : MOps) (k : WriteKind) (s : State) : Host.Outcome State Fault Refusal :=
  execLaneWith { cls := .memory } (memPrice (fun x st => x.eaScratch o st)) (fun ctx s =>
    onFound (checkAll ctx s (planSp ctx 16 5 o)) (lockedSp ctx s true 16 5) fun s1 ps =>
      .done (ctx.pushAll s1 (ps.filter (lastOn ps)) fun p =>
        { party := .group ctx.g, loc := .sp p.core p.ofs, kind := k, strand := p.st, va := p.ofs })) s

def execLFeopSetf (o : MOps) (s : State) : Host.Outcome State Fault Refusal := feopSet o (.full 16) s

def execLFeopSete (o : MOps) (s : State) : Host.Outcome State Fault Refusal := feopSet o (.empty 16) s

/-- FEOP.RDF (R277): bound as a load. -/
def execLFeopRdf (o : MOps) (s : State) : Host.Outcome State Fault Refusal :=
  execLaneWith { cls := .memory } (memPrice (fun x st => x.eaScratch o st)) (fun ctx s =>
    onFound (checkAll ctx s (planSp ctx 16 5 o)) (lockedSp ctx s false 16 5) fun s1 ps =>
      ctx.launchLoad s1 (.lFeopRdf o) (ps.map fun p =>
        { st := p.st, units := [{ strand := p.st, part := 0, loc := .sp p.core p.ofs, va := p.ofs, n := 16 }] })) s

/-! ## PREF (R282) and FENCE (R283) -/

/-- The core may take one more miss on a page (01 R33). -/
def missRoom (x : Die) (c page : Nat) : Bool :=
  x.misses.any (fun m => m.core = c && m.page = page) || decide ((x.misses.filter (fun m => m.core = c)).length < 32)

/-- A line put in the L1 as a fill of `id` does: nothing of S, and nothing that the crossbar has accepted from another core of
the cluster, may still be on its way to it (03 R80, R81, R90). -/
def fillLine (s : State) (d c : Nat) (l : Loc) (va l1 data : Nat) : State :=
  s.updTeam d c fun t =>
    match Team.lineOf (l.down 128) with
    | none => t
    | some id =>
      if t.ts.any (fun w => w.touches (l.down 128) 128) || xbarHolds (s.die d) c (l.down 128) 128 then t
      else
        let set := match l with | .hbm pa => pa / 128 % 128 | _ => va / 128 % 128
        (t.evict (l.down 128)).l1Put { id, loc := l.down 128, set, data, evictFirst := l1 = 1 }

/-- One address prefetched; whatever fails a check is dropped. -/
def prefetch (ctx : LaneCtx) (o : MOps) (s : State) (va : Nat) : State :=
  let x := s.die ctx.d
  let held := (tlbFind (x.coreTlbOf ctx.c) va).isSome || (tlbFind (x.clusterTlbOf ctx.c) va).isSome
  if 2 ^ 52 ≤ va || ctx.t.lockHit false false va 1 || !(held || missRoom x ctx.c (va / 65536)) then s
  else
    let r := translateNow x ctx.c va
    let s1 := s.updDie ctx.d fun _ => r.1
    match r.2 with
    | .error _ => s1
    | .ok e =>
      let l1 := effL1 o e.leaf
      if e.leaf.cache = 3 || (l1 = 2 && effLl o e.leaf = 2) then s1
      else
        let l := (locAt s1 ctx.d e va).down 128
        let q := readAt s1 ctx.d l 128 (effLl o e.leaf)
        match q.2 with
        | .error _ => q.1
        | .ok v => if l1 = 2 then q.1 else fillLine q.1 ctx.d ctx.c l va l1 v

/-- PREF. -/
def execLPref (o : MOps) (s : State) : Host.Outcome State Fault Refusal :=
  execLaneWith { cls := .memory } (memPrice (fun x st => x.eaGlobal o 20 st)) (fun ctx s =>
    .done (if Checks.mPol o = 3 then s
           else ((ctx.strands.map fun st => ctx.x.eaGlobal o 20 st / 128 * 128).eraseDups).foldl (prefetch ctx o) s)) s

/-- FENCE (R283; 04 R112 to R115): kind 0 ACQ, 1 REL, 2 AR, 3 SC. One that acquires executes when the group's loads have
returned; the release part is queued behind them. A fence of any kind at .DIE or wider takes a recorded store error (04 R139). -/
def execLFence (o : MOps) (s : State) : Host.Outcome State Fault Refusal :=
  execLaneWith { behindLoads := Checks.mPol o = 1, cls := .memory } (fun ctx s => (s.die ctx.d).priceOf 16) (fun ctx s =>
    let k := Checks.mPol o
    let sc := (Checks.mScope o).toNat
    let p : Party := .group ctx.g
    laneTakesErr ctx s sc <| laneRelease ctx s (if k ≠ 0 then sc else 0) <|
      if k = 3 && (if sc = 0 then false else if sc = 1 then !(ctx.t.queued p).isEmpty
          else !ctx.t.drained p || (decide (3 ≤ sc) && !clusterHome (s.die ctx.d) ctx.c)) then .wait s
      else
        let s1 := if k ≠ 1 then acquireAt s ctx.d ctx.c sc else s
        .done (if k ≠ 0 && decide (2 ≤ sc) then pushWrite s1 ctx.d ctx.c (fenceItem p sc) else s1)) s

end Sys2Proof.Machine
end

