-- ==== Sys2Proof/Machine/LaneMove.lean ====
section
/-! DEFINITION. Moves and permutes (08 R261), masked cross-strand operations (R262 to R265), and index registers (R266
to R269, 03 Table 3.2). -/

namespace Sys2Proof.Machine

open Sys2Proof

/-! ## Moves (R261) -/

def execLMov (o : VOps) (s : State) : Host.Outcome State Fault Refusal :=
  execLane {} 7 (fun ctx s => ctx.done s (ctx.write (ctx.opened o) o.dst.toNat fun st => ctx.x.srcB o st)) s

def execLMovi (o : IOps) (s : State) : Host.Outcome State Fault Refusal :=
  execLane {} 7 (fun ctx s => ctx.done s (ctx.write ctx.x o.dst.toNat fun _ => o.imm.toNat)) s

/-- WMOV: strand s's element, whether or not strand s is active. -/
def execLWmov (o : VOps) (s : State) : Host.Outcome State Fault Refusal :=
  execLane {} 7 (fun ctx s =>
    ctx.done s ((ctx.opened o).setW (o.dst.toNat - 192) (ctx.x.operand (o.sc.toNat % 32) o.sa.toNat))) s

/-- One byte of PRMT's result under its control byte. -/
def prmtByte (ab ctl : Nat) : Nat :=
  let x := Bits.field ab (8 * (ctl % 8)) 8
  if Bits.bit ctl 3 then 0
  else
    match Bits.field ctl 4 2 with
    | 0 => x
    | 1 => brevN 8 x
    | 2 => x % 16 * 16 + x / 16
    | _ => x % 16 * 17

def execLPrmt (o : VOps) (s : State) : Host.Outcome State Fault Refusal :=
  execLane {} 7 (fun ctx s =>
    ctx.done s (ctx.write (ctx.opened o) o.dst.toNat fun st =>
      let ab := (ctx.x.operand st o.sa.toNat).toNat + ctx.x.srcB o st * 2 ^ 32
      let c := (ctx.x.operand st o.sc.toNat).toNat
      packElems 8 4 fun i => prmtByte ab (elem c 8 i))) s

/-! ## Masked operations -/

/-- The membership mask named by SB. -/
def maskOf (x : Group) (o : VOps) : Word32 := x.operand 0 o.sb.toNat

/-- The set that a strand's result is taken over, ascending: every member for a member, else the strand alone
(R264). -/
def memberSet (m : Word32) (st : Nat) : List Nat := if m.getLsbD st then (List.range 32).filter fun t => m.getLsbD t else [st]

/-- SHFL (R263). -/
def execLShfl (o : VOps) (s : State) : Host.Outcome State Fault Refusal :=
  execLane {} 8 (fun ctx s =>
    let m := maskOf ctx.x o
    ctx.done s (ctx.write (ctx.opened o) o.dst.toNat fun st =>
      let t := (ctx.x.operand st o.sc.toNat).toNat % 32
      (ctx.x.operand (if m.getLsbD t then t else st) o.sa.toNat).toNat)) s

/-- VOTE's result over a set of strands with a predicate (R264). -/
def voteOver (op : Nat) (set : List Nat) (p : Nat → Bool) : Nat :=
  let all (b : Bool) : Nat := if b then 2 ^ 32 - 1 else 0
  match op with
  | 0 => all (set.all p)
  | 1 => all (set.any p)
  | 2 => set.foldl (fun v t => v + Bits.ofBool (p t) * 2 ^ t) 0
  | 3 => all (set.all p || set.all fun t => !p t)
  | 4 => (set.filter p).length
  | _ => (set.find? p).getD 32

def execLVote (o : VOps) (s : State) : Host.Outcome State Fault Refusal :=
  execLane {} 8 (fun ctx s =>
    let m := maskOf ctx.x o
    ctx.done s (ctx.write (ctx.opened o) o.dst.toNat fun st =>
      voteOver o.sc.toNat (memberSet m st) fun t => ctx.x.operand t o.sa.toNat ≠ 0)) s

/-- One step of GRED on two words (R265). -/
def gredStep (op : Nat) (fmt : BitVec 6) (x y : Nat) : Fl.FRes :=
  if fmt = Fmt.F32 then
    match op with
    | 0 => Fl.add Fl.f32 .rn false x y
    | 1 => { w := (Fl.minMax Fl.f32 false false x y).w }
    | _ => { w := (Fl.minMax Fl.f32 true false x y).w }
  else
    { w := match op with
        | 0 => (x + y) % 2 ^ 32
        | 1 => intElem .imin (Fmt.isSigned fmt) false 0 32 x y 0
        | 2 => intElem .imax (Fmt.isSigned fmt) false 0 32 x y 0
        | 3 => x &&& y
        | 4 => x ||| y
        | _ => x ^^^ y }

/-- The set combined in ascending strand order, starting from its lowest member's value. -/
def gredOver (op : Nat) (fmt : BitVec 6) (v : Nat → Nat) : List Nat → Fl.FRes
  | [] => { w := 0 }
  | t :: r => r.foldl (fun acc u =>
      let x := gredStep op fmt acc.w (v u)
      { x with fl := acc.fl ||| x.fl }) { w := v t }

def execLGred (o : VOps) (s : State) : Host.Outcome State Fault Refusal :=
  execLane {} 8 (fun ctx s =>
    let m := maskOf ctx.x o
    ctx.done s (ctx.writeRaise (ctx.opened o) o.dst.toNat fun st =>
      gredOver o.sc.toNat o.fmt (fun t => (ctx.x.operand t o.sa.toNat).toNat) (memberSet m st))) s

/-! ## Index registers -/

def xBase (v : Word32) : Nat := Bits.field v.toNat 0 8
def xCount (v : Word32) : Nat := Bits.field v.toNat 8 8
def xOff (v : Word32) : Nat := Bits.field v.toNat 16 8

def Group.xreg (x : Group) (n : Nat) : Word32 := x.x.get 0 n
def Group.setX (x : Group) (n : Nat) (v : Word32) : Group := { x with x := x.x.set 0 n v }

/-- XSET (R266). -/
def execLXset (o : VOps) (s : State) : Host.Outcome State Fault Refusal :=
  execLane {} 7 (fun ctx s =>
    let v := ctx.x.operand 0 o.sa.toNat
    if Bits.field v.toNat 24 8 ≠ 0 || xCount v = 0 || decide (ctx.t.vregs < xBase v + xCount v) ||
       decide (xCount v ≤ xOff v) then .fault { code := Code.IDXBOUND } s
    else ctx.done s ((ctx.opened o).setX (o.sc.toNat % 4) v)) s

/-- XADD (R267). -/
def execLXadd (o : VOps) (s : State) : Host.Outcome State Fault Refusal :=
  execLane {} 7 (fun ctx s =>
    let n := o.sc.toNat % 4
    let v := ctx.x.xreg n
    let z := (xOff v : Int) + (ctx.x.operand 0 o.sa.toNat).toInt
    if z < 0 ∨ (xCount v : Int) ≤ z then .fault { code := Code.IDXBOUND } s
    else ctx.done s ((ctx.opened o).setX n (BitVec.ofNat 32 (Bits.setField v.toNat 16 8 z.toNat)))) s

/-- The window position of a strand's access (R268). -/
def xIndex (ctx : LaneCtx) (o : VOps) (st : Nat) : Nat :=
  xOff (ctx.x.xreg (o.sc.toNat % 4)) + (ctx.x.operand st o.sa.toNat).toNat

/-- The active strands whose position lies outside the window. -/
def xBad (ctx : LaneCtx) (o : VOps) : BitVec 32 :=
  ctx.strands.foldl (fun m st =>
    if xCount (ctx.x.xreg (o.sc.toNat % 4)) ≤ xIndex ctx o st then m ||| (1 <<< st : BitVec 32) else m) 0

def execLXld (o : VOps) (s : State) : Host.Outcome State Fault Refusal :=
  execLane {} 7 (fun ctx s =>
    if xBad ctx o ≠ 0 then .fault { code := Code.IDXBOUND, mask := xBad ctx o } s
    else
      ctx.done s (ctx.write (ctx.opened o) o.dst.toNat fun st =>
        (ctx.x.vreg (xBase (ctx.x.xreg (o.sc.toNat % 4)) + xIndex ctx o st) st).toNat)) s

def execLXst (o : VOps) (s : State) : Host.Outcome State Fault Refusal :=
  execLane {} 7 (fun ctx s =>
    if xBad ctx o ≠ 0 then .fault { code := Code.IDXBOUND, mask := xBad ctx o } s
    else
      ctx.done s (ctx.strands.foldl (fun y st =>
        y.setV (xBase (ctx.x.xreg (o.sc.toNat % 4)) + xIndex ctx o st) st (BitVec.ofNat 32 (ctx.x.srcB o st)))
        (ctx.opened o))) s

end Sys2Proof.Machine
end

