-- ==== Sys2Proof/Machine/RegUse.lean ====
section
/-! DEFINITION. The registers that a lane instruction reads and writes, and what an uncorrectable word among them does: a
read faults UE at issue, a write of the whole word makes it correct again (13 R388, 03 R98). -/

namespace Sys2Proof.Machine

open Sys2Proof

/-! ## Reads: pairs of a register specifier and the strand whose element is read -/

/-- `n` registers from a specifier, for one strand. -/
def regRun (s n st : Nat) : List (Nat × Nat) := (List.range n).map fun k => (s + k, st)

/-- Registers of source A of a V instruction. -/
def aRegs (i : Instr) (u : Checks.VUse) (o : VOps) : Nat :=
  match i with
  | .lCvtn o => Fmt.perContainer o.fmt
  | .lQz o => Fmt.perContainer o.fmt
  | .lCvtw o => if Fmt.is64 (Checks.srcFmt o) then 2 else 1
  | .lEfmov o => if o.sc.getLsbD 6 then 4 else 0
  | _ => if u.a = .none then 0 else if u.p64 && Fmt.is64 o.fmt then 2 else 1

/-- What a V instruction reads for an active strand (08, 09). -/
def vReads (x : Group) (i : Instr) (u : Checks.VUse) (o : VOps) (st : Nat) : List (Nat × Nat) :=
  let every (spec : Nat) : List (Nat × Nat) := (List.range 32).map fun t => (spec, t)
  (match i with
   | .lShfl _ | .lVote _ | .lGred _ => every o.sa.toNat
   | .lWmov _ => [(o.sa.toNat, o.sc.toNat % 32)]
   | _ => regRun o.sa.toNat (aRegs i u o) st) ++
  (if u.b = .none then [] else
    regRun o.sb.toNat (if u.p64 && u.b64 && Fmt.is64 o.fmt then 2 else 1) (if u.bmod then srcStrand o.mod st else st)) ++
  (if u.sc = .src then [(o.sc.toNat, st)] else []) ++
  (match i with
   | .lXld _ =>
     let v := x.xreg (o.sc.toNat % 4)
     let k := xOff v + (x.operand st o.sa.toNat).toNat
     if k < xCount v then [(xBase v + k, st)] else []
   | _ => [])

/-- What an M instruction reads for an active strand: its base, offset and core word, and the data of a form that
stores. -/
def mReads (i : Instr) (o : MOps) (st : Nat) : List (Nat × Nat) :=
  let base : List (Nat × Nat) :=
    if Checks.mIsGlobal i then (if o.base.toNat = 31 then [] else regRun (192 + 2 * o.base.toNat) 2 st)
    else [(192 + o.base.toNat, st)] ++ (if Checks.mRem o then [(192 + Bits.field o.imm.toNat 13 6, st)] else [])
  match i with
  | .lFence _ => []
  | .lSt _ _ | .lSts _ _ | .lRed _ | .lRedCu _ | .lAtom _ =>
    base ++ [(o.ofs.toNat, st)] ++ regRun o.data.toNat (Checks.mRun i) st
  | _ => base ++ [(o.ofs.toNat, st)]

/-- What a C instruction reads for an active strand: its condition or its link. -/
def cReads (i : Instr) (o : COps) (st : Nat) : List (Nat × Nat) :=
  match i with
  | .lBra _ | .lBrx _ | .lIf _ | .lBreak _ | .lCont _ => [(o.cond.toNat, st)]
  | .lRet _ => [(o.link.toNat, st)]
  | _ => []

/-- What MMA and MLOOP read of their strands' registers: for every live row the A registers that hold a live element of
a step, and the scale entry of its row (10 R310, R311). -/
def chainReads (x : Group) (act : BitVec 32) (o : XOps) (steps : Nat) : List (Nat × Nat) :=
  let edge := (x.operand 0 (o.rb.toNat + 1)).toNat
  let n := codeRegs o.fmt (min (stepK o.fmt) (klimOf o.fmt edge))
  (liveRows edge act).flatMap fun r =>
    ((List.range steps).flatMap fun j => regRun (o.ra.toNat + 16 * Checks.aadv o * j) n r) ++
    (if Fmt.isAsym o.fmt then [(Bits.field edge 20 8, r)] else [])

/-- What an X instruction reads: the run of RB, and the registers of A or of scale entries. -/
def xReads (x : Group) (act : BitVec 32) (i : Instr) (u : Checks.XUse) (o : XOps) : List (Nat × Nat) :=
  regRun o.rb.toNat u.rb 0 ++
  (match i with
   | .lMma _ => chainReads x act o 1
   | .lMloop _ => chainReads x act o o.cnt.toNat
   | .lScfeed _ => (List.range o.cnt.toNat).map fun t => (o.ra.toNat, t)
   | _ => [])

/-- What a lane instruction of active strands `act` reads for one of them. -/
def laneReads (x : Group) (act : BitVec 32) (i : Instr) (st : Nat) : List (Nat × Nat) :=
  match Checks.vUse i with
  | some (u, o) => vReads x i u o st
  | none =>
  match Checks.mOps i with
  | some o => mReads i o st
  | none =>
  match Checks.cOps i with
  | some o => cReads i o st
  | none =>
  match Checks.xUse i with
  | some (u, o) => xReads x act i u o
  | none => []

/-- The word of a register's element is uncorrectable; w63 is no storage. -/
def Team.badReg (t : Team) (g : Nat) (e : Nat × Nat) : Bool :=
  if e.1 < 192 then t.bad.contains (.vreg g e.1 (e.2 / 2))
  else e.1 ≠ 255 && t.bad.contains (.ureg g ((e.1 - 192) / 2))

/-- Residue register and positions that an instruction reads (08 R257, R260). -/
def resReads (i : Instr) : Option (Nat × Nat) :=
  match i with
  | .lCvtn o => if Checks.ef o then some (o.sc.toNat % 8, Fmt.perContainer o.fmt) else none
  | .lEfmov o => if o.sc.getLsbD 6 then none else some (efReg o, 4)
  | _ => none

/-- Residue register and positions that an instruction writes. -/
def resWrites (i : Instr) : Option (Nat × Nat) :=
  match i with
  | .lCvtn o => if Checks.ef o then some (o.sc.toNat % 8, Fmt.perContainer o.fmt) else none
  | .lEfclr o => some (efReg o, 4)
  | .lEfmov o => if o.sc.getLsbD 6 then some (efReg o, 4) else none
  | _ => none

/-- A word of the residue file: two positions of residue register n of a strand. -/
def resWord (g n st p : Nat) : Ram := .res g (64 * n + 2 * st + p / 2)

/-- A residue that an instruction reads for a strand is uncorrectable. -/
def badResidue (t : Team) (g : Nat) (i : Instr) (st : Nat) : Bool :=
  match resReads i with
  | some (n, k) => (List.range k).any fun p => t.bad.contains (resWord g n st p)
  | none => false

/-- The active strands of a slot whose sources are uncorrectable. -/
def badReads (t : Team) (g : Nat) (x : Group) (i : Instr) (sl : Nat) : BitVec 32 :=
  let act := x.active sl
  (List.range 32).foldl (fun m st =>
    if act.getLsbD st && ((laneReads x act i st).any (t.badReg g) || badResidue t g i st) then m ||| (1 <<< st : BitVec 32)
    else m) 0

/-! ## Writes -/

/-- The registers that an instruction writes when it executes; loads and atomics write theirs when they return. -/
def laneWrites (i : Instr) : List Nat :=
  let run (s : BitVec 8) (n : Nat) : List Nat := (List.range n).map (s.toNat + ·)
  match Checks.vUse i with
  | some (u, o) =>
    (match i with
     | .lDq o => run o.dst (Checks.dqRegs o)
     | .lCvtw o => run o.dst (if Fmt.is64 o.fmt then 2 else 1)
     | .lEfmov o => if o.sc.getLsbD 6 then [] else run o.dst 4
     | .lRds o => run o.dst (if Checks.rds64 o.sc.toNat then 2 else 1)
     | _ => if u.dst = .none then [] else run o.dst (if u.p64 && u.d64 && Fmt.is64 o.fmt then 2 else 1))
  | none =>
    match i with
    | .lMovi o => [o.dst.toNat]
    | .lCall o => [o.link.toNat]
    | .lCtrig o => [o.ra.toNat]
    | _ => []

/-- The words of registers that a write of strands `act` covers: two strands of a vector register, two uniform
registers. -/
def Ram.wholeRegs (w : Ram) (g : Nat) (regs : List Nat) (act : BitVec 32) : Bool :=
  match w with
  | .vreg h r k => h = g && regs.contains r && act.getLsbD (2 * k) && act.getLsbD (2 * k + 1)
  | .ureg h k => h = g && act ≠ 0 && regs.contains (192 + 2 * k) && regs.contains (193 + 2 * k)
  | _ => false

/-- A group's registers written whole are correct again. -/
def healRegs (s : State) (d c g : Nat) (regs : List Nat) (act : BitVec 32) : State :=
  s.updTeam d c fun t => t.heal fun w => w.wholeRegs g regs act

/-- The words of the residue file that an instruction of strands `act` replaces. -/
def Ram.wholeResidues (w : Ram) (g : Nat) (i : Instr) (act : BitVec 32) : Bool :=
  match w, resWrites i with
  | .res h k, some (n, m) => h = g && k / 64 = n && act.getLsbD (k % 64 / 2) && decide (2 * (k % 2) + 2 ≤ m)
  | _, _ => false

/-- The slot has moved on between two states. -/
def slotMoved (a b : Group) (sl : Nat) : Bool :=
  decide ((a.slot sl).block ≠ (b.slot sl).block ∨ (a.slot sl).word ≠ (b.slot sl).word ∨ (a.slot sl).st ≠ (b.slot sl).st)

/-- What follows the instruction of a slot of team `t` and group `x`: the words that it has replaced are correct again. -/
def replacedWords (t : Team) (x : Group) (d c g sl : Nat) (i : Instr) (s : State) : State :=
  if t.bad.isEmpty then s
  else
    match s.group? d c g with
    | some y =>
      if slotMoved x y sl then
        (healRegs s d c g (laneWrites i) (x.active sl)).updTeam d c fun t => t.heal fun w => w.wholeResidues g i (x.active sl)
      else s
    | none => s

end Sys2Proof.Machine
end

