-- ==== Sys2Proof/Machine/MemEvents.lean ====
section
/-! DEFINITION. The events of a core's memory path: waiting instructions released (05 R170, R173; 09 R276), loads that
return (04 R119), queued writes that move and are performed (04 R110, R114), the accesses of home agents (03 R92), and
host requests that stay unanswered (01 R27). An event whose moment has not come passes. -/

namespace Sys2Proof.Machine

open Sys2Proof

/-- An event of the services of a die. -/
def execEvent (m : Nat → State → State) (s : State) : Host.Outcome State Fault Refusal :=
  match s.cur with
  | .service d => .next (m d s)
  | _ => .fault .noAgent

/-- The wait of a slot of a running group whose team is not halted, in a cycle whose pulse reaches the core (12 R375). -/
def waitOf (s : State) (d c g sl : Nat) : Wait :=
  match s.team? d c, s.group? d c g with
  | some t, some x =>
    if t.halted || x.st ≠ .running || !pulsePasses s (s.die d) c then .none else (x.slot sl).wait
  | _, _ => .none

/-! ## Barriers -/

/-- RENDEZVOUS_RELEASE (05 R168, R170): the WAIT returns, an acquire at the widest scope of the phase's arrivals
(04 R133). -/
def execERendezvousRelease (c g sl : Nat) (s : State) : Host.Outcome State Fault Refusal :=
  execEvent (fun d s =>
    match waitOf s d c g sl, s.team? d c with
    | .rendezvous n phase, some t =>
      if waitOver s (t.point n) g phase then completeHeld (acquireAt s d c (t.point n).doneScope) d c g sl else s
    | _, _ => s) s

/-- SPAN_RELEASE (05 R173): the SPANW returns, an acquire at .DIE (04 R134). -/
def execESpanRelease (c g sl : Nat) (s : State) : Host.Outcome State Fault Refusal :=
  execEvent (fun d s =>
    match waitOf s d c g sl with
    | .span n ph => if spanOver s d c n ph then completeHeld (acquireAt s d c 3) d c g sl else s
    | _ => s) s

/-! ## Full/empty loads -/

/-- The strands served by one action on a granule: their registers written and, where they cover a word, correct, the
granule emptied under .CLR. -/
def feTake (d c g sl : Nat) (n : Cnt) (o : MOps) (t : Team) (mine left : List FeStrand) (core granule : Nat) (s : State) :
    State :=
  let c0 := Fmt.container o.szf
  let count := Checks.Cnt.num n
  let bits := mine.foldl (fun m f => m ||| (1 <<< f.strand : BitVec 32)) 0
  let regs := (List.range (Checks.mRun (.lLds n o))).map (o.data.toNat + ·)
  let s1 := healRegs (s.updGroup d c g fun x =>
    let y := mine.foldl (fun y f => loadRegs y f.strand o.data.toNat c0 o.szf count (t.sp.read f.ofs (c0 * count))) x
    ({ y with feServed := y.feServed ||| bits }).updSlot sl fun p => { p with wait := .fe n o left }) d c g regs bits
  if Checks.mPol o = 1 then s1.updTeam d core fun t => t.setFull granule false else s1

/-- Mask of the strands of a list. -/
def feMask (l : List FeStrand) : BitVec 32 := l.foldl (fun m f => m ||| (1 <<< f.strand : BitVec 32)) 0

/-- The team whose scratchpad a core of the die reads at core `k`: none where it is gone. -/
def targetTeam (s : State) (d c k : Nat) : Option Team := if k = c || remotePresent (s.die d) k then s.team? d k else none

/-- The code with which a full/empty access of n bytes would fault where it is served: its core is gone, or its word is
uncorrectable. -/
def feFails (s : State) (d c n : Nat) (f : FeStrand) : Option Nat :=
  match targetTeam s d c f.core with
  | none => some Code.ABSENT
  | some t => if t.badSp f.ofs n then some Code.UE else none

/-- A full/empty load faults: the lowest strand names the code, the mask has every strand that fails, and no access is made
(01 R38, 04 R140): it is given up, with what the group has issued behind it. -/
def feFaults (s : State) (d c g sl n : Nat) (bad : List FeStrand) : State :=
  match bad with
  | [] => s
  | f :: _ =>
    let code := (feFails s d c n f).getD 0
    let s1 := if code = Code.UE then reportUe s d else s
    let no := match s.group? d c g with | some x => (x.slot sl).no | none => 0
    takeLaneFault ((giveUp s1 d c g no).updGroup d c g fun x => { x with heldFrom := some no }) d c g sl
      { code, va := f.ofs, access := accessOf 0 (Bits.log2 n) (if f.core = c then 1 else 2), mask := feMask bad }

/-- FE_GRANULE_SERVE (R276, log 44): every strand of the waiting load that names the granule is served, once the granule is
FULL, no write entry of the range locks covers it, the group's earlier accesses are bound and its earlier writes to it have
reached the bank (04 R110). A strand that can not be served faults the load, as long as none has been served; behind that the
granule of a core that is gone never becomes FULL. -/
def execEFeGranuleServe (c g sl granule : Nat) (s : State) : Host.Outcome State Fault Refusal :=
  execEvent (fun d s =>
    match waitOf s d c g sl, s.team? d c, s.group? d c g with
    | .fe n o left, some own, some x =>
      let m := Fmt.container o.szf * Checks.Cnt.num n
      let here (f : FeStrand) : Bool := f.ofs / 16 = granule
      let mine := left.filter here
      let bad := left.filter fun f => (feFails s d c m f).isSome
      let p := x.slot sl
      (match mine with
       | [] => s
       | f :: _ =>
         if !x.clearTo own.stopReq p.no || !x.loads.all (fun o => decide (p.no < o.no) || o.units.all (·.val.isSome)) then s
         else if !bad.isEmpty && x.feServed &&& x.active sl = 0 then feFaults s d c g sl m bad
         else
         (match targetTeam s d c f.core with
          | none => s
          | some t =>
            if !t.isFull granule || t.lockHit true false f.ofs m || t.badSp f.ofs m || !pulsePasses s (s.die d) f.core ||
               own.inQueue (.group g) p.no (.sp f.core (16 * granule)) 16 then s
            else
              let rest := left.filter (fun f => !here f)
              let s1 := feTake d c g sl n o t mine rest f.core granule s
              if !rest.isEmpty then s1
              else
                let s2 := s1.updGroup d c g fun y => { y with feServed := y.feServed &&& ~~~(feMask left ||| x.active sl) }
                completeHeld (if Checks.mFlag o then acquireAt s2 d c (Checks.mScope o).toNat else s2) d c g sl))
    | _, _, _ => s) s

/-! ## Loads in flight -/

/-- Fields of a load in flight. -/
def loadOps (i : Instr) : MOps :=
  match i with
  | .lLd _ o => o | .lLds _ o => o | .lFeopRdf o => o
  | _ => {}

/-- Registers that it writes. -/
def loadRegsOf (i : Instr) : Nat := Checks.mRun i

def isRdf (i : Instr) : Bool := match i with | .lFeopRdf _ => true | _ => false

def loadCount (i : Instr) : Nat :=
  match i with
  | .lLd n _ => Checks.Cnt.num n | .lLds n _ => Checks.Cnt.num n
  | _ => 1

/-- The load is an acquire at .CLU or wider, and is served at the point of coherence (04 R113). -/
def loadFar (i : Instr) : Bool := !isRdf i && Checks.mFlag (loadOps i) && decide (2 ≤ (Checks.mScope (loadOps i)).toNat)

/-- What serving a unit brings: `locked` is a range lock of the core where it arrives (04 R124). -/
inductive Served where
  | notYet
  | got (v : Nat) (s : State)
  | failed (cause : Nat) (s : State)
  | locked

/-- A unit of scratchpad, read at its bank behind the party's own queued stores, in a cycle whose pulse reaches the bank (12
R375). A write entry that has been taken since the load was checked stops it (04 R124; log 25). -/
def serveSp (s : State) (d c : Nat) (t : Team) (p : Party) (op : LoadOp) (u : LUnit) (core ofs : Nat) : Served :=
  match targetTeam s d c core with
  | none => .failed Cause.REMOTE s
  | some b =>
    if !pulsePasses s (s.die d) core then .notYet
    else if b.lockHit true false ofs u.n then .locked
    else if isRdf op.i then
      if t.inQueue p op.no u.loc 16 then .notYet else .got (if b.isFull (ofs / 16) then 1 else 0) s
    else if loadFar op.i && t.inQueue p op.no u.loc u.n then .notYet
    else if t.unsettled p op.no u.loc u.n then .notYet
    else if b.badSp ofs u.n then .failed Cause.UE (reportUe s d)
    else .got (t.seen p op.no u.loc u.n (b.sp.read ofs u.n)) s

/-- A unit of global memory: from the L1 where its treatment allows and holds the line, else from its point of
coherence, the line then entering the L1 unless it was invalidated meanwhile (03 R80, R82, R83). What came from the point
of coherence leaves no older line of the core that holds it (04 R108). A line is asked for behind what the crossbar has
accepted to any of its bytes (03 R90). A register of a control page is read by itself, and never from a store queue (11 R348,
R351). A write entry that has been taken since the load was checked stops it (04 R124; log 25). -/
def serveGlobal (s : State) (d c : Nat) (t : Team) (p : Party) (op : LoadOp) (u : LUnit) : Served :=
  let seen (v : Nat) (s : State) : Served := .got (if u.loc.isControl then v else t.seen p op.no u.loc u.n v) s
  let home : Served :=
    let r := readAt s d u.loc u.n u.ll
    match r.2 with
    | .ok v => seen v (r.1.updTeam d c fun t => t.evict u.loc)
    | .error k => .failed k r.1
  if t.lockHit false false u.va u.n then .locked
  else if loadFar op.i then if t.inQueue p op.no u.loc u.n || xbarHolds (s.die d) c u.loc u.n then .notYet else home
  else if u.l1 = 2 || u.loc.isControl then if loadHeld s d c t p op.no u.loc u.n then .notYet else home
  else if t.unsettled p op.no u.loc u.n then .notYet
  else
    let at_ (line : Nat) : Nat := Bits.field line (8 * (u.loc.ofs % 128)) (8 * u.n)
    match t.l1Find u.loc with
    | some x => seen (at_ x.data) (s.updTeam d c fun t => t.l1Hit x)
    | none =>
      if loadHeld s d c t p op.no u.loc u.n || xbarHolds (s.die d) c (u.loc.down 128) 128 then .notYet
      else
        let r := readAt s d (u.loc.down 128) 128 u.ll
        match r.2 with
        | .error _ => home
        | .ok v =>
          seen (at_ v)
            (if op.noInstall.contains (u.loc.ofs / 128) then r.1.updTeam d c fun t => t.evict u.loc
             else fillLine r.1 d c u.loc u.va u.l1 v)

def serveUnit (s : State) (d c : Nat) (t : Team) (p : Party) (op : LoadOp) (u : LUnit) : Served :=
  match u.loc with
  | .sp core ofs => serveSp s d c t p op u core ofs
  | _ => serveGlobal s d c t p op u

/-- A strand's returned bytes, or scale, by unit. -/
def LoadOp.bytesOf (op : LoadOp) (st : Nat) : Nat :=
  op.units.foldl (fun acc u =>
    if u.strand = st && u.part < 32 then acc + u.val.getD 0 * 2 ^ (8 * u.part) else acc) 0

def LoadOp.scaleOf (op : LoadOp) (st b : Nat) : Nat :=
  op.units.foldl (fun acc u => if u.strand = st && u.part = 32 + b then u.val.getD 0 else acc) 0

/-- One destination register of a decoding strand (02 R62). -/
def decodedReg (op : LoadOp) (z : BitVec 6) (st : Nat) (x : Decoding) (r : Nat) : Nat :=
  let k := perReg z
  packElems (if k = 1 then 32 else 16) k fun p =>
    let j := r * k + p
    let i := x.i0 + j
    let w := Fmt.elemBits x.fmt
    let code := Bits.field (op.bytesOf st) (w * (j + x.i0 % perByte x.fmt)) w
    decodeCode z x.fmt code (op.scaleOf st (i / Fmt.block x.fmt - x.i0 / Fmt.block x.fmt))

/-- The registers of a load whose units have all returned (R272, 02 R62, 09 R277). -/
def LoadOp.writeRegs (op : LoadOp) (x : Group) : Group :=
  let o := loadOps op.i
  let data := o.data.toNat
  (List.range 32).foldl (fun y st =>
    if !op.mask.getLsbD st then y
    else if isRdf op.i then y.setV data st (BitVec.ofNat 32 (op.bytesOf st))
    else
      match op.decs.find? st with
      | some x =>
        (List.range (loadCount op.i)).foldl (fun y r => y.setV (data + r) st (BitVec.ofNat 32 (decodedReg op o.szf st x r))) y
      | none => loadRegs y st data (Fmt.container o.szf) o.szf (loadCount op.i) (op.bytesOf st)) x

/-- ACCESS of a unit that failed at its service. -/
def unitAccess (c : Nat) (op : LoadOp) (u : LUnit) : Nat :=
  let o := loadOps op.i
  let lg := Bits.log2 (if isRdf op.i then 16 else Fmt.container o.szf * loadCount op.i)
  match u.loc with
  | .sp core _ => accessOf (if isRdf op.i then 5 else 0) lg (if core = c then 1 else 2)
  | _ => if 32 ≤ u.part then accessOf 6 (Bits.log2 u.n) 0 else accessOf 0 lg 0

/-- The oldest load of a group replaced, or taken out. -/
def setLoad (s : State) (d c g : Nat) (op : Option LoadOp) : State :=
  s.updGroup d c g fun x =>
    { x with loads := match op with | some y => y :: x.loads.drop 1 | none => x.loads.drop 1 }

/-- The units of a load that are still to be served. The next one is the `k`-th of them, in rotation: the spec leaves their order
to the machine (04 R120, 02 R60). -/
def LoadOp.left (op : LoadOp) : List LUnit := op.units.filter (·.val.isNone)
def LoadOp.next (op : LoadOp) (k : Nat) : Option LUnit := op.left[k % op.left.length]?

/-- A unit that the service of another answers: the same place, by the same way, and width; on a device page and for a register
a strand's access is its own (01 Table 1.10, 11 R348). -/
def LUnit.sameAccess (u w : LUnit) : Bool :=
  if u.lone then w.strand = u.strand && w.part = u.part else w.loc = u.loc && w.n = u.n

/-- A unit that returns the same write as another: the same place and width, whatever import names it (04 R106, R121). -/
def LUnit.servedWith (u w : LUnit) : Bool :=
  u.sameAccess w || (!u.lone && !w.lone && u.loc.meets 1 w.loc 1 && w.n = u.n)

/-- The units of the list, which name one place by other ways, asked for behind the one whose service has brought `v`: each is
checked, and answers, by its own way (01 R38). -/
def serveToo (d c : Nat) (t : Team) (p : Party) (op : LoadOp) (v : Nat) : List LUnit → LUnit → State → LUnit × Served
  | [], u, s => (u, .got v s)
  | w :: r, u, s =>
    match serveUnit s d c t p op w with
    | .got _ s1 => serveToo d c t p op v r u s1
    | x => (w, x)

/-- The next unit of a load served, with every unit that returns the same write. -/
def serveNext (s : State) (d c : Nat) (t : Team) (p : Party) (op : LoadOp) (u : LUnit) : LUnit × Served :=
  match serveUnit s d c t p op u with
  | .got v s1 => serveToo d c t p op v (op.left.filter fun w => u.servedWith w && !u.sameAccess w) u s1
  | x => (u, x)

/-- A unit of a load that fails: its cause, and whether it is a range lock of the core where it arrives that stops it. -/
abbrev UnitFail := LUnit × Nat × Bool

/-- Whether a unit's own service fails now; nothing else of it is performed. -/
def unitFails (d c : Nat) (t : Team) (p : Party) (op : LoadOp) (s : State) (v : LUnit) : State × Option (Nat × Bool) :=
  match serveUnit s d c t p op v with
  | .failed k s1 => (s1, some (k, false))
  | .locked => (s, some (0, true))
  | .got _ s1 => ({ s with freeCtr := s1.freeCtr }, none)
  | .notYet => (s, none)

/-- The units of a load that fail with unit `u`, whose failure is `e`: those of its access, and the others that `ask` says fail
now, in ascending order of the strands (01 R38). -/
def failUnits (ask : State → LUnit → State × Option (Nat × Bool)) (op : LoadOp) (u : LUnit) (e : Nat × Bool) (s : State) :
    State × List UnitFail :=
  op.units.foldl (fun a v =>
    if u.sameAccess v then (a.1, a.2 ++ [(v, e)])
    else if v.val.isSome then a
    else
      let r := ask a.1 v
      (r.1, match r.2 with | some e => a.2 ++ [(v, e)] | none => a.2)) (s, [])

/-- The fault of a load whose units of the list fail: the first one, of the lowest failing strand, names it, and the mask has
every strand that fails (01 R38). -/
def unitFault (c : Nat) (op : LoadOp) (l : List UnitFail) : FaultInfo :=
  let mask := l.foldl (fun m v => m ||| (1 <<< v.1.strand : BitVec 32)) 0
  match l with
  | [] => { code := Code.XLATE }
  | (u, cause, locked) :: _ =>
    let acc := unitAccess c op u
    if locked then { lockFault acc u.va with mask := mask }
    else
      match u.loc with
      | .sp _ _ => { code := if cause = Cause.UE then Code.UE else Code.ABSENT, access := acc, va := u.va, mask }
      | _ => laneCause cause acc u.va mask

/-- A load ended without a value: its slot is again before it, and faults there unless the group has already stopped,
where it re-executes on resumption. It is given up with what the group has issued behind it, and the writes queued behind it stay
(04 R140). -/
def loadFails (s : State) (d c g : Nat) (op : LoadOp) (l : List UnitFail) : State :=
  let s1 := giveUp s d c g op.no
  match s.group? d c g with
  | some x =>
    if x.st = .running then
      takeLaneFault (s1.updGroup d c g fun x => { x with heldFrom := some op.no }) d c g op.slot (unitFault c op l)
    else s1
  | none => s1

/-- The registers of a bound load that its return writes. -/
def returnLoad (s : State) (d c g : Nat) (op : LoadOp) : State :=
  let regs := (List.range (loadRegsOf op.i)).map ((loadOps op.i).data.toNat + ·)
  healRegs ((setLoad s d c g none).updGroup d c g op.writeRegs) d c g regs op.mask

/-- A load whose last unit has its value is bound: an acquire has been performed, and the load's slot goes on (05 R149). The load
of a group that is stepped returns with it, before the group stops (13 R395). -/
def bindLoad (s : State) (d c g : Nat) (op : LoadOp) : State :=
  let s1 := setLoad s d c g (some op)
  let s2 := if loadFar op.i then s1.updTeam d c Team.dropL1 else s1
  let stepped := match s.group? d c g with | some x => x.step && x.stepping = some op.slot | none => false
  completeHeld (if stepped then returnLoad s2 d c g op else s2) d c g op.slot

/-- LOAD_RETURN (04 R110, R119, 05 R148): a single-copy unit of the group's oldest load is served, for every strand that
reads it (on a device page, for its own strand), once the group's earlier accesses are bound; which one comes next, of the elements and scales of every strand, the turn
picks (`State.pick`, log 1), since the rules give no order of them. With the last one the load is
bound. A bound load returns: it writes its registers. -/
def execELoadReturn (c g : Nat) (s : State) : Host.Outcome State Fault Refusal :=
  execEvent (fun d s =>
    match s.team? d c, s.group? d c g with
    | some t, some x =>
      (match x.loads with
       | [] => s
       | op :: _ =>
         if !pulsePasses s (s.die d) c then s
         else
           match op.next s.pick with
           | none => returnLoad s d c g op
           | some u =>
             if !x.clearTo t.stopReq op.no then s
             else
               match serveNext s d c t (.group g) op u with
               | (_, .notYet) => s
               | (v, .failed k s1) =>
                 let r := failUnits (unitFails d c t (.group g) op) op v (k, false) s1
                 loadFails r.1 d c g op r.2
               | (v, .locked) =>
                 let r := failUnits (unitFails d c t (.group g) op) op v (0, true) s
                 loadFails r.1 d c g op r.2
               | (_, .got v s1) =>
                 let op1 := { op with units := op.units.map fun w => if u.servedWith w && w.val.isNone then { w with val := some v } else w }
                 if op1.left.isEmpty then bindLoad s1 d c g op1 else setLoad s1 d c g (some op1))
    | _, _ => s) s

/-! ## Queued writes -/

/-- The k-th write of S taken out. -/
def dropTs (s : State) (d c k : Nat) : State := s.updTeam d c fun t => { t with ts := t.ts.eraseIdx k }

/-- An arrival of RARRIVE reaches its target (R291): it is counted there and the instruction completes; a point without
a count, or a target that is gone, faults in the requester. -/
def performArrive (s : State) (d c target n : Nat) (w : Write) : State :=
  match w.party with
  | .composer => s
  | .group g =>
    let sl := w.strand
    let failed (code : Nat) : State :=
      let s1 := s.updGroup d c g fun x => x.updSlot sl fun p => { p with wait := .none }
      match s.group? d c g with
      | some x =>
        if x.st = .running then
          takeLaneFault s1 d c g sl { code, access := if code = Code.ABSENT then accessOf 0 0 2 else 0 }
        else s1
      | none => s1
    match (if remotePresent (s.die d) target then s.team? d target else none) with
    | none => failed Code.ABSENT
    | some t =>
      if (t.point n).expected = 0 then failed Code.BADTARGET
      else
        completeHeld (s.updTeam d target fun t => t.arriveAt n (scopeBetween (s.die d) c target) s.pkg.mclk) d c g sl

/-- LTRIG is performed: the launch's record says so once every team has triggered or retired (11 R359). -/
def performLtrig (s : State) (d c : Nat) : State :=
  match s.team? d c with
  | none => s
  | some t =>
    (s.updTeam d c fun t => { t with ltrigged := true }).updDie d fun x =>
      let y := x.updLaunch t.key fun l =>
        { l with teams := l.teams.map fun e => if e.core = c then { e with trig := true } else e }
      { y with records := y.records.map fun r =>
          if r.key = t.key && (match y.launch? t.key with | some l => l.teams.all (·.trig) | none => false) then
            { r with trig := true } else r }

/-- A write of S performed where it is aimed (R114, Table 4.3). One to the scratchpad of a core whose team has retired since
it was checked has nowhere to go (log 44). -/
def performWrite (s : State) (d c : Nat) (w : Write) : State :=
  match w.kind, w.loc with
  | .fence, _ => s
  | .span n ph, _ => s.updDie d fun x => { x with cells := Bits.updAt x.cells n fun k => k.arrive x s.pkg.mclk c ph }
  | .arrive n, .sp k _ => performArrive s d c k n w
  | .ltrig, _ => performLtrig s d c
  | kd, .sp k ofs => s.updTeam d k fun t => t.spPerform ofs kd
  | .store n v, l =>
    let r := writeAt s d l n v w.treat
    (match r.2 with | some cause => recordStoreErr r.1 d c w.party cause | none => r.1)
  | _, _ => s

/-- The k-th write of S of a core may be performed: it may go, and the crossbar has accepted it, or takes it in this cycle
(12 R375) with no request of another core of the cluster to its bytes under way before it (03 R90); the pulse reaches the bank
that it goes to. No range-lock entry taken
since its check covers it, since engine operations wait for it (`takesLocks`). -/
def mayLand (s : State) (d c : Nat) (t : Team) (k : Nat) : Bool :=
  mayPerform (s.die d) c t k &&
  (match t.ts[k]? with
   | none => false
   | some w =>
     (w.accepted || (pulsePasses s (s.die d) c && !xbarHolds (s.die d) c w.loc w.kind.bytes)) &&
     (match w.loc with | .sp k _ => pulsePasses s (s.die d) k | _ => true))

/-- The k-th write of S accepted by the crossbar of its cluster (03 R90). -/
def acceptWrite (s : State) (d c k : Nat) : State :=
  match s.team? d c with
  | none => s
  | some t =>
    if pulsePasses s (s.die d) c && mayAccept (s.die d) t c k then
      s.updTeam d c fun t => { t with ts := Bits.updAt t.ts k fun w => { w with accepted := true } }
    else s

/-- STORE_PERFORMED: the oldest write of a party enters S in a cycle whose pulse reaches the core (12 R375), the crossbar accepts the k-th write of S, or that write is
performed. -/
def execEStorePerformed (c : Nat) (st : StoreStage) (s : State) : Host.Outcome State Fault Refusal :=
  execEvent (fun d s =>
    match st with
    | .enterS p => if pulsePasses s (s.die d) c then enterS s d c p else s
    | .accept k => acceptWrite s d c k
    | .perform k =>
      match s.team? d c with
      | none => s
      | some t =>
        match t.ts[k]? with
        | none => s
        | some w =>
          let atHome := match w.kind, w.loc with
            | .atomic _ _ _ _ _, .sp _ _ => false
            | .atomic _ _ _ _ _, _ => true | .red _ _ _ _, _ => true | .cu _ _ _ _, _ => true
            | _, _ => false
          if atHome || !mayLand s d c t k then s else performWrite (dropTs s d c k) d c w) s

/-! ## Home agents -/

/-- A write of a group is an access of its ATOM of issue number `no`. -/
def atomWrite (g no : Nat) (w : Write) : Bool :=
  w.party = .group g && w.no = no && (match w.kind with | .atomic _ _ _ _ _ => true | _ => false)

/-- The ATOM of issue number `no` of a group, in the slot that waits for it or as the one that its homes have accepted. -/
def atomOf (x : Group) (no : Nat) : Option AtomOp :=
  let waiting (sl : Nat) : Option AtomOp :=
    match (x.slot sl).wait with
    | .atom o => if (x.slot sl).no = no then some { slot := sl, o, mask := x.active sl, no } else none
    | _ => none
  ((waiting 0).or (waiting 1)).or (x.atom.filter (·.no = no))

/-- The slot of an ATOM whose last access has returned: it completes, or has gone on before. -/
def atomEnds (s : State) (d c g : Nat) (a : AtomOp) : State :=
  match s.group? d c g with
  | none => s
  | some x =>
    if x.atom = some a then s.updGroup d c g fun x => { x with atom := none } else completeHeld s d c g a.slot

/-- The old value of a strand's ATOM returns; with the last one the instruction is complete, an acquire if it says so. -/
def atomReturns (s : State) (d c g st no : Nat) (old : Nat) : State :=
  match (s.group? d c g).bind (atomOf · no) with
  | none => s
  | some a =>
    let data := a.o.data.toNat
    let s1 := s.updGroup d c g fun x =>
      let y := x.setV data st (BitVec.ofNat 32 old)
      if Fmt.is64 a.o.szf then y.setV (data + 1) st (BitVec.ofNat 32 (old / 2 ^ 32)) else y
    match s1.team? d c with
    | none => s1
    | some t =>
      if (t.sq ++ t.ts).any (atomWrite g no) then s1
      else
        let s2 := healRegs s1 d c g (if Fmt.is64 a.o.szf then [data, data + 1] else [data]) a.mask
        atomEnds (if atomAcq a.o then acquireAt s2 d c (Checks.mScope a.o).toNat else s2) d c g a

/-- An ATOM that can not be served: its accesses, none of which has been performed, are withdrawn with what the group has issued
behind it, and it faults with the cause and address of its lowest failing strand (01 R38, 04 R140). -/
def atomFails (s : State) (d c g : Nat) (w : Write) (cause : Nat) (mask : BitVec 32) : State :=
  match s.group? d c g with
  | none => s
  | some x =>
    match atomOf x w.no with
    | none => s
    | some a =>
      let s1 := giveUp s d c g w.no
      if x.st = .running then
        takeLaneFault (s1.updGroup d c g fun x => { x with heldFrom := some w.no }) d c g a.slot
          (laneCause cause (accessOf 2 (Bits.log2 (elemBytes a.o.szf)) 0) w.va mask)
      else s1

/-- What a check of an ATOM's accesses at their homes finds. -/
structure AtomCheck where
  s    : State
  fail : Option (Write × Nat) := none     -- the lowest strand that fails, and its cause
  mask : BitVec 32 := 0                   -- the strands that fail
  ok   : List Write := []                 -- the accesses with their sites
  deriving DecidableEq, Repr

/-- One access of an ATOM asked for at its home: the site that accepts it, or the cause of its refusal. -/
def atomAsk (d : Nat) (a : AtomCheck) (w : Write) : AtomCheck :=
  match w.kind with
  | .atomic op n fmt x y =>
    let r := siteOf a.s d w.loc n .atomic (rmwOp op fmt x y)
    let refuse (s : State) (k : Nat) : AtomCheck :=
      { a with s := s, fail := a.fail.or (some (w, k)), mask := a.mask ||| (1 <<< w.strand : BitVec 32) }
    (match r.2 with
     | .error k => refuse r.1 k
     | .ok site =>
       let q := acceptSite r.1 site
       (match q.2 with
        | some k => refuse q.1 k
        | none =>
          (match site with
           | .at e (.hbm pa) _ =>
             if (q.1.die e).isBad pa n then refuse (reportUe q.1 e) Cause.UE
             else { a with s := q.1, ok := a.ok ++ [{ w with site := some site }] }
           | _ => { a with s := q.1, ok := a.ok ++ [{ w with site := some site }] })))
  | _ => a

/-- An access that its home in the die's own memory has accepted: nothing can stop it any longer. -/
def homeSite (d : Nat) : Site → Bool
  | .at e (.hbm _) _ => e = d
  | _ => false

/-- The slot of an ATOM that nothing can stop any longer goes on (05 R149); the slot of a group that is stepped waits for the ATOM
(13 R395). -/
def atomGoesOn (d c g no : Nat) (sure : Bool) (s : State) : State :=
  match s.group? d c g with
  | some x =>
    (match atomOf x no with
     | some a =>
       if sure && (x.slot a.slot).no = no && !(x.step && x.stepping.isSome) then
         completeHeld (s.updGroup d c g fun x => { x with atom := some a }) d c g a.slot
       else s
     | none => s)
  | none => s

/-- A slot's ATOM, about to have its first access performed, is asked for at every home: either each accepts its access, and
will serve it whatever happens to the export in the meantime (01 R24), or none is performed (01 R38). -/
def atomAccept (s : State) (d c g : Nat) (w : Write) : Except State State :=
  match s.team? d c with
  | some t =>
    let r := ((t.ts ++ t.sq).filter (atomWrite g w.no)).foldl (atomAsk d) ({ s := s } : AtomCheck)
    (match r.fail with
     | some (v, k) => .error (atomFails r.s d c g v k r.mask)
     | none =>
       let put (v : Write) : Write := if atomWrite g w.no v then (r.ok.find? (·.strand = v.strand)).getD v else v
       .ok (atomGoesOn d c g w.no (r.ok.all fun v => v.site.any (homeSite d))
         (r.s.updTeam d c fun t => { t with sq := t.sq.map put, ts := t.ts.map put })))
  | none => .ok s

/-- The old value of the composer's AMO returns (07 R212). -/
def amoReturns (s : State) (d c : Nat) (n old : Nat) : State :=
  match s.team? d c with
  | none => s
  | some t =>
    match t.comp.wait with
    | .amo r inval =>
      let s1 := s.updComp d c fun k => { k.setReg r (BitVec.ofNat 64 (old % 2 ^ (8 * n))) with wait := .none }
      let s2 := if inval then s1.updTeam d c Team.dropL1 else s1
      compStepped (setPc s2 d c (t.comp.pc + 4)) d c
    | _ => s

/-- The composer's AMO faults at its service. -/
def amoFails (s : State) (d c n va cause : Nat) : State :=
  match compCause (s.updComp d c fun k => { k with wait := .none }) cause (accessOf 2 (Bits.log2 n) 0) va with
  | .fault f s1 => takeCompFault s1 d c f
  | _ => s

/-- The k-th access of S, an atomic that its home has accepted, performed. -/
def performAtom (s : State) (d c k : Nat) (w : Write) (g op n : Nat) (fmt : BitVec 6) (x y : Nat) : State :=
  match w.site with
  | none => s
  | some site =>
    let r := rmwSite (dropTs s d c k) op fmt n x y w.treat site
    match r.2 with
    | .ok old => atomReturns r.1 d c g w.strand w.no old
    | .error e => atomFails r.1 d c g w e (1 <<< w.strand)

/-- HOME_AGENT_ACCESS (03 R92 to R94, 09 R278 to R281): the k-th access of S, an atomic, reduction or contribution, is
performed by its home agent. -/
def execEHomeAgentAccess (c k : Nat) (s : State) : Host.Outcome State Fault Refusal :=
  execEvent (fun d s =>
    match s.team? d c with
    | none => s
    | some t =>
      match t.ts[k]? with
      | none => s
      | some w =>
        if !mayLand s d c t k then s
        else
          let s0 := dropTs s d c k
          match w.kind, w.party with
          | .atomic op n fmt x y, .composer =>
            let r := rmwAt s0 d w.loc op fmt n x y w.treat
            (match r.2 with
             | .ok old => amoReturns r.1 d c n old
             | .error e => amoFails r.1 d c n w.va e)
          | .atomic op n fmt x y, .group g =>
            if w.site.isSome then performAtom s d c k w g op n fmt x y
            else
              (match atomAccept s d c g w with
               | .error s1 => s1
               | .ok s1 =>
                 match (s1.team? d c).bind fun u => u.ts[k]? with
                 | some v => performAtom s1 d c k v g op n fmt x y
                 | none => s1)
          | .red op n fmt x, p =>
            let r := rmwAt s0 d w.loc op fmt n x 0 w.treat
            (match r.2 with | .ok _ => r.1 | .error e => recordStoreErr r.1 d c p e)
          | .cu op _ fmt x, p =>
            let r := contributeAt s0 d c w.loc op fmt x w.treat (some (t.key, p))
            (match r.2 with | none => r.1 | some e => recordStoreErr r.1 d c p e)
          | _, _ => s) s

/-! ## The host -/

/-- A location in the host aperture. -/
def Loc.isHost : Loc → Bool
  | .host _ => true
  | _ => false

/-- APERTURE_REQUEST_UNANSWERED (01 R27): the party's oldest read of host memory is uncorrectable data, or its oldest
write a failed store, of cause LINKDOWN. -/
def execEApertureRequestUnanswered (c : Nat) (p : Party) (s : State) : Host.Outcome State Fault Refusal :=
  execEvent (fun d s =>
    match s.team? d c with
    | none => s
    | some t =>
      let write (s : State) : State :=
        match t.ts.findIdx? (fun w => w.party = p && w.loc.isHost) with
        | some k => recordStoreErr (dropTs s d c k) d c p Cause.LINKDOWN
        | none => s
      match p with
      | .composer => write s
      | .group g =>
        match (t.groups[g]?).bind (·.loads.head?) with
        | some op =>
          (match op.left.find? (·.loc.isHost) with
           | some u =>
             let r := failUnits (unitFails d c t p op) op u (Cause.UE, false) (reportUe s d)
             loadFails r.1 d c g op r.2
           | none => write s)
        | none => write s) s

end Sys2Proof.Machine
end

