-- ==== Sys2Proof/Machine/Power.lean ====
section
/-! DEFINITION. Energy tokens and the ramp governor: the die pool, permit refills, intervals and installments of the
die power controller with Vesper's ballast, the package arbiter's bells and grants, and power intents (12 R368 to
R379). -/

namespace Sys2Proof.Machine

open Sys2Proof

/-! ## Fields -/

namespace Pkg

def fsFloor (p : Pkg) : Nat := Bits.field p.pwr.toNat 32 12
def cdcap (p : Pkg) : Nat := Bits.field p.pwr.toNat 0 12
def slewUp (p : Pkg) : Nat := Bits.field p.slewInEffect.toNat 0 16
def slewDn (p : Pkg) : Nat := Bits.field p.slewInEffect.toNat 32 16
def intentJob (p : Pkg) : Word32 := BitVec.ofNat 32 (p.intentCfg.toNat / 2 ^ 32)
def intentEn (p : Pkg) : Bool := p.intentCfg.getLsbD 31
def intentCap (p : Pkg) : Nat := Bits.field p.intentCfg.toNat 16 12
def intentMin (p : Pkg) : Nat := Bits.field p.intentCfg.toNat 0 12

end Pkg

def watt : Nat := 1000000

def Die.dpc (x : Die) (lo n : Nat) : Nat := Bits.field x.dpcCfg.toNat lo n
def Die.vesperCtl (x : Die) (lo n : Nat) : Nat := Bits.field x.vesper.toNat lo n

/-- The die takes grants: present and enabled (R372). -/
def Die.powered (x : Die) : Bool := x.present && x.enabled

def State.poweredDies (s : State) : Nat := (s.dies.filter Die.powered).length

def State.updPower (s : State) (d : Nat) (f : Power → Power) : State := s.updDie d fun x => { x with power := f x.power }

/-- Tokens drawn by the die (R371, R372). -/
def Power.draw (p : Power) (n : Nat) : Power := { p with drawn := p.drawn + n, demand := p.demand + n }

/-! ## Intents (R378) -/

/-- The current slot's intent is admitted. -/
def State.admitted (s : State) : Bool := s.pkg.intents.admitting && s.pkg.intents.admitSlot = s.tick / 10000

/-- U', the up allowance of a die in mW per µs. -/
def upAllowance (s : State) (d : Nat) : Nat :=
  let u := (s.die d).power.up
  if s.pkg.intentEn && !s.admitted then min u (s.pkg.intentMin * 1000 / (10 * max 1 s.poweredDies)) else u

/-- The die's draw has reached its allowance: at the package's rise bound an intent is posted and DEFER set on every
die (R378). -/
def drawReached (s : State) (d : Nat) : State :=
  let p := (s.die d).power
  if !s.pkg.intentEn || p.defer || s.admitted || s.pkg.intents.own.isSome ||
     p.allow ≠ p.rate + upAllowance s d * 1000 then s
  else
    let rate := (s.dies.foldl (fun n x => n + x.power.rate) 0) / watt
    let dw := min (s.pkg.slewUp * 10 / 1000) (s.pkg.cdcap - rate)
    let slot := (s.tick + 20000 + 9999) / 10000 * 10000
    let m : IntentMsg := { job := s.pkg.intentJob, dw, slot, ktick := s.tick, kpkg := s.pkg.pkgNo }
    let k := { s.pkg.intents with own := some m, pend := true, next := slot / 10000, defers := 0 }
    let dies := s.dies.map fun x => { x with power := { x.power with defer := true } }
    postIntent { s with dies := dies, pkg := { s.pkg with intents := k } } m

/-! ## The die pool (R371, R374) -/

/-- Unspent tokens of the ballast installment under way return to the pool as architected work needs them; an
installment is spent evenly over its tenth. -/
def reclaim (now : Nat) (p : Power) (need : Nat) : Power :=
  let spare := p.ballast * (100 - now % 100) / 100
  let n := min spare (need - p.pool)
  { p with pool := p.pool + n, ballast := p.ballast - n, drawn := p.drawn - n, demand := p.demand - n }

/-- A die engine's unit of a price: charged to the pool of its die and to its launch on die `home`, then run; else it waits
(R369, R371, 11 R363). -/
def poolUnitFor (s : State) (d home price unit : Nat) (key : Option LKey) (run : State → State) : State :=
  let spent := match key.bind (s.die home).launch? with | some l => l.spent | none => false
  let p := reclaim s.tick (s.die d).power price
  if spent then s
  else if p.pool < price then drawReached (noteWait s d unit price) d
  else
    let s1 := (noWait s d unit).updPower d fun _ => { p with pool := p.pool - price, drawn := p.drawn + price, demand := p.demand + price, waited := p.waited.erase unit }
    let s2 := match key with
      | some k => s1.updDie home fun x => x.updLaunch k fun l => { l with energy := l.energy + price }
      | none => s1
    run s2

/-- A unit of a die engine that counts for a launch of its own die. -/
def poolUnit (s : State) (d price unit : Nat) (key : Option LKey) (run : State → State) : State :=
  poolUnitFor s d d price unit key run

/-! ## Core buckets and permits (R370, R371) -/

/-- The tokens of a core's bucket go back to the die pool (R371). -/
def returnBucket (s : State) (d c : Nat) : State :=
  match s.team? d c with
  | none => s
  | some t =>
    (s.updPower d fun p => { p with pool := p.pool + t.permits.bucket }).updTeam d c fun t =>
      { t with permits := { t.permits with bucket := 0, counted := false } }

def classOf (k : Nat) : PClass := if k % 4 = 0 then .matrix else if k % 4 = 1 then .vector else if k % 4 = 2 then .sfu else .memory

/-- One class refilled: the permits, the tokens moved so far, and whether the bucket cut a refill short. -/
def refillClass (x : Die) (acc : Permits × Nat × Bool) (k : Nat) : Permits × Nat × Bool :=
  let c := classOf k
  let p := acc.1
  let room : Int := (x.permitCap.getD c.idx 0 : Int) - p.get c
  let want := min (x.permitRate.getD c.idx 0) (if room < 0 then 0 else room.toNat)
  let add := min want p.bucket
  ({ (p.put c (p.get c + add)) with bucket := p.bucket - add }, acc.2.1 + add, acc.2.2 || decide (add < want))

/-- The refill of one core cycle. -/
def refillAll (x : Die) (p : Permits) : Permits × Nat × Bool :=
  let r := [0, 1, 2, 3].foldl (fun acc j => refillClass x acc (p.first + j)) (p, 0, false)
  ({ r.1 with first := (p.first + 1) % 4 }, r.2)

/-- The refill of a core cycle, at most once in a cycle of the master clock whose pulse passes: it comes before any issue
of the cycle (R370). -/
def coreCycle (s : State) (d c : Nat) : State :=
  match s.team? d c with
  | none => s
  | some t =>
    let x := s.die d
    if t.stopped || t.permits.last = s.pkg.mclk + 1 || !pulsePasses s x c then s
    else
      let r := refillAll x t.permits
      let s1 := (s.updTeam d c fun t => { t with permits := { r.1 with last := s.pkg.mclk + 1 } }).updPower d fun p => p.draw r.2.1
      if r.2.2 then drawReached s1 d else s1

/-- PERMIT_REFILL. -/
def execEPermitRefill (c : Nat) (s : State) : Host.Outcome State Fault Refusal := execEvent (fun d s => coreCycle s d c) s

/-! ## Ballast (R374) -/

/-- A queue of the die holds a committed LAUNCH packet: its images and work list can be prefetched. The ring is looked at
without an effect (R374). -/
def launchCommitted (s : State) (d : Nat) : Bool :=
  (s.die d).queues.any fun q => q.2.committed.any fun n =>
    let va := q.2.qbase + 64 * (n.1 % q.2.size)
    match (walk (s.die d) va).1 with
    | .ok e => (match (readPlain s d (e.loc va) 1 2).2 with | .ok v => v = 1 | .error _ => false)
    | .error _ => false

/-- A lane of a logical core that is present hosts no group of a resident team: laneOf sends the first 80 groups of a team
to its 80 lanes (05 R145). -/
def laneFree (x : Die) : Bool :=
  (List.range 256).any fun c =>
    Bits.bit (x.l2pt.getD (c / 4) 0).toNat (16 * (c % 4) + 15) &&
    (match x.teams.find? c with | some t => decide (t.ngroups < 80) | none => true)

/-- Tokens that the kinds take of a shortfall, in their order. A kind that is disabled, has nothing to do, or has work of
price 0 (entries 20 and 21) takes none. -/
def ballastOf (x : Die) (pref : Bool) (short : Nat) : Nat :=
  let kind (en : Bool) (w left : Nat) : Nat := if en then min left (w * 100000) else 0
  let a := kind (x.vesperCtl 0 1 = 1 && pref) (x.vesperCtl 12 12) short
  let b := kind (x.vesperCtl 1 1 = 1 && x.priceOf 20 ≠ 0) (x.vesperCtl 36 12) (short - a)
  let c := kind (x.vesperCtl 2 1 = 1 && x.priceOf 21 ≠ 0 && laneFree x) (x.vesperCtl 24 12) (short - a - b)
  a + b + c

/-- Vesper's comparison at the end of tenth j: an installment for the whole shortfall, paid from the pool. `pref` says
whether there is something to prefetch. -/
def vesper (x : Die) (pref : Bool) (j : Nat) : Die :=
  let p := x.power
  let n := ballastOf x pref (min (p.ballastFloor * j / 10 - p.drawn) p.pool)
  { x with power := { (p.draw n) with pool := p.pool - n, ballast := n } }

/-! ## Charge and pulse patterns (R375 to R377) -/

def passes (p : BitVec 16) : Nat := ((List.range 16).filter fun k => p.getLsbD k).length

/-- LOWPAT; 0 is read as 0x0001. -/
def Die.lowPat (x : Die) : BitVec 16 := if x.dpc 32 16 = 0 then 1 else BitVec.ofNat 16 (x.dpc 32 16)

/-- PHASE_SPACE with SPACE at least LOWSPACE. -/
def Die.lowSpace (x : Die) : Word64 :=
  let v := x.spaceBase.toNat
  BitVec.ofNat 64 (Bits.setField v 0 10 (max (Bits.field v 0 10) (x.dpc 22 10)))

/-- Patterns to take effect at the next frame. -/
def Die.setPats (x : Die) (f : Nat → BitVec 16) : Die :=
  { x with swpNext := (List.range 66).foldl (fun m k => m.insert k (f k)) [] }

/-- LOWPAT and LOWSPACE applied, to the patterns and the spacing that firmware had written when LOWCHG was set. -/
def Die.applyLow (x : Die) : Die :=
  { (x.setPats fun k => let p := x.swpBase.getD k 0xFFFF; if passes x.lowPat < passes p then x.lowPat else p) with
    phaseSpace := x.lowSpace }

/-- LOWCHG examined at a boundary, on the charge just set (Table 12.6, R377). -/
def Die.examineCharge (x : Die) : Die :=
  let soc := Bits.field x.chg.toNat 0 16
  let low := x.dpc 56 8 * 256
  let high := (x.dpc 56 8 + x.dpc 48 8) * 256
  if !x.power.lowchg && decide (soc < low) then
    { ({ x with swpBase := x.swpFw, spaceBase := x.phaseSpaceFw } : Die).applyLow with power := { x.power with lowchg := true } }
  else if x.power.lowchg && decide (high ≤ soc) then
    { (x.setPats fun k => x.swpFw.getD k 0xFFFF) with
      phaseSpace := x.phaseSpaceFw, power := { x.power with lowchg := false } }
  else x

/-- CHG from the stored energy, a free value up to E_FULL (R376). -/
def chgOf (e : Nat) : Word64 :=
  let v := e % 393217
  BitVec.ofNat 64 (v * 65536 + min 0xFFFF (v / 6))

/-! ## Intervals and installments (R371) -/

/-- The quantities of a new interval. -/
def startInterval (s : State) (d : Nat) (x : Die) : Die :=
  let p0 := x.power
  let p := match p0.pending with
    | some (g, u, dn) => { p0 with grant := g, up := u, down := dn, pending := none }
    | none => p0
  let defer := p.defer && !s.admitted
  let r := p.drawn
  let g := if p.floor then s.pkg.fsFloor else p.grant
  let up := upAllowance (s.updPower d fun _ => p) d
  let a0 := min (max (g * watt) (r - p.down * 1000)) (r + up * 1000)
  let a := if defer then min a0 r else a0
  let n := (x.teams.filter fun t => !t.2.stopped).length
  let c := if n = 0 then 0 else min (x.dpc 0 12 * 1000) ((a - min a (x.dpc 12 10 * watt)) / n)
  { x with
    power := { p with
      defer := defer, slewmiss := if p.interval ≠ 0 && decide (r < p.ballastFloor) then min 0xFFFF (p.slewmiss + 1) else p.slewmiss
      allow := a, ballastFloor := r - p.down * 1000, rate := r, drawn := 0, pool := a - n * c, share := c, ballast := 0
      interval := s.tick / 1000 + 1 }
    teams := x.teams.map fun t => (t.1, { t.2 with permits := { t.2.permits with bucket := 0, counted := !t.2.stopped } }) }

/-- At each 1 µs boundary the last tenth's ballast is paid, then the charge and the flags are examined and the new interval's
quantities computed. -/
def dieInterval (d : Nat) (s : State) : State :=
  let x := s.die d
  if x.power.interval = s.tick / 1000 + 1 then s
  else
    let f := s.takeFree
    let y := if x.power.interval = 0 then x else vesper x (launchCommitted s d) 10
    let z := ({ y with chg := chgOf f.1.toNat }).examineCharge
    f.2.updDie d fun _ => startInterval f.2 d z

/-- DIE_INTERVAL: as time passes it comes at the boundary itself (`passTime`). -/
def execEDieInterval (s : State) : Host.Outcome State Fault Refusal := execEvent dieInterval s

/-- One core's installment: what its bucket holds returns, and it gets a tenth of its share, or what the pool holds for
a core that was not counted. -/
def installment (x : Die) (c : Nat) (t : Team) : Die :=
  let p := x.power
  let pool := p.pool + t.permits.bucket
  let inst := p.share / 10
  let n := if t.permits.counted then inst else min inst pool
  { x with power := { p with pool := if t.permits.counted then pool else pool - n }
           teams := x.teams.insert c { t with permits := { t.permits with bucket := n } } }

/-- The installments of a 100 ns tenth of an interval that has begun. Cores that share a pool too short for all of them take from
it in ascending order (DESIGN CHOICE, log 46). -/
def bucketInstallment (d : Nat) (s : State) : State :=
  let x := s.die d
  if x.power.interval ≠ s.tick / 1000 + 1 || x.power.tenth = s.tick / 100 + 1 then s
  else
    let y := x.teams.foldl (fun y e => if e.2.stopped then y else installment y e.1 e.2) x
    let j := s.tick / 100 % 10
    let z := if j = 0 then y else vesper y (launchCommitted s d) j
    s.updDie d fun _ => { z with power := { z.power with tenth := s.tick / 100 + 1 } }

/-- BUCKET_INSTALLMENT. -/
def execEBucketInstallment (s : State) : Host.Outcome State Fault Refusal := execEvent bucketInstallment s

/-! ## Bells and grants (R372, R373) -/

/-- A die's demand over the bell in watts. -/
def demandW (x : Die) : Nat := if x.powered then x.power.demand / (100 * watt) else 0

/-- The grant of a die in watts. -/
def grantW (cdcap total mine : Nat) : Nat :=
  min 680 (if total ≤ cdcap then mine + (cdcap - total) / 3 else cdcap * mine / total)

/-- The grants of a bell on their way; one is lost where the die's link to the control die is down. -/
def sendGrants (s : State) : State :=
  { s with dies := s.dies.zipIdx.map fun e =>
      if !e.1.powered then e.1
      else { e.1 with power := { e.1.power with arriving := if s.ctlLinkUp e.2 then some e.1.power.last else none } } }

/-- Every 100 µs of the time base the arbiter grants anew. A new SLEW is in effect from it on. -/
def packageBell (s : State) : State :=
  let n := s.tick / 100000 + 1
  if s.pkg.lastBell = n || s.pkg.boot < 6 then s
  else
    let pkg := { s.pkg with lastBell := n, slewInEffect := s.pkg.slew }
    let total := s.dies.foldl (fun k x => k + demandW x) 0
    { s with
      pkg := pkg
      dies := s.dies.map fun x =>
        if !x.powered then x
        else
          { x with power := { x.power with
              last := (grantW pkg.cdcap total (demandW x), pkg.slewUp / 3, pkg.slewDn / 3), demand := 0 } } } |> sendGrants

/-- PACKAGE_BELL. -/
def execEPackageBell (s : State) : Host.Outcome State Fault Refusal := execEvent (fun _ s => packageBell s) s

/-- GRANT_ARRIVAL: FLOOR clears; the grant is in effect from the next interval on. -/
def execEGrantArrival (s : State) : Host.Outcome State Fault Refusal :=
  execEvent (fun d s =>
    match (s.die d).power.arriving with
    | none => s
    | some g => s.updPower d fun p => { p with arriving := none, pending := some g, floor := false, bellGot := s.pkg.lastBell }) s

/-- 5 µs after a bell whose grant has not arrived the die is at its floor. -/
def floorTimeout (d : Nat) (s : State) : State :=
  let p := (s.die d).power
  if s.pkg.lastBell = 0 || p.bellGot = s.pkg.lastBell || decide (s.tick < (s.pkg.lastBell - 1) * 100000 + 5000) then s
  else s.updPower d fun p => { p with floor := true }

/-- FLOOR_TIMEOUT. -/
def execEFloorTimeout (s : State) : Host.Outcome State Fault Refusal := execEvent floorTimeout s

/-! ## Intent messages and decisions (R378, R379) -/

/-- An intent received: counted with intents in force, for the same job, before the decision for its slot. -/
def takeIntent (s : State) (m : IntentMsg) : State :=
  if !s.pkg.intentEn || m.job ≠ s.pkg.intentJob || m.slot / 10000 ≤ s.tick / 10000 + 1 then s
  else
    { s with pkg := { s.pkg with intents := { s.pkg.intents with
        received := m :: s.pkg.intents.received.filter fun k => !(k.ktick = m.ktick && k.kpkg = m.kpkg) } } }

/-- INTENT_MESSAGE. -/
def execEIntentMessage (m : IntentMsg) (s : State) : Host.Outcome State Fault Refusal :=
  execEvent (fun _ s => takeIntent s m) s

/-- A key precedes another. -/
def intentBefore (a b : IntentMsg) : Bool := decide (a.ktick < b.ktick) || (a.ktick = b.ktick && decide (a.kpkg.toNat < b.kpkg.toNat))

/-- The decision on the pending intent, from 10 µs before its slot on. -/
def intentDecision (s : State) : State :=
  let k := s.pkg.intents
  match k.own with
  | none => s
  | some own =>
    if !s.pkg.intentEn || decide (s.tick + 10000 < own.slot) then s
    else
      let w := ((k.received.filter fun m => m.job = own.job && m.slot = own.slot && intentBefore m own).map (·.dw)).sum
      if w + own.dw ≤ s.pkg.intentCap then
        { s with pkg := { s.pkg with intents := { k with own := none, pend := false, admitting := true, admitSlot := own.slot / 10000 } } }
      else
        let again := { own with slot := own.slot + 10000 }
        let k' := { k with own := some again, next := again.slot / 10000, defers := min 255 (k.defers + 1) }
        { s with pkg := { s.pkg with intents := k' } } |> (postIntent · again)

/-- INTENT_DECISION. -/
def execEIntentDecision (s : State) : Host.Outcome State Fault Refusal := execEvent (fun _ s => intentDecision s) s

/-- INTENT_CFG written: with EN = 0 nothing is pending and DEFER is clear. -/
def writeIntentCfg (s : State) (v : Nat) : State :=
  let cfg := Bits.field v 32 32 * 2 ^ 32 + Bits.field v 31 1 * 2 ^ 31 + Bits.field v 16 12 * 2 ^ 16 + Bits.field v 0 12
  let s1 := { s with pkg := { s.pkg with intentCfg := BitVec.ofNat 64 cfg } }
  if Bits.bit v 31 then s1
  else
    { s1 with
      pkg := { s1.pkg with intents := { s1.pkg.intents with own := none, pend := false } }
      dies := s1.dies.map fun x => { x with power := { x.power with defer := false } } }

end Sys2Proof.Machine
end

