-- ==== Sys2Proof/Machine/Matrix.lean ====
section
/-! DEFINITION. The matrix engine: MMA, MLOOP, MBATCH, MWAIT, ACLR, ALD, AST, SCFEED, and the steps and actions of its
queue (10 R307 to R324; 02 R65 to R70; 03 R85, R86). -/

namespace Sys2Proof.Machine

open Sys2Proof Fl

/-! ## Geometry (Table 10.1) -/

/-- Blocks of a column in one step. -/
def stepBlocks (f : BitVec 6) : Nat := if Fmt.isAsym f then max 1 (stepK f / Fmt.block f) else 0

/-- Scale numbers that step j consumes. -/
def stepTakes (f : BitVec 6) (j : Nat) : Nat := if f = Fmt.A8G128 && j % 2 = 1 then 0 else 32 * stepBlocks f

/-- Scale numbers that the steps before step j consume. -/
def stepsTake (f : BitVec 6) (j : Nat) : Nat :=
  if f = Fmt.A8G128 then 32 * ((j + 1) / 2) else 32 * stepBlocks f * j

/-- First scale number, from the chain's, that step j uses; an odd step of A8G128 uses those of the step before
(R311). -/
def stepBase (f : BitVec 6) (j : Nat) : Nat := if f = Fmt.A8G128 then 32 * (j / 2) else stepsTake f j

/-- Steps of an MMA or MLOOP. -/
def chainLen (i : Instr) : Nat := match i with | .lMloop o => o.cnt.toNat | _ => 1

def xops (i : Instr) : XOps :=
  match i with
  | .lMma o => o | .lMloop o => o | .lAclr o => o | .lAld o => o | .lAst o => o
  | _ => {}

/-! ## Issue -/

/-- ACCESS of an issue check of an engine operation: engine read or write of 16-byte granules of the scratchpad. -/
def engineAccess (write : Bool) : Nat := accessOf (if write then 8 else 7) 4 1

/-- Whether the edge word breaks Table 10.3. -/
def edgeBad (vregs : Nat) (f : BitVec 6) (w : Nat) : Bool :=
  Bits.field w 28 4 ≠ 0 || decide (32 < Bits.field w 14 6) || decide (32 < Bits.field w 8 6) ||
  decide (stepK f < Bits.field w 0 8) ||
  (if Fmt.isAsym f then decide (vregs ≤ Bits.field w 20 8) else Bits.field w 20 8 ≠ 0)

/-- The tile's rows exceed the team's (03 R85). -/
def tileBad (t : Team) (o : XOps) : Bool := decide (t.accRows < 32 * o.tr.toNat + 32)

/-- The issue checks of MMA and MLOOP, in the order of R309. -/
def chainFault (ctx : LaneCtx) (i : Instr) : Option FaultInfo :=
  let o := xops i
  let w := (ctx.x.operand 0 o.rb.toNat).toNat
  let e := (ctx.x.operand 0 (o.rb.toNat + 1)).toNat
  let last := Bits.field w 11 10 + Checks.badv o * (chainLen i - 1)
  if w / 2 ^ 21 ≠ 0 then some { code := Code.SHAPE, access := engineAccess false }
  else if w % 2048 ≠ 0 then some { code := Code.MISALIGN, access := engineAccess false, va := w }
  else if ctx.t.scratch < (last + 1) * 2048 then
    some { code := Code.XLATE, cause := Cause.OUTSIDE, access := engineAccess false, va := last * 2048 }
  else if edgeBad ctx.t.vregs o.fmt e then some { code := Code.SHAPE, access := engineAccess false }
  else if tileBad ctx.t o then some { code := Code.ACCBOUND }
  else none

/-- An accumulator action enters the queue: 64 actions at most, its range-lock entry taken at once, behind the writes to its
bytes, the group's other earlier writes in S (R313, R315, 04 R127, R128, Table 4.6). `cons` is the number of scale entries it
consumes. -/
def enterQueue (ctx : LaneCtx) (s : State) (i : Instr) (lock : Option (Bool × Nat × Nat)) (win edge ofs cons : Nat) : LRes :=
  let entry (k : Bool × Nat × Nat) : Lock := Team.lockOn (.matrix ctx.t.matNo) k.1 true k.2.1 k.2.2
  if 64 ≤ ctx.t.matq.length || !takesLocks (s.die ctx.d) ctx.c ctx.t (lock.toList.map entry) then .wait s
  else
    .done ((drainToS s ctx.d ctx.c (.group ctx.g)).updTeam ctx.d ctx.c fun t =>
      let a : MatAct :=
        { no := t.matNo, i, g := ctx.g, owner := .pending ctx.g, regs := ctx.x.v, active := ctx.act, win, edge, ofs,
          scNo := t.scCons, j := 0, failed := false }
      { t with
        matq := t.matq ++ [a], matNo := t.matNo + 1, scCons := t.scCons + cons
        locks := t.locks ++ lock.toList.map entry
        groups := Bits.updAt t.groups ctx.g fun x =>
          { x with pend := { x.pend with cons := x.pend.cons + cons, left := x.pend.left + 1 } } })

/-- MMA and MLOOP. -/
def issueChain (i : Instr) (ctx : LaneCtx) (s : State) : LRes :=
  let o := xops i
  let w := (ctx.x.operand 0 o.rb.toNat).toNat
  let e := (ctx.x.operand 0 (o.rb.toNat + 1)).toNat
  let win := Bits.field w 11 10
  let n := chainLen i
  match chainFault ctx i with
  | some f => .fault f s
  | none =>
    enterQueue ctx s i (some (false, win * 2048, (Checks.badv o * (n - 1) + 1) * 2048)) win e 0 (stepsTake o.fmt n)

def execLMma (o : XOps) (s : State) : Host.Outcome State Fault Refusal :=
  execLane { behindLoads := false } 9 (issueChain (.lMma o)) s

def execLMloop (o : XOps) (s : State) : Host.Outcome State Fault Refusal :=
  execLane { behindLoads := false } 9 (issueChain (.lMloop o)) s

/-- ACLR (R323). -/
def execLAclr (o : XOps) (s : State) : Host.Outcome State Fault Refusal :=
  execLaneWith {} (fun _ _ => 0) (fun ctx s =>
    if tileBad ctx.t o then .fault { code := Code.ACCBOUND } s else enterQueue ctx s (.lAclr o) none 0 0 0 0) s

/-- ALD and AST: the buffer's checks in the order of R323. -/
def issueBuffer (i : Instr) (write : Bool) (ctx : LaneCtx) (s : State) : LRes :=
  let o := xops i
  let ofs := (ctx.x.operand 0 o.rb.toNat).toNat
  let n := 128 * Fmt.elemBits o.fmt
  if ofs % 16 ≠ 0 then .fault { code := Code.MISALIGN, access := engineAccess write, va := ofs } s
  else if ctx.t.scratch < ofs + n then
    .fault { code := Code.XLATE, cause := Cause.OUTSIDE, access := engineAccess write, va := ofs } s
  else if tileBad ctx.t o then .fault { code := Code.ACCBOUND } s
  else enterQueue ctx s i (some (write, ofs, n)) 0 0 ofs 0

def execLAld (o : XOps) (s : State) : Host.Outcome State Fault Refusal :=
  execLaneWith { behindLoads := false } (fun _ _ => 0) (issueBuffer (.lAld o) false) s

def execLAst (o : XOps) (s : State) : Host.Outcome State Fault Refusal :=
  execLaneWith { behindLoads := false } (fun _ _ => 0) (issueBuffer (.lAst o) true) s

/-! ## The scale FIFO (R318 to R322) -/

/-- A producer's run of n numbers fits (R322). -/
def Team.scFits (t : Team) (n : Nat) : Bool := decide (t.scProd + n ≤ t.scFree + 256)

/-- n numbers taken by a producer tagged b. -/
def Team.scTake (t : Team) (n b : Nat) : Team :=
  { t with scProd := t.scProd + n, batches := Bits.updAt t.batches b fun k => { k with prod := k.prod + n } }

/-- SCFEED (R319): the strands of v(RA) are read whether active or not. -/
def execLScfeed (o : XOps) (s : State) : Host.Outcome State Fault Refusal :=
  execLane { cls := .matrix } 15 (fun ctx s =>
    let n := o.cnt.toNat
    if !ctx.t.scFits n then .wait s
    else
      .done (s.updTeam ctx.d ctx.c fun t =>
        { (t.scTake n o.bat.toNat) with
          scFill := (List.range n).foldl (fun m k => m.insert (t.scProd + k) (ctx.x.vreg o.ra.toNat k)) t.scFill })) s

/-! ## Batches (R315 to R317) -/

def Team.batch (t : Team) (b : Nat) : Batch := t.batches.getD b {}

/-- MBATCH. -/
def execLMbatch (o : XOps) (s : State) : Host.Outcome State Fault Refusal :=
  execLane {} 9 (fun ctx s =>
    let n := o.bat.toNat
    let b := ctx.t.batch n
    let p := ctx.x.pend
    if b.inFlight then .wait s
    else if p.cons ≠ b.prod then .fault { code := Code.DESYNC } s
    else
      .done (s.updTeam ctx.d ctx.c fun t =>
        { t with
          batches := t.batches.set n
            { inFlight := decide (0 < p.left), left := p.left, prod := 0, err := if b.err.isNone then p.err else b.err
              errNo := if b.err.isNone then p.errNo else b.errNo }
          matq := t.matq.map fun a => if a.owner = .pending ctx.g then { a with owner := .batch n } else a
          groups := Bits.updAt t.groups ctx.g fun x => { x with pend := {} } })) s

/-- The fault of an engine error found by MWAIT or CWAIT (Tables 13.1, 13.2). -/
def engineFault (cause aux va : Nat) : FaultInfo := { code := Code.ENGINE, cause, access := cause, va, aux }

/-- MWAIT. -/
def execLMwait (o : XOps) (s : State) : Host.Outcome State Fault Refusal :=
  execLane {} 9 (fun ctx s =>
    let n := o.bat.toNat
    let b := ctx.t.batch n
    if b.inFlight then .wait s
    else
      match b.err with
      | some cause =>
        .fault (engineFault cause (16 + n) 0)
          (s.updTeam ctx.d ctx.c fun t => { t with batches := t.batches.set n { b with err := none } })
      | none => .done s) s

/-! ## Actions of the queue -/

/-- An error recorded for an action, at place `no` of the order of the die's engine errors: the first of its pending set or
batch stands. -/
def Team.actError (t : Team) (a : MatAct) (cause no : Nat) : Team :=
  match a.owner with
  | .pending g =>
    { t with groups := Bits.updAt t.groups g fun x =>
        { x with pend := if x.pend.err.isNone then { x.pend with err := some cause, errNo := no } else x.pend } }
  | .batch b =>
    { t with batches := Bits.updAt t.batches b fun k => if k.err.isNone then { k with err := some cause, errNo := no } else k }

/-- The head action completed: it leaves the queue, its entry is released, its set has one action less; a batch
without actions is free (R315). -/
def Team.actDone (t : Team) (a : MatAct) : Team :=
  let u := { (t.unlock (.matrix a.no)) with matq := t.matq.drop 1 }
  match a.owner with
  | .pending g => { u with groups := Bits.updAt u.groups g fun x => { x with pend := { x.pend with left := x.pend.left - 1 } } }
  | .batch b =>
    { u with batches := Bits.updAt u.batches b fun k => { k with left := k.left - 1, inFlight := decide (1 < k.left) } }

/-- Code of element k of row r of A, from the register in which step j begins. -/
def aCode (a : MatAct) (areg r k : Nat) : Nat :=
  let f := (xops a.i).fmt
  let w := Fmt.elemBits f
  let e := 32 / w
  elem (a.regs.get 0 (32 * (areg + k / e) + r)).toNat w (k % e)

/-- Code of element (k, c) of B in a window. -/
def bCode (t : Team) (f : BitVec 6) (win k c : Nat) : Nat :=
  let w := Fmt.elemBits f
  let bit := (c * stepK f + k) * w
  Bits.field (t.sp.read (win * 2048 + bit / 8) (max 1 (w / 8))) (bit % 8) w

/-- Cell (r, c) of a tile after step j (R308 to R311). -/
def stepCell (t : Team) (a : MatAct) (j r c acc : Nat) : Nat :=
  let o := xops a.i
  let f := o.fmt
  let areg := o.ra.toNat + 16 * Checks.aadv o * j
  let win := a.win + Checks.badv o * j
  let aScale := (a.regs.get 0 (32 * Bits.field a.edge 20 8 + r)).toNat
  let bScale (k : Nat) : Nat :=
    (t.scFill.get 0 (a.scNo + stepBase f j + c * stepBlocks f + k / Fmt.block f)).toNat
  let val (code scale : Nat) : FVal := if Fmt.isAsym f then asymValue (Fmt.isA4 f) code scale else decode (ffOf f) code
  dotCell acc ((List.range (klimOf f a.edge)).map fun k =>
    (val (aCode a areg r k) aScale, val (bCode t f win k c) (bScale k)))

/-- Key of a cell of the accumulator store. -/
def cellKey (row col : Nat) : Nat := 256 * row + col

/-- The live cells of the tile of step j updated. -/
def stepTile (t : Team) (a : MatAct) (j : Nat) : SMap Word32 :=
  let o := xops a.i
  let col := 32 * (o.tc.toNat + Checks.cadv o * j)
  (liveRows a.edge a.active).foldl (fun m r =>
    (List.range (climOf a.edge)).foldl (fun m c =>
      let key := cellKey (32 * o.tr.toNat + r) (col + c)
      m.set 0 key (BitVec.ofNat 32 (stepCell t a j r c (t.acc.get 0 key).toNat))) m) t.acc

/-- The scale numbers of step j are filled. -/
def stepFilled (t : Team) (a : MatAct) : Bool :=
  let f := (xops a.i).fmt
  (List.range (stepTakes f a.j)).all fun k => (t.scFill.find? (a.scNo + stepBase f a.j + k)).isSome

/-- Positions freed when step j starts: its own, or those of the step before under A8G128; an even A8G128 step with a
step after it keeps its own (R311, R318). The count from the chain's first number on. -/
def stepFrees (i : Instr) (j : Nat) : Nat :=
  let f := (xops i).fmt
  if f = Fmt.A8G128 && j % 2 = 0 && decide (j + 1 < chainLen i) then stepsTake f j else stepsTake f (j + 1)

/-- The window of step j has the tag that its format needs (R314). -/
def stepTagOk (t : Team) (a : MatAct) : Bool :=
  let o := xops a.i
  t.tagOf (a.win + Checks.badv o * a.j) = (if Fmt.isAsym o.fmt then o.fmt else 0x3F)

/-- An element of column c that step j reads shares a word of the window with an uncorrectable one: the live elements of
a column are its first KLIM (R310, R69). -/
def badColumn (t : Team) (a : MatAct) (c : Nat) : Bool :=
  let o := xops a.i
  let w := Fmt.elemBits o.fmt
  t.badSp (2048 * (a.win + Checks.badv o * a.j) + c * stepK o.fmt * w / 8) ((klimOf o.fmt a.edge * w + 7) / 8)

/-- A live cell of the tile of step j is uncorrectable. -/
def badCell (t : Team) (a : MatAct) (r c : Nat) : Bool :=
  let o := xops a.i
  t.bad.contains (.acc (cellKey (32 * o.tr.toNat + r) (32 * (o.tc.toNat + Checks.cadv o * a.j) + c) / 2))

/-- A scale entry of column c that scales a live element of step j is uncorrectable (R311). -/
def badEntry (t : Team) (a : MatAct) (c : Nat) : Bool :=
  let f := (xops a.i).fmt
  Fmt.isAsym f &&
    t.badScale (a.scNo + stepBase f a.j + c * stepBlocks f) ((klimOf f a.edge + Fmt.block f - 1) / Fmt.block f)

/-- The step whose tag is right reads an uncorrectable word of its window, of its tile or of its scale entries: only what
a live pair or a live cell needs is read (R310, 02 R69, 13 R388). -/
def stepUe (t : Team) (a : MatAct) : Bool :=
  let rows := liveRows a.edge a.active
  !a.failed && stepTagOk t a && !t.bad.isEmpty && !rows.isEmpty &&
    (List.range (climOf a.edge)).any fun c =>
      badColumn t a c || badEntry t a c || rows.any fun r => badCell t a r c

/-- Step j of the head action (R313, R314). -/
def runStep (t : Team) (a : MatAct) (no : Nat) : Team :=
  let bad := a.failed || !stepTagOk t a || stepUe t a
  let t1 := if bad then (if a.failed then t else t.actError a (if stepUe t a then Cause.UE else Cause.TAGMISMATCH) no)
    else { t with acc := stepTile t a a.j }
  let free := if Fmt.isAsym (xops a.i).fmt then a.scNo + stepFrees a.i a.j else t.scFree
  let t2 :=
    { t1 with
      scFree := free
      scFill := if Fmt.isAsym (xops a.i).fmt then t1.scFill.filter (fun e => decide (free ≤ e.1)) else t1.scFill
      bad := t1.bad.filter fun r => match r with | .scale n => decide (free ≤ n) | _ => true }
  let a' := { a with j := a.j + 1, failed := bad }
  if a.j + 1 < chainLen a.i then { t2 with matq := a' :: t2.matq.drop 1 } else t2.actDone a'

/-- Price-table entry of a step (12 Table 12.1). -/
def stepEntry (f : BitVec 6) : Nat :=
  if f = Fmt.F16x2 || f = Fmt.BF16x2 then 11 else if f = Fmt.E4M3x4 || f = Fmt.E5M2x4 then 12
  else if Fmt.isA4 f then 14 else 13

def isChain (i : Instr) : Bool := match i with | .lMma _ => true | .lMloop _ => true | _ => false

/-- An engine of a core starts a unit, in a core cycle (12 R375) and behind its refill: its team is not halted, its permit
is covered; then it is charged and runs. -/
def engineUnit (s : State) (d c : Nat) (cls : PClass) (price unit : Nat) (run : State → State) : State :=
  let s0 := coreCycle s d c
  match s.team? d c with
  | none => s
  | some t =>
    if t.halted || !pulsePasses s (s.die d) c then s
    else if !mayStart s0 d c cls price then (if permitCovers s0 d c cls price then s0 else noteWait s0 d unit price)
    else run (charge (noWait s0 d unit) d c cls price)

/-- A unit of the matrix engine changes its team; an error that it records takes the next place of the die's (11 R365). -/
def unitRuns (s : State) (d c : Nat) (f : Team → Nat → Team) : State :=
  (s.updTeam d c fun t => f t (s.die d).errNo).updDie d fun x => { x with errNo := x.errNo + 1 }

/-- MATRIX_STEP: the head of the queue, an MMA or MLOOP, starts and completes its next step. -/
def execEMatrixStep (c : Nat) (s : State) : Host.Outcome State Fault Refusal :=
  execEvent (fun d s =>
    match s.team? d c with
    | none => s
    | some t =>
      match t.matq with
      | [] => s
      | a :: _ =>
        if !isChain a.i || !stepFilled t a || t.lockWaits (.matrix a.no) then s
        else
          engineUnit s d c .matrix ((s.die d).priceOf (stepEntry (xops a.i).fmt)) (engineUnitNo c 0) fun s =>
            unitRuns (if stepUe t a then reportUe s d else s) d c fun t => runStep t a) s

/-- ALD: the tile filled from the buffer, widened exactly. -/
def runAld (t : Team) (a : MatAct) : SMap Word32 :=
  let o := xops a.i
  let n := Fmt.elemBits o.fmt / 8
  (List.range 1024).foldl (fun m k =>
    let v := pack f32 .rn false false (decode (ffOf o.fmt) (t.sp.read (a.ofs + n * k) n))
    m.set 0 (cellKey (32 * o.tr.toNat + k / 32) (32 * o.tc.toNat + k % 32)) (BitVec.ofNat 32 v.w)) t.acc

def cellOf (t : Team) (o : XOps) (k : Nat) : Nat :=
  (t.acc.get 0 (cellKey (32 * o.tr.toNat + k / 32) (32 * o.tc.toNat + k % 32))).toNat

/-- Residue register and position of cell k in AST.EF. -/
def astResidue (o : XOps) (k : Nat) : Nat × Nat := ((Checks.astRes o + (k % 32) / 4) % 8, k % 4)

/-- The element that AST drains for cell k. -/
def astElem (t : Team) (x : Group) (o : XOps) (k : Nat) : Nat :=
  let v := cellOf t o k
  if o.fmt = Fmt.F32 then v
  else if Checks.astEf o then
    let r := astResidue o k
    (errorFeedback (ffOf o.fmt) (Checks.astSat o) v (x.residue r.1 (k / 32) r.2).toNat).1
  else (narrow (ffOf o.fmt) (RMode.ofField (Checks.astRnd o)) (Checks.astSat o) false v).w

/-- The residues that AST.EF leaves. -/
def astResidues (t : Team) (x : Group) (o : XOps) : Group :=
  if !Checks.astEf o then x
  else
    (List.range 1024).foldl (fun y k =>
      let r := astResidue o k
      let e := (errorFeedback (ffOf o.fmt) (Checks.astSat o) (cellOf t o k) (x.residue r.1 (k / 32) r.2).toNat).2.1
      y.setResidue r.1 (k / 32) r.2 (BitVec.ofNat 32 e)) x

/-- AST: the tile drained to the buffer; every window it writes is untagged. -/
def runAst (t : Team) (a : MatAct) : Team :=
  let o := xops a.i
  let n := Fmt.elemBits o.fmt / 8
  let x := t.groups.getD a.g {}
  let t1 := ((List.range 1024).foldl (fun u k => u.spWrite (a.ofs + n * k) n (astElem t x o k)) t).heal fun r =>
    r.wholeSp a.ofs (1024 * n)
  { t1 with groups := Bits.updAt t1.groups a.g fun y => astResidues t y o }

def runAclr (t : Team) (a : MatAct) : SMap Word32 :=
  let o := xops a.i
  (List.range 1024).foldl (fun m k => m.set 0 (cellKey (32 * o.tr.toNat + k / 32) (32 * o.tc.toNat + k % 32)) 0) t.acc

/-- The ALD reads an uncorrectable word of its buffer, or the AST one of its tile or of the residues
that it takes up (13 R388). -/
def actionUe (t : Team) (a : MatAct) : Bool :=
  let o := xops a.i
  match a.i with
  | .lAld _ => t.badSp a.ofs (128 * Fmt.elemBits o.fmt)
  | .lAst _ => t.badTile o.tr.toNat o.tc.toNat || (Checks.astEf o && t.badResidues a.g)
  | _ => false

/-- The head action, which is no chain, on its whole tile; one that reads an uncorrectable word has no effect and
records it. A tile written whole is correct again. -/
def runAction (t : Team) (a : MatAct) (no : Nat) : Team :=
  let o := xops a.i
  if actionUe t a then t.actError a Cause.UE no
  else
    match a.i with
    | .lAclr _ => { t with acc := runAclr t a }.heal fun r => r.inTile o.tr.toNat o.tc.toNat
    | .lAld _ => { t with acc := runAld t a }.heal fun r => r.inTile o.tr.toNat o.tc.toNat
    | _ => runAst t a

/-- MATRIX_ACTION: the head of the queue, an ACLR, ALD or AST, is performed on its whole tile (R323, 03 R86). -/
def execEMatrixAction (c : Nat) (s : State) : Host.Outcome State Fault Refusal :=
  execEvent (fun d s =>
    match s.team? d c with
    | none => s
    | some t =>
      match t.matq with
      | [] => s
      | a :: _ =>
        if isChain a.i || t.lockWaits (.matrix a.no) then s
        else
          engineUnit s d c .matrix ((s.die d).priceOf 15) (engineUnitNo c 0) fun s =>
            unitRuns (if actionUe t a then reportUe s d else s) d c fun t no => (runAction t a no).actDone a) s

end Sys2Proof.Machine
end

