-- ==== Sys2Proof/Machine/Copy.lean ====
section
/-! DEFINITION. The copy engines: CPY and CWAIT, and the chunks and completions of the copies of a core's engine and of
the die's (10 R327 to R333, R320; 02 R63, R64). -/

namespace Sys2Proof.Machine

open Sys2Proof Fl

/-! ## Work that ends at its first failing access -/

/-- Work on the state that ends in a value, or in a cause with the address that failed. -/
abbrev Job (α : Type) := State → State × Except (Nat × Nat) α

namespace Job

def ok {α : Type} (a : α) : Job α := fun s => (s, .ok a)

def fail {α : Type} (cause va : Nat) : Job α := fun s => (s, .error (cause, va))

def bind {α β : Type} (m : Job α) (f : α → Job β) : Job β := fun s =>
  match m s with
  | (s1, .ok a) => f a s1
  | (s1, .error e) => (s1, .error e)

/-- A job for each element in turn. -/
def each {α β : Type} (f : α → Job β) : List α → Job (List β)
  | [] => ok []
  | a :: l => bind (f a) fun b => bind (each f l) fun bs => ok (b :: bs)

/-- An update of the state. -/
def set (f : State → State) : Job Unit := fun s => (f s, .ok ())

end Job

/-! ## Engine accesses -/

/-- An address range cut at 64 KiB pages. -/
def pagesOf (va n : Nat) : List (Nat × Nat) :=
  if n = 0 then []
  else
    (List.range ((va + n - 1) / 65536 - va / 65536 + 1)).map fun k =>
      let page := (va / 65536 + k) * 65536
      let lo := max va page
      (lo, min (va + n) (page + 65536) - lo)

/-- An engine's translation and permission of one page's part of a range. -/
def jobPage (tr : Die → Nat → Die × Except Nat TlbEntry) (d : Nat) (a : Access) (va n : Nat) : Job TlbEntry := fun s =>
  let r := tr (s.die d) va
  let s1 := s.updDie d fun _ => r.1
  match r.2 with
  | .error k => (s1, .error (k, va))
  | .ok e =>
    match denied r.1 a n va e with
    | some k => (s1, .error (k, va))
    | none => (s1, .ok e)

/-- Treatment of an engine's access at the last level (03 R99 to R101). -/
def engineLl (l : Leaf) : Nat := if l.peer then 2 else min 2 l.cache

def jobRead (d : Nat) (e : TlbEntry) (va n : Nat) : Job Nat := fun s =>
  let r := readAt s d (e.loc va) n (engineLl e.leaf) .engineRead
  match r.2 with
  | .ok v => (r.1, .ok v)
  | .error k => (r.1, .error (k, va))

def jobWrite (d : Nat) (e : TlbEntry) (va n v : Nat) : Job Unit := fun s =>
  let r := writeAt s d (e.loc va) n v (engineLl e.leaf) .engineWrite
  match r.2 with
  | none => (r.1, .ok ())
  | some k => (r.1, .error (k, va))

/-- A range cut at 16-byte granules. -/
def granulesOf (va n : Nat) : List (Nat × Nat) :=
  (List.range ((va + n + 15) / 16 - va / 16)).map fun j =>
    let g := (va / 16 + j) * 16
    (max va g, min (va + n) (g + 16) - max va g)

/-! ## Copies of an engine -/

def copiesOf (s : State) (d : Nat) : CopyEng → List CopyOp
  | .core c => match s.team? d c with | some t => t.copies | none => []
  | .die => (s.die d).dieCopies

def updCopies (s : State) (d : Nat) (e : CopyEng) (f : List CopyOp → List CopyOp) : State :=
  match e with
  | .core c => s.updTeam d c fun t => { t with copies := f t.copies }
  | .die => s.updDie d fun x => { x with dieCopies := f x.dieCopies }

def updCopy (s : State) (d : Nat) (e : CopyEng) (no : Nat) (f : CopyOp → CopyOp) : State :=
  updCopies s d e fun l => l.map fun k => if k.no = no then f k else k

/-! ## The box of a copy (R328) -/

namespace CopyOp

def esize (k : CopyOp) : Nat := Fmt.elemBits k.shape.fmt
/-- Bits of a destination element. -/
def dsize (k : CopyOp) : Nat := if k.dec then Fmt.elemBits k.dfmt else k.esize
def rowBytes (k : CopyOp) : Nat := k.shape.boxOf 0 * k.dsize / 8
def rows (k : CopyOp) : Nat := k.shape.boxOf 1 * k.shape.boxOf 2 * k.shape.boxOf 3
def total (k : CopyOp) : Nat := k.rowBytes * k.rows
/-- Index of run r in dimension d. -/
def rowIdx (k : CopyOp) (r d : Nat) : Nat :=
  if d = 1 then r % k.shape.boxOf 1
  else if d = 2 then r / k.shape.boxOf 1 % k.shape.boxOf 2
  else r / (k.shape.boxOf 1 * k.shape.boxOf 2)
def coordOf (k : CopyOp) (d : Nat) : Nat := k.coord.getD d 0
/-- Run r lies within the extents of the dimensions above 0. -/
def rowIn (k : CopyOp) (r : Nat) : Bool := [1, 2, 3].all fun d => decide (k.coordOf d + k.rowIdx r d < k.shape.extOf d)
/-- Elements of run r within the source extent. -/
def rowLive (k : CopyOp) (r : Nat) : Nat := if k.rowIn r then min (k.shape.boxOf 0) (k.shape.extOf 0 - k.coordOf 0) else 0
/-- Address of the first element of run r. -/
def rowVa (k : CopyOp) (r : Nat) : Nat :=
  (k.src + k.coordOf 0 * k.esize / 8 +
    ([1, 2, 3].map fun d => (k.coordOf d + k.rowIdx r d) * k.shape.strideOf d).sum) % 2 ^ 64

end CopyOp

/-- Bytes that hold n elements. -/
def spanBytes (bits n : Nat) : Nat := (n * bits + 7) / 8

/-- What a copy of an engine works with: its translation, its die, and the core of a core's engine. -/
structure CopyEnv where
  tr : Die → Nat → Die × Except Nat TlbEntry
  d  : Nat
  c  : Option Nat

def copyEnv (d : Nat) : CopyEng → CopyEnv
  | .core c => { tr := fun x va => translateNow x c va, d, c := some c }
  | .die => { tr := translateCopy, d, c := none }

/-- A source page of a copy, with the format checks of R63 and R328. -/
def srcPage (v : CopyEnv) (k : CopyOp) (va n : Nat) : Job TlbEntry :=
  Job.bind (jobPage v.tr v.d .engineRead va n) fun e =>
    match Fmt.ofPage e.leaf.fmt e.leaf.geom with
    | some f =>
      if f ≠ k.shape.fmt || (k.dec && !Fmt.vecFloats.contains k.dfmt) || (!k.dec && (Fmt.isMx f || !k.dsp)) then Job.fail Cause.FMTMISMATCH va else Job.ok e
    | none => if k.dec || k.scf then Job.fail Cause.FMTMISMATCH va else Job.ok e

/-- The parts of a range with their entries. -/
abbrev Parts := List ((Nat × Nat) × TlbEntry)

def srcParts (v : CopyEnv) (k : CopyOp) (va n : Nat) : Job Parts :=
  Job.each (fun p => Job.bind (srcPage v k p.1 p.2) fun e => Job.ok (p, e)) (pagesOf va n)

def dstParts (v : CopyEnv) (va n : Nat) : Job Parts :=
  Job.each (fun p => Job.bind (jobPage v.tr v.d .engineWrite p.1 p.2) fun e => Job.ok (p, e)) (pagesOf va n)

/-- The entry of the part that holds an address. -/
def partAt (l : Parts) (va : Nat) : Option TlbEntry := (l.find? fun p => decide (p.1.1 ≤ va) && decide (va < p.1.1 + p.1.2)).map (·.2)

/-- Shadow address of the scale of element i of a run that begins at `va`, under the descriptor of its page (02 R59). -/
def scaleVa (k : CopyOp) (l : Parts) (va i : Nat) : Nat :=
  let f := k.shape.fmt
  let a := va + i * k.esize / 8
  match (partAt l a).bind (·.desc) with
  | some sd => sd.shadow + scaleBytes f * (((a - sd.base) * perByte f + (i * k.esize % 8) / k.esize) / Fmt.block f)
  | none => 0

/-- One scale entry, read on a raw page (01 R19). -/
def readScale (v : CopyEnv) (k : CopyOp) (va : Nat) (fetch : Bool) : Job (Nat × Nat) :=
  let n := scaleBytes k.shape.fmt
  Job.bind (jobPage v.tr v.d .engineRead va n) fun e =>
    if e.leaf.fmt ≠ 0 then Job.fail Cause.DESCRIPTOR va
    else if !fetch then Job.ok (va, 0)
    else Job.bind (jobRead v.d e va n) fun x => Job.ok (va, x)

/-- Shadow addresses of the elements [lo, hi) of a run. -/
def scaleVas (k : CopyOp) (l : Parts) (va lo hi : Nat) : List Nat :=
  ((List.range (hi - lo)).map fun j => scaleVa k l va (lo + j)).eraseDups

/-- Bytes written at the copy's destination. -/
def putDst (v : CopyEnv) (k : CopyOp) (ofs n val : Nat) : Job Unit :=
  let a := k.dst + ofs
  if k.dsp then Job.set fun s => s.updTeam v.d (v.c.getD 0) fun t => t.spWrite a n val
  else
    Job.bind (dstParts v a n) fun ps =>
      Job.bind (Job.each (fun p =>
        Job.bind (jobWrite v.d p.2 p.1.1 p.1.2 (Bits.field val (8 * (p.1.1 - a)) (8 * p.1.2))) fun _ =>
          match v.c with
          | some c => Job.set fun s => s.updTeam v.d c fun t =>
              (List.range (p.1.2 / 128 + 2)).foldl (fun t j =>
                t.dropLine (locAt s v.d p.2 (p.1.1 + min (128 * j) (p.1.2 - 1)))) t
          | none => Job.ok ()) ps) fun _ => Job.ok ()

/-- The whole of run r checked before any of it is moved (R330). -/
def checkRow (v : CopyEnv) (k : CopyOp) (r : Nat) : Job Unit :=
  let live := k.rowLive r
  let va := k.rowVa r
  Job.bind (srcParts v k va (spanBytes k.esize live)) fun l =>
    Job.bind (Job.each (fun a => readScale v k a false) (if k.dec || k.scf then scaleVas k l va 0 live else [])) fun _ =>
      if k.dsp then Job.ok ()
      else Job.bind (dstParts v (k.dst + r * k.rowBytes) k.rowBytes) fun _ => Job.ok ()

/-- Whether elements [lo, hi) of run r lie on format pages, and whether on raw ones: elements that are filled with zeros behind the
extent of the run count with the page of the last element read. -/
def pieceFormat (v : CopyEnv) (k : CopyOp) (r lo hi : Nat) : Job (Bool × Bool) :=
  let live := k.rowLive r
  let first := if lo < live then lo else live - 1
  let last := min live (max hi (first + 1))
  Job.bind (srcParts v k (k.rowVa r + first * k.esize / 8) (spanBytes k.esize (last - first))) fun l =>
    Job.ok (l.any (fun p => p.2.leaf.fmt ≠ 0), l.any (fun p => p.2.leaf.fmt = 0))

/-- A value of the run under way that is read once: what `get` finds with the copy, else what `m` reads, which `put` keeps
with it (02 R60, 04 R120). -/
def readOnce (v : CopyEnv) (eng : CopyEng) (no key : Nat) (get : CopyOp → SMap Nat) (put : CopyOp → SMap Nat → CopyOp)
    (m : Job Nat) : Job Nat := fun s =>
  match ((copiesOf s v.d eng).find? (fun k => k.no = no)).bind fun k => (get k).find? key with
  | some x => (s, .ok x)
  | none => Job.bind m (fun x => Job.bind (Job.set fun s => updCopy s v.d eng no fun k => put k ((get k).insert key x)) fun _ => Job.ok x) s

/-- The granules of run r, as far as the run has them, that hold bytes [a, a + n) of it. -/
def srcGranules (k : CopyOp) (r a n : Nat) : List (Nat × Nat) :=
  let lo := max (k.rowVa r) (a / 16 * 16)
  granulesOf lo (min (k.rowVa r + spanBytes k.esize (k.rowLive r)) ((a + n + 15) / 16 * 16) - lo)

/-- The source bytes of run r in the granules that hold bytes [a, a + n) of it: each granule is read once, whole as far as
the run has it (04 Table 4.4). The first byte's address, and the bytes. -/
def srcBytes (v : CopyEnv) (eng : CopyEng) (k : CopyOp) (r a n : Nat) : Job (Nat × Nat) :=
  let lo := max (k.rowVa r) (a / 16 * 16)
  if n = 0 then Job.ok (a, 0)
  else
    Job.bind (Job.each (fun g =>
      Job.bind (srcPage v k g.1 g.2) fun t =>
        Job.bind (readOnce v eng k.no g.1 (·.srcGot) (fun k m => { k with srcGot := m }) (jobRead v.d t g.1 g.2)) fun x =>
          Job.ok (x * 2 ^ (8 * (g.1 - lo)))) (srcGranules k r a n)) fun xs => Job.ok (lo, xs.sum)

/-- The scale entry at a shadow address, read once for the run. -/
def scaleOnce (v : CopyEnv) (eng : CopyEng) (k : CopyOp) (a : Nat) : Job (Nat × Nat) :=
  Job.bind (readOnce v eng k.no a (·.scGot) (fun k m => { k with scGot := m })
    (Job.bind (readScale v k a true) fun e => Job.ok e.2)) fun x => Job.ok (a, x)

/-- The destination bits of elements [lo, hi) of run r. -/
def rowData (v : CopyEnv) (eng : CopyEng) (k : CopyOp) (r lo hi : Nat) : Job Nat :=
  let live := min hi (k.rowLive r)
  let va := k.rowVa r
  let start := va + lo * k.esize / 8
  let n := live - lo
  Job.bind (srcParts v k start (spanBytes k.esize n)) fun l =>
    Job.bind (srcBytes v eng k r start (spanBytes k.esize n)) fun xs =>
      let raw := xs.2 / 2 ^ (8 * (start - xs.1)) % 2 ^ (n * k.esize)
      if !k.dec then Job.ok raw
      else
        Job.bind (Job.each (scaleOnce v eng k) (scaleVas k l va lo live)) fun sc =>
          Job.ok ((List.range n).foldl (fun acc j =>
            let scale := ((sc.find? fun e => e.1 = scaleVa k l va (lo + j)).map (·.2)).getD 0
            acc + decodeCode k.dfmt k.shape.fmt (Bits.field raw (k.esize * j) k.esize) scale * 2 ^ (k.dsize * j)) 0)

/-- The scale entries of run r routed to the FIFO, block by block (R320); a decoding copy uses the same ones. -/
def rowScales (v : CopyEnv) (eng : CopyEng) (k : CopyOp) (r : Nat) : Job (List Nat) :=
  let g := Fmt.block k.shape.fmt
  let va := k.rowVa r
  Job.bind (srcParts v k va (spanBytes k.esize (k.rowLive r))) fun l =>
    Job.each (fun b =>
      if b * g < k.rowLive r then Job.bind (scaleOnce v eng k (scaleVa k l va (b * g))) fun e => Job.ok e.2
      else Job.ok 0) (List.range (k.shape.boxOf 0 / g))

/-- Numbers of a copy's scale positions filled from the next one on. -/
def fillScales (s : State) (d c : Nat) (k : CopyOp) (from_ : Nat) (l : List Nat) : State :=
  s.updTeam d c fun t =>
    { t with scFill := (List.range l.length).foldl (fun m j => m.insert (k.scNo + from_ + j) (BitVec.ofNat 32 (l.getD j 0))) t.scFill }

/-- The run that holds destination byte `ofs`. -/
def CopyOp.runOf (k : CopyOp) (ofs : Nat) : Nat := ofs / k.rowBytes

/-- A piece [lo, hi) of a run's destination bytes moved: a single-copy unit of 04 Table 4.4. -/
def movePiece (v : CopyEnv) (eng : CopyEng) (k : CopyOp) (lo hi : Nat) : Job Unit :=
  let r := k.runOf lo
  let p := (lo - r * k.rowBytes) * 8 / k.dsize
  let q := (hi - r * k.rowBytes) * 8 / k.dsize
  Job.bind (pieceFormat v k r p q) fun f =>
    Job.bind (rowData v eng k r p q) fun x =>
      Job.bind (putDst v k lo (hi - lo) x) fun _ =>
        Job.set fun s => updCopy s v.d eng k.no fun k =>
          let add (b : Bool) (l : List Nat) : List Nat :=
            if b && !l.contains ((k.dst + lo) / 2048) then (k.dst + lo) / 2048 :: l else l
          { k with fmtWin := add f.1 k.fmtWin, rawWin := add f.2 k.rawWin }

/-- A run checked and its scales delivered, before any of it is moved; nothing of it has been read before. -/
def beginRow (v : CopyEnv) (eng : CopyEng) (k : CopyOp) (r : Nat) : Job Unit :=
  Job.bind (Job.bind (Job.set fun s => updCopy s v.d eng k.no fun k => { k with srcGot := [], scGot := [] }) fun _ => checkRow v k r) fun _ =>
    if !k.scf then Job.ok ()
    else
      Job.bind (rowScales v eng k r) fun l =>
        Job.set fun s =>
          updCopy (fillScales s v.d (v.c.getD 0) k (r * l.length) l) v.d eng k.no fun k =>
            { k with scFilled := k.scFilled + l.length }

/-- Destination bytes [lo, hi) cut at the 16-byte granules of the destination (04 Table 4.4). -/
def piecesOf (k : CopyOp) (lo hi : Nat) : List (Nat × Nat) :=
  (List.range ((k.dst + hi + 15) / 16 - (k.dst + lo) / 16)).map fun j =>
    let g := ((k.dst + lo) / 16 + j) * 16
    (max lo (g - k.dst), min hi (g + 16 - k.dst))

/-- The runs' parts of the destination bytes [lo, hi). -/
def chunkParts (k : CopyOp) (lo hi : Nat) : List (Nat × Nat × Nat) :=
  (List.range ((hi - 1) / k.rowBytes - lo / k.rowBytes + 1)).map fun j =>
    let r := lo / k.rowBytes + j
    (r, max lo (r * k.rowBytes) - r * k.rowBytes, min hi ((r + 1) * k.rowBytes) - r * k.rowBytes)

/-- A copy ended by an error: what it has not filled of the scale FIFO becomes 0xFFFFFFFF (R320, R330). -/
def endCopy (s : State) (d : Nat) (eng : CopyEng) (no cause va : Nat) : State :=
  match (copiesOf s d eng).find? (fun k => k.no = no) with
  | none => s
  | some k =>
    let s1 := match eng with
      | .core c => fillScales s d c k k.scFilled (List.replicate (k.scCnt - k.scFilled) 0xFFFFFFFF)
      | .die => s
    (updCopy s1 d eng no fun k => { k with err := some (cause, va), errNo := (s.die d).errNo, scFilled := k.scCnt }).updDie d
      fun x => { x with errNo := x.errNo + 1 }

/-- Bytes of the copy that S still holds queued writes to, scale entries included, so that the chunk waits (04 Table 4.6),
or that the crossbar of the cluster has under way (03 R90). -/
def chunkBehind (s : State) (d c : Nat) (k : CopyOp) (lo hi : Nat) : Bool :=
  match s.team? d c with
  | none => false
  | some t =>
    let x := s.die d
    let held (l : Loc) (n : Nat) : Bool := t.ts.any (fun w => w.touches l n) || xbarHolds x c l n
    let plain (va n : Nat) : Bool := (pagesOf va n).any fun p =>
      match (translateNow x c p.1).2 with
      | .ok e => held (locAt s d e p.1) p.2
      | .error _ => false
    let scales (va n : Nat) : Bool := (pagesOf va n).any fun p =>
      match (translateNow x c p.1).2 with
      | .ok e =>
        (match e.desc with
         | some sd =>
           let f := k.shape.fmt
           let b0 := (p.1 - sd.base) * perByte f / Fmt.block f
           let b1 := ((p.1 + p.2 - sd.base) * perByte f - 1) / Fmt.block f
           plain (sd.shadow + scaleBytes f * b0) (scaleBytes f * (b1 + 1 - b0))
         | none => false)
      | .error _ => false
    (chunkParts k lo hi).any (fun p =>
      let va := k.rowVa p.1
      let n := spanBytes k.esize (k.rowLive p.1)
      plain va n || ((k.dec || k.scf) && scales va n)) ||
    (if k.dsp then held (.sp c (k.dst + lo)) (hi - lo) else plain (k.dst + lo) (hi - lo))

/-- The next chunk of a copy: to the next 4 KiB boundary of its destination bytes, or to its end. -/
def chunkEnd (k : CopyOp) : Nat := min k.total ((k.done / 4096 + 1) * 4096)

/-- End of the run part under way. -/
def CopyOp.partEnd (k : CopyOp) : Nat := min k.upTo ((k.runOf k.done + 1) * k.rowBytes)

/-- What is left of the run part under way once a piece is out of it; with the last one the part is done. -/
def CopyOp.without (k : CopyOp) (p : Nat × Nat) : CopyOp :=
  let left := k.todo.erase p
  { k with todo := left, done := if left.isEmpty then k.partEnd else k.done }

/-- The memory that an address range of a die lies in has been written whole: what is protected in it is correct again (13
R388). -/
def healSpan (tr : Die → Nat → Die × Except Nat TlbEntry) (d va n : Nat) : Job Unit :=
  Job.bind (Job.each (fun p => Job.bind (jobPage tr d .engineWrite p.1 p.2) fun e => fun s =>
    match (siteOf s d (e.loc p.1) p.2 .engineWrite (.read p.2)).2 with
    | .ok (.at m (.hbm pa) _) => (s.updDie m fun x => x.healMem pa p.2, .ok ())
    | _ => (s, .ok ())) (pagesOf va n)) fun _ => Job.ok ()

/-- A run part is done: its destination has been written whole. -/
def endPart (v : CopyEnv) (k : CopyOp) (s : State) : State :=
  if k.dsp then
    s.updTeam v.d (v.c.getD 0) fun t => t.heal fun r => r.wholeSp (k.dst + k.done) (k.partEnd - k.done)
  else (healSpan v.tr v.d (k.dst + k.done) (k.partEnd - k.done) s).1

/-- One move of a chunk under way: the run part that comes next is begun, or a piece of the one under way, the j-th of
those left, is moved (04 R107, R120: the granules move in no order). An error names the failing run (R330, R331). -/
def moveChunk (s : State) (d : Nat) (eng : CopyEng) (k : CopyOp) (j : Nat) : State :=
  let v := copyEnv d eng
  let r := k.runOf k.done
  match k.todo[j % k.todo.length]? with
  | none =>
    let res := (if k.done = r * k.rowBytes then beginRow v eng k r else Job.ok ()) s
    (match res.2 with
     | .ok _ => updCopy res.1 d eng k.no fun k =>
         { k with todo := piecesOf k k.done (min k.upTo ((r + 1) * k.rowBytes)) }
     | .error e => endCopy res.1 d eng k.no e.1 (k.rowVa r))
  | some p =>
    let res := movePiece v eng k p.1 p.2 s
    (match res.2 with
     | .ok _ => updCopy (if (k.todo.erase p).isEmpty then endPart v k res.1 else res.1) d eng k.no fun k => k.without p
     | .error e => endCopy res.1 d eng k.no e.1 (k.rowVa r))

/-- Price of a chunk: its destination bytes rounded up to 128. -/
def chunkPrice (x : Die) (entry : Nat) (k : CopyOp) : Nat := x.priceOf entry * ((chunkEnd k - k.done + 127) / 128)

def copyOver (k : CopyOp) : Bool := k.err.isSome || decide (k.total ≤ k.done)

/-- The chunk that begins is charged and under way. -/
def openChunk (s : State) (d : Nat) (e : CopyEng) (op : CopyOp) (tokens : Nat) : State :=
  updCopy s d e op.no fun k => { k with upTo := chunkEnd k, energy := k.energy + tokens }

/-- The engine acts in this cycle: the pulse reaches the core of a core's engine (12 R375). -/
def enginePulse (s : State) (d : Nat) : CopyEng → Bool
  | .core c => pulsePasses s (s.die d) c
  | .die => true

/-- The launch that a copy was posted for is being ended: no further chunk of it begins (11 R363, 13 R382). -/
def launchEnding (x : Die) (k : Option LKey) : Bool :=
  match k.bind x.launch? with
  | some l => l.st = .stopping && (match l.why with | some (.finish _ _) => true | _ => false)
  | none => false

/-- COPY_CHUNK: a move of the k-th copy of an engine: a chunk is begun and charged (12 Table 12.3), or one under way makes
the move that the turn picks (log 1). -/
def execECopyChunk (e : CopyEng) (k : Nat) (s : State) : Host.Outcome State Fault Refusal :=
  execEvent (fun d s =>
    match (copiesOf s d e)[k]? with
    | none => s
    | some op =>
      if copyOver op then s
      else if op.done < op.upTo then
        (if enginePulse s d e then moveChunk s d e op s.pick else s)
      else
        match e with
        | .core c =>
          (match s.team? d c with
           | none => s
           | some t =>
             if t.lockWaits (.copy op.no) || chunkBehind s d c op op.done (chunkEnd op) then s
             else
               engineUnit s d c .memory (chunkPrice (s.die d) 17 op) (copyUnit c op.no) fun s => openChunk s d e op 0)
        | .die => if launchEnding (s.die d) op.launch then s else poolUnit s d (chunkPrice (s.die d) 18 op) (dieCopyUnit op.no) op.launch fun s =>
            openChunk s d e op (chunkPrice (s.die d) 18 op)) s

/-! ## Completion (R330, R64, 03 Table 3.3) -/

/-- Destination bytes [lo, hi) have all been written: in the parts done, or by pieces of the one under way (R330). -/
def CopyOp.wrote (k : CopyOp) (lo hi : Nat) : Bool :=
  decide (hi ≤ k.done) ||
  (!k.todo.isEmpty && decide (hi ≤ k.partEnd) && k.todo.all fun p => decide (hi ≤ p.1) || decide (p.2 ≤ lo))

/-- The windows that a keep copy from format pages has filled whole take the format's tag, one that it has filled with zeros
beyond the extents among them (02 R63, R64); so do those that it has filled before it ended at a failing run (R330). A window
with bytes of a raw page, or zeros behind them, takes none (R328). -/
def tagWindows (t : Team) (k : CopyOp) : Team :=
  if !k.dsp || k.dec || k.fmtWin.isEmpty then t
  else
    let lo := (k.dst + 2047) / 2048
    (List.range ((k.dst + k.total) / 2048 - lo)).foldl (fun t j =>
      let a := (lo + j) * 2048 - k.dst
      if k.rawWin.contains (lo + j) || !k.wrote a (a + 2048) then t else t.setTag (lo + j) k.shape.fmt) t

/-- The completion of a queue packet's copy: told to its queue's slot by its cause (11 R352). -/
def slotCause (k : CopyOp) : Option Nat := k.err.map (·.1)

/-- A core's copy completes: its windows take their tags, its full bits are set and its entries released; an error is kept
for a CWAIT. -/
def completeCoreCopy (t : Team) (k : CopyOp) : Team :=
  let u := tagWindows t k
  let t1 : Team := match k.err with
    | some (cause, va) => { u with copyErrs := u.copyErrs ++ [{ cgrp := k.cgrp, no := k.no, cause, va, errNo := k.errNo }] }
    | none => if k.feset then u.setGranules k.dst k.total true else u
  { (t1.unlock (.copy k.no)) with copies := t1.copies.filter fun c => c.no ≠ k.no }

/-! ## CPY (R329, R320) -/

/-- Space 0 for a virtual destination, 1 for the scratchpad. -/
def cpyAccess (dsp : Bool) : Nat := accessOf (if dsp then 8 else 7) 4 (if dsp then 1 else 0)

/-- The packet's fields from the eight registers. -/
def cpyReg (ctx : LaneCtx) (o : XOps) (k : Nat) : Nat := (ctx.x.operand 0 (o.rb.toNat + k)).toNat

/-- The copy that a CPY describes, and the fault of the first check of Table 10.8 that it fails. -/
def cpyOp (ctx : LaneCtx) (o : XOps) : Except FaultInfo CopyOp :=
  let w := cpyReg ctx o
  let ctl := w 7
  let shapeFault : Except FaultInfo CopyOp := .error { code := Code.SHAPE, access := cpyAccess false }
  match ctx.t.shapes.find? (Bits.field ctl 0 6) with
  | none => shapeFault
  | some h =>
    let g := Fmt.block h.fmt
    let coord := [w 4, w 5, Bits.field (w 6) 0 16, Bits.field (w 6) 16 16]
    let dec := o.xq.getLsbD 9
    let scf := o.xq.getLsbD 8
    let feset := o.xq.getLsbD 7
    let count := if scf then h.boxOf 0 / g * h.boxOf 1 * h.boxOf 2 * h.boxOf 3 else 0
    let k : CopyOp :=
      { no := ctx.t.copyNo, src := w 0 + w 1 * 2 ^ 32, dst := w 2 + w 3 * 2 ^ 32, dsp := Bits.bit ctl 6, dec,
        dfmt := o.fmt, scf, feset, cgrp := o.bat.toNat, coord, shape := h, scNo := ctx.t.scProd, scCnt := count,
        scFilled := 0, done := 0, err := none, core := ctx.c, q := 0, slot := 0, cmpl := 0, launch := some ctx.t.key }
    if Bits.field ctl 7 1 ≠ 0 || Bits.field ctl 12 20 ≠ 0 || h.coordBad coord then shapeFault
    else if (k.src + coord.getD 0 0 * k.esize / 8 +
        ([1, 2, 3].map fun d => coord.getD d 0 * h.strideOf d).sum) % 16 ≠ 0 || coord.getD 0 0 * k.esize % 8 ≠ 0 ||
        k.dst % 16 ≠ 0 then shapeFault
    else if (feset && !k.dsp) ||
        (scf && (!Fmt.isAsym h.fmt || coord.getD 0 0 % g ≠ 0 || h.boxOf 0 % g ≠ 0 || decide (256 < count))) then shapeFault
    else if k.dsp && decide (ctx.t.scratch < k.dst + k.total) then
      .error { code := Code.XLATE, cause := Cause.OUTSIDE, access := cpyAccess true, va := k.dst }
    else .ok k

/-- One past the last source byte of the box within its extents (04 Table 4.5). -/
def srcEnd (k : CopyOp) : Nat :=
  let n (d : Nat) : Nat := min (k.shape.boxOf d) (k.shape.extOf d - k.coordOf d)
  k.rowVa 0 + spanBytes k.esize (n 0) + ([1, 2, 3].map fun d => (n d - 1) * k.shape.strideOf d).sum

/-- One past the last source byte of the box, in source-address order (R320). -/
def boxEnd (k : CopyOp) : Nat :=
  k.rowVa 0 + spanBytes k.esize (k.shape.boxOf 0) + ([1, 2, 3].map fun d => (k.shape.boxOf d - 1) * k.shape.strideOf d).sum

/-- The shadow span of an .SCF copy, from the box's first element to its last under the descriptor of the page of its first
element; none where that address does not translate or lies on a raw page (R320). -/
def shadowSpan (x : Die) (c : Nat) (k : CopyOp) : Option (Nat × Nat) :=
  match (translateNow x c (k.rowVa 0)).2 with
  | .error _ => none
  | .ok e =>
    match Fmt.ofPage e.leaf.fmt e.leaf.geom, e.desc with
    | some f, some sd =>
      let lo := sd.shadow + scaleBytes f * ((k.rowVa 0 - sd.base) * perByte f / Fmt.block f)
      let hi := sd.shadow + scaleBytes f * (((boxEnd k - sd.base) * perByte f - 1) / Fmt.block f + 1)
      some (lo, hi - lo)
    | _, _ => none

/-- CPY. -/
def execLCpy (o : XOps) (s : State) : Host.Outcome State Fault Refusal :=
  execLane { behindLoads := false } 9 (fun ctx s =>
    match cpyOp ctx o with
    | .error f => .fault f s
    | .ok k =>
      let x := s.die ctx.d
      let shadow := if k.scf then shadowSpan x ctx.c k else none
      let locks :=
        Team.lockOn (.copy k.no) false false (k.rowVa 0) (srcEnd k - k.rowVa 0) ::
        Team.lockOn (.copy k.no) true k.dsp k.dst k.total ::
        (match shadow with | some (lo, n) => [Team.lockOn (.copy k.no) false false lo n] | none => [])
      if 8 ≤ ctx.t.copies.length || !takesLocks x ctx.c ctx.t locks || !ctx.t.scFits k.scCnt then .wait s
      else
        let s1 := drainToS s ctx.d ctx.c (.group ctx.g)
        .done (s1.updTeam ctx.d ctx.c fun t =>
          let u := if k.scf then t.scTake k.scCnt (Bits.field (cpyReg ctx o 7) 8 4) else t
          { u with copies := u.copies ++ [k], copyNo := u.copyNo + 1, locks := u.locks ++ locks })) s

/-! ## CWAIT (R331) -/

/-- What a CWAIT for copy group g finds among the copies accepted before number n. -/
inductive CwaitRes where
  | pending
  | error (e : CopyErr)
  | free
  deriving DecidableEq, Repr

/-- The earliest accepted of a list of errors. -/
def firstErr : List CopyErr → Option CopyErr
  | [] => none
  | e :: r => match firstErr r with | some f => if f.no < e.no then some f else some e | none => some e

def cwaitFinds (t : Team) (g n : Nat) : CwaitRes :=
  if t.copies.any (fun k => k.cgrp = g && decide (k.no < n)) then .pending
  else
    match firstErr (t.copyErrs.filter fun e => e.cgrp = g && decide (e.no < n)) with
    | some e => .error e
    | none => .free

/-- Collected errors are cleared. -/
def clearErrs (t : Team) (g n : Nat) : Team :=
  { t with copyErrs := t.copyErrs.filter fun e => !(e.cgrp = g && decide (e.no < n)) }

/-- CWAIT. -/
def execLCwait (o : XOps) (s : State) : Host.Outcome State Fault Refusal :=
  execLane {} 9 (fun ctx s =>
    let g := o.bat.toNat
    let n := ctx.t.copyNo
    match cwaitFinds ctx.t g n with
    | .free => .done s
    | .error e => .fault (engineFault e.cause g e.va) (s.updTeam ctx.d ctx.c fun t => clearErrs t g n)
    | .pending => ctx.hold s (.copies g n)) s

/-- The CWAITs of a core that have nothing to wait for: each returns, or stops its group with the error it collects. One of
a team that is halted, or with an error in a group that is stopped, returns once they run again. -/
def releaseCwait (s : State) (d c g sl : Nat) : State :=
  match s.team? d c, s.group? d c g with
  | some t, some x =>
    match (x.slot sl).wait with
    | .copies cg n =>
      (match cwaitFinds t cg n with
       | .pending => s
       | .free => completeHeld s d c g sl
       | .error e =>
         let s1 := (s.updTeam d c fun t => clearErrs t cg n).updGroup d c g fun x => x.updSlot sl fun p => { p with wait := .none }
         if x.st = .running then takeLaneFault s1 d c g sl (engineFault e.cause cg e.va) else s)
    | _ => s
  | _, _ => s

def releaseCwaits (s : State) (d c : Nat) : State :=
  match s.team? d c with
  | none => s
  | some t =>
    if t.halted then s
    else (List.range t.groups.length).foldl (fun s g => releaseCwait (releaseCwait s d c g 0) d c g 1) s

end Sys2Proof.Machine
end

