-- ==== Sys2Proof/Machine/Dependence.lean ====
section
/-! DEFINITION. Dependences of a launch (11 R359, 04 R129), DEPWAIT (07 R236), and the words that are no instruction
(06 R180, R197). -/

namespace Sys2Proof.Machine

open Sys2Proof

/-- HEAD of a queue has passed a slot, by low 16 bits (R359). -/
def headPassed (q : Queue) (slot : Nat) : Bool :=
  let delta := (q.head.toNat + 65536 - slot % 65536) % 65536
  decide (1 ≤ delta) && decide (delta ≤ 32768)

/-- The record of the predecessor: of its queue and slot number. -/
def predRecord (x : Die) (q slot : Nat) : Option Dispatched :=
  x.records.find? fun r => r.key.q = q && r.key.slot % 65536 = slot % 65536

/-- The dependence of a packet of die `d` is met: every team of the predecessor has executed LTRIG or retired, or all
have retired where `retired` asks for it. A predecessor in another package is asked by a request on its fabric, and answers with a free value; one
that no link leads to does not (14 R403). A queue of a die that
is absent has no HEAD that passes, so that a dependence on it is not met (log 37); a package queue's launch that was resolved
to another die counts as retired once its HEAD has passed (R359). -/
def depMet (s : State) (p : List Word64) (retired : Bool) : State × Bool :=
  if !Pkt.depv p then (s, true)
  else if Pkt.depx p && Pkt.deppkg p ≠ s.pkg.pkgNo.toNat then
    if !s.pkgRoute (Pkt.deppkg p) then (s, false)
    else
      let f := (s.sendFar (Pkt.deppkg p) (Pkt.depdie p) requestVc
        (.dep (Pkt.deppkg p) (Pkt.depdie p) (Pkt.depq p) (Pkt.depslot p))).takeFree
      (f.2, f.1.getLsbD 0)
  else
    let x := s.die (Pkt.depdie p)
    if !x.present && decide (Pkt.depq p < 1024) then (s, false)
    else if !headPassed (s.queue (Pkt.depdie p) (Pkt.depq p)) (Pkt.depslot p) then (s, false)
    else
      match predRecord x (Pkt.depq p) (Pkt.depslot p) with
      | none => (s, true)
      | some r => (s, if retired then r.retired else r.trig || r.retired)

/-- DEPWAIT (R236): an acquire at .DIE once every predecessor team has retired; a team's writes are performed when it
retires. -/
def execCDepwait (s : State) : Host.Outcome State Fault Refusal :=
  execComposer (fun d c t s =>
    match (s.die d).launch? t.key with
    | none => .next (acquireAt s d c 3)
    | some l =>
      let r := depMet s l.pkt true
      if r.2 then .next (acquireAt r.1 d c 3) else .wait r.1) s

/-- A composer word without an instruction faults GILLOP (06 R180). -/
def execXAbsentComposerOpcode (_ : Word32) (s : State) : Host.Outcome State Fault Refusal :=
  execComposer (fun _ _ _ s => .fault { code := Code.GILLOP } s) s

/-- A lane word of an unallocated opcode faults ILLOP under check 1, whatever strands are active (06 R197). -/
def execXUnallocatedLaneOpcode (_ : Word64) (s : State) : Host.Outcome State Fault Refusal :=
  match s.cur with
  | .lane d c g sl =>
    match s.team? d c, s.group? d c g with
    | some t, some x =>
      if laneReady t x sl then .next (takeLaneFault s d c g sl { code := Code.ILLOP, access := 1 }) else .next s
    | _, _ => .fault .noAgent
  | _ => .fault .noAgent

end Sys2Proof.Machine
end

