-- ==== Sys2Proof/Machine/Queues.lean ====
section
/-! DEFINITION. What the services of a die share: their reads and writes of memory, completion records (11 R365), and
the start and the end of a launch (05 R142, R151; 11 R355, R359, R363). -/

namespace Sys2Proof.Machine

open Sys2Proof

/-! ## Accesses of a die party (04 Table 4.1; log 10) -/

/-- Translation for the dispatcher and Hawker: through the walkers. -/
def translateDie (x : Die) (va : Nat) : Die × Except Nat TlbEntry :=
  let r := walk x va
  (x.putPtrs r.2, r.1)

/-- n bytes read, page by page. -/
def rangeRead (tr : Die → Nat → Die × Except Nat TlbEntry) (d va n : Nat) : Job Nat :=
  Job.bind (Job.each (fun p =>
    Job.bind (jobPage tr d .engineRead p.1 p.2) fun e =>
      Job.bind (jobRead d e p.1 p.2) fun v => Job.ok (v * 2 ^ (8 * (p.1 - va)))) (pagesOf va n)) fun l => Job.ok l.sum

/-- The pages of a range checked for an access. -/
def rangeParts (tr : Die → Nat → Die × Except Nat TlbEntry) (d : Nat) (a : Access) (va n : Nat) : Job Parts :=
  Job.each (fun p => Job.bind (jobPage tr d a p.1 p.2) fun e => Job.ok (p, e)) (pagesOf va n)

/-- n bytes written once every page of them is checked. -/
def rangeWrite (tr : Die → Nat → Die × Except Nat TlbEntry) (d va n v : Nat) : Job Unit :=
  Job.bind (rangeParts tr d .engineWrite va n) fun l =>
    Job.bind (Job.each (fun p => jobWrite d p.2 p.1.1 p.1.2 (Bits.field v (8 * (p.1.1 - va)) (8 * p.1.2))) l) fun _ => Job.ok ()

/-! ## Completion records (R365, Table 11.8) -/

/-- What a completion record says beside its packet's name and the time. -/
structure Completion where
  status : Nat
  cause  : Nat := 0
  energy : Nat := 0
  xcause : Nat := 0
  xcore  : Nat := 0
  deriving DecidableEq, Repr

/-- The record's 32 bytes. -/
def recordBits (s : State) (q slot : Nat) (c : Completion) : Nat :=
  c.status + c.cause * 2 ^ 8 + q * 2 ^ 21 + slot * 2 ^ 32 + c.xcore * 2 ^ 96 + c.xcause * 2 ^ 112 +
    c.energy / 1000000 % 2 ^ 64 * 2 ^ 128 + s.tick * 2 ^ 192

/-- A record written at CMPL: in the die's virtual space, or at a host bus address for a package queue (R357). One
that can not be written is told to firmware, one of a package queue at an address inside an own BAR among them (log 28). -/
def writeRecord (s : State) (d q slot cmpl : Nat) (c : Completion) : State :=
  let v := recordBits s q slot c
  if cmpl = 0 then s
  else if 1024 ≤ q then (if ownBus cmpl 32 then s.postFw (.record d q slot) else hostWrite s cmpl 32 v)
  else
    let r := rangeWrite translateDie d cmpl 32 v s
    match r.2 with
    | .ok _ => r.1
    | .error _ => r.1.postFw (.record d q slot)

/-- A started packet has completed: its queue forgets it and its record is written. -/
def completeSlot (s : State) (d q slot cmpl : Nat) (c : Completion) : State :=
  let x := s.queue d q
  writeRecord (s.setQueue d q { x with started := x.started.filter fun e => e.slot ≠ slot }) d q slot cmpl c

/-- STATUS of a copy packet that has ended with a cause (log 27). -/
def causeStatus (k : Nat) : Nat :=
  if k = Cause.BADPKT then Status.BADPKT else if k = Cause.LINKDOWN then Status.LINKDOWN else Status.ENGINE

/-! ## Launches -/

/-- No launch that is not saved holds or has reserved a core (R355). -/
def coreFree (x : Die) (c : Nat) : Bool := x.launches.all fun l => l.st = .saved || l.teams.all fun t => t.core ≠ c

def freeCells (x : Die) : List Nat := (List.range 32).filter fun n => !(x.cells.getD n {}).used

/-- The rectangle and the span cells of a LAUNCH are free. -/
def roomFor (x : Die) (p : List Word64) : Bool :=
  (Pkt.cores p).all (coreFree x) && decide (Pkt.cells p ≤ (freeCells x).length)

/-- A launch takes its rectangle and its cells. -/
def addLaunch (d : Nat) (k : LKey) (p : List Word64) (st : LState) (s : State) : State :=
  s.updDie d fun x =>
    let cells := (freeCells x).take (Pkt.cells p)
    let l : Launch := { key := k, pkt := p, st, cells, teams := (Pkt.cores p).map fun c => { core := c }, cmpl := Pkt.cmpl p }
    { x with cells := cells.foldl (fun m n => m.set n { used := true }) x.cells, launches := x.launches ++ [l] }

/-- A launch is dispatched: it is recorded (R359). -/
def recordLaunch (d : Nat) (k : LKey) (s : State) : State :=
  s.updDie d fun x => { x with records := ({ key := k, trig := false, retired := false } :: x.records).take 4096 }

/-- A core's team is gone: its tokens are back in the pool (12 R371), its misses cancelled. -/
def dropTeam (s : State) (d c : Nat) : State :=
  (returnBucket s d c).updDie d fun x => { (x.forgetWaits c) with teams := x.teams.erase c, misses := x.misses.filter fun m => m.core ≠ c }

/-- The cells of a launch are free again and its watch entries are disarmed (10 R335). -/
def forgetLaunch (x : Die) (l : Launch) : Die :=
  { x with
    cells := l.cells.foldl (fun m n => m.set n {}) x.cells
    watch := x.watch.filter fun e => e.2.key ≠ l.key
    launches := x.launches.filter fun m => m.key ≠ l.key
    records := x.records.map fun r => if r.key = l.key then { r with trig := true, retired := true } else r }

/-- The packet was posted by a COLL of the launch, on its own die. -/
def CollPkt.ofLaunch (p : CollPkt) (d : Nat) (k : LKey) : Bool :=
  p.opkg.isNone && p.org = d && (match p.src with | .coll _ _ _ l => l = k | _ => false)

/-- The packet was posted for the launch on its own die, by a COLL or by the watch table (10 R335). -/
def CollPkt.forLaunch (p : CollPkt) (d : Nat) (k : LKey) : Bool :=
  p.ofLaunch d k || (p.opkg.isNone && p.org = d && (match p.src with | .watch l => l = k | _ => false))

/-- The collective engine without the launch's packets. -/
def CollEng.forget (c : CollEng) (d : Nat) (k : LKey) : CollEng :=
  { c with queue := c.queue.filter fun p => !p.forLaunch d k
           cur := match c.cur with | some p => if p.forLaunch d k then none else some p | none => none }

/-- What the engines of a die still do for a launch of die `d` that is ended is stopped (11 R363, 13 R382): its copies where
they are its own die's, and its packets. -/
def Die.dropWork (x : Die) (own : Bool) (d : Nat) (k : LKey) : Die :=
  let gone := if own then x.dieCopies.filter fun c => c.launch = some k else []
  let idle : Bool := match x.coll.cur with | some p => p.forLaunch d k | none => false
  { x with
    coll := x.coll.forget d k
    dieCopies := x.dieCopies.filter fun c => !gone.contains c
    power := { x.power with waited := x.power.waited.filter fun u =>
      !(gone.any fun c => dieCopyUnit c.no = u) && !(idle && u = collUnit) } }

/-- The engine errors of a team that no wait has collected: each with its place in the order of the die's, and its cause. -/
def Team.uncollected (t : Team) : List (Nat × Nat) :=
  (t.copyErrs.map fun e => (e.errNo, e.cause)) ++ (t.batches.filterMap fun b => b.err.map fun k => (b.errNo, k)) ++
  t.groups.filterMap fun g => g.pend.err.map fun k => (g.pend.errNo, k)

/-- They are told to the launch of the team of core c. -/
def Launch.keepTeam (l : Launch) (c : Nat) (t : Team) : Launch := t.uncollected.foldl (fun l e => l.keepErr e.1 c e.2) l

/-- A launch ends: what it still holds is discarded, what the die engines still do for one that has not succeeded stops, and
its record is written, 0x13 ENGINE for an uncollected engine error of a launch that succeeded otherwise (05 R151). -/
def endLaunch (s : State) (d : Nat) (k : LKey) (status cause : Nat) : State :=
  match (s.die d).launch? k with
  | none => s
  | some l0 =>
    let l := (((s.die d).teams.filter fun e => e.2.key = k) ++ l0.saved).foldl (fun l e => l.keepTeam e.1 e.2) l0
    let s1 := l.teams.foldl (fun s t =>
      if (s.team? d t.core).map (·.key) = some k then dropTeam s d t.core else s) s
    let s2 := s1.updDie d fun x => forgetLaunch x l
    let s3 := if status = 0 then s2 else { s2 with dies := s2.dies.zipIdx.map fun e => e.1.dropWork (e.2 = d) d k }
    completeSlot s3 d k.q k.slot l.cmpl
      { status := if status = 0 && l.xerr.isSome then Status.ENGINE else status, cause := if cause = 0 then l.cause else cause
        energy := l.energy
        xcause := (l.xerr.map (·.2.2)).getD 0, xcore := (l.xerr.map (·.2.1)).getD 0 }

/-! ## The completion of a copy (10 R330, R331) -/

/-- COPY_COMPLETION: the k-th copy of an engine, if it is over; the CWAITs of a core that wait for none return. A copy that the
watch table has posted writes no record, whatever its CMPL (DESIGN CHOICE, log 45). -/
def execECopyCompletion (e : CopyEng) (k : Nat) (s : State) : Host.Outcome State Fault Refusal :=
  execEvent (fun d s =>
    let others (s : State) : State := match e with | .core c => releaseCwaits s d c | .die => s
    match (copiesOf s d e)[k]? with
    | none => others s
    | some op =>
      if !copyOver op then others s
      else
        match e with
        | .core c => releaseCwaits (s.updTeam d c fun t => completeCoreCopy t op) d c
        | .die =>
          let s1 := updCopies s d e fun l => l.filter fun c => c.no ≠ op.no
          match op.launch, op.err with
          | some key, some (cause, _) => s1.updDie d fun x => x.updLaunch key fun l => l.keepErr op.errNo op.core cause
          | some _, none => s1
          | none, err =>
            let cause := (err.map (·.1)).getD 0
            completeSlot s1 d op.q op.slot op.cmpl
              { status := if err.isSome then causeStatus cause else 0, xcause := cause, energy := op.energy }) s

end Sys2Proof.Machine
end

