-- ==== Sys2Proof/Machine/Collective.lean ====
section
/-! DEFINITION. The watch table's instructions CTRIG and CDISARM (10 R334 to R336), COLL (R342), and the collective
engine: choosing chunks, acting hops, and writing completion words (R337 to R345). -/

namespace Sys2Proof.Machine

open Sys2Proof

/-! ## A 64-byte item read as a load of one strand -/

/-- ACCESS of that load. -/
def itemAccess : Nat := accessOf 0 6 0

/-- The item at an address, checked and read as a load (R334, R342); `k` goes on with its 64 bytes. -/
def withItem (ctx : LaneCtx) (s : State) (va : Nat) (k : Nat → State → LRes) : LRes :=
  let r := checkGlobal ctx s .load 64 1 va itemAccess
  match r.2 with
  | .miss => .wait r.1
  | .bad f => .fault f r.1
  | .ok e =>
    if ctx.t.lockHit false false va 64 then .fault (lockFault itemAccess va) r.1
    else
      let u : LUnit := { strand := 0, part := 0, loc := locAt r.1 ctx.d e va, va, n := 64, l1 := min 2 e.leaf.cache, ll := engineLl e.leaf }
      match serveGlobal r.1 ctx.d ctx.c ctx.t (.group ctx.g) { i := .lNop {}, slot := ctx.sl, mask := 0, units := [u], no := ctx.t.issues } u with
      | .notYet => .wait r.1
      | .locked => .wait r.1
      | .failed c s1 => .fault (laneCause c itemAccess va 0) s1
      | .got v s1 => k v s1

/-! ## CTRIG and CDISARM -/

/-- Uniform register RB + k. -/
def rbReg (ctx : LaneCtx) (o : XOps) (k : Nat) : Nat := (ctx.x.operand 0 (o.rb.toNat + k)).toNat

def rbPair (ctx : LaneCtx) (o : XOps) (k : Nat) : Nat := rbReg ctx o k + rbReg ctx o (k + 1) * 2 ^ 32

/-- A write-permitted peer page under an address: the watch table refuses it as DEVICEKIND. -/
def onPeerPage (x : Die) (c va : Nat) : Bool :=
  match (translateNow x c va).2 with
  | .ok e => e.leaf.peer && e.leaf.w
  | .error _ => false

/-- The lowest free entry of the watch table. -/
def freeWatch (x : Die) : Option Nat := (List.range 64).find? fun k => (x.watch.find? k).isNone

/-- An entry armed; the watched location is read once at its home slice, with its page's treatment (03 R100), and the entry
fires where its compare already holds. -/
def armWatch (s : State) (d k treat : Nat) (w : Watch) : State :=
  let s1 := (updHome s d fun x => (x.homeRead w.pa w.len treat).1).updDie d fun x => { x with watch := x.watch.insert k w }
  if w.holds (s1.die d) then
    let r := fire s1 d k w
    fireAll r.2 r.1
  else s1

/-- CTRIG (R334). The watched location is read behind the writes to it that the core or the crossbar of its cluster has on their
way (03 R90, 04 R110). -/
def execLCtrig (o : XOps) (s : State) : Host.Outcome State Fault Refusal :=
  execLane { behindLoads := false } 9 (fun ctx s =>
    let ctl := rbReg ctx o 6
    if Bits.field ctl 1 15 ≠ 0 || Bits.field ctl 26 6 ≠ 0 || rbReg ctx o 7 ≠ 0 then .fault { code := Code.SHAPE } s
    else
      let wide := Bits.bit ctl 0
      let n := if wide then 8 else 4
      let va := rbPair ctx o 0
      let acc := accessOf 2 (Bits.log2 n) 0
      if va % n = 0 && onPeerPage (s.die ctx.d) ctx.c va then .fault (laneCause Cause.DEVICEKIND acc va 0) s
      else
        let r := checkGlobal ctx s .atomic n 1 va acc
        match r.2 with
        | .miss => .wait r.1
        | .bad f => .fault f r.1
        | .ok e =>
          withItem ctx r.1 (rbPair ctx o 4) fun item s1 =>
            let set (v : Word32) (s : State) : State := s.updGroup ctx.d ctx.c ctx.g fun x => x.setW (o.ra.toNat - 192) v
            match e.loc va, freeWatch (s1.die ctx.d) with
            | .hbm pa, some k =>
              if ctx.t.inQueue (.group ctx.g) ctx.t.issues (.hbm pa) n || xbarHolds (s1.die ctx.d) ctx.c (.hbm pa) n then .wait s1
              else if (s1.die ctx.d).isBad pa n then
                .fault (laneCause Cause.UE acc va 0) (reportUe (updHome s1 ctx.d fun x => (x.homeRead pa n (engineLl e.leaf)).1) ctx.d)
              else
              .done (set (BitVec.ofNat 32 k) (armWatch s1 ctx.d k (engineLl e.leaf)
                { pa, wide, cmp := Bits.field o.xq.toNat 0 2, value := rbPair ctx o 2, item := pktOfNat item,
                  q := Bits.field ctl 16 10, core := ctx.c, key := ctx.t.key }))
            | _, _ => .done (set (BitVec.allOnes 32) s1)) s

/-- CDISARM (R336). -/
def execLCdisarm (o : XOps) (s : State) : Host.Outcome State Fault Refusal :=
  execLane {} 9 (fun ctx s =>
    let w := rbReg ctx o 0
    if 64 ≤ w then .fault { code := Code.SHAPE } s
    else
      .done (s.updDie ctx.d fun x =>
        match x.watch.find? w with
        | some e => if e.key = ctx.t.key then { x with watch := x.watch.erase w } else x
        | none => x)) s

/-! ## The route of a packet -/

/-- The hop acts on die `d` of this package; MCAST ignores DIE (Table 10.14). -/
def hopHere (s : State) (d : Nat) (h : Hop) : Bool := h.pkg = s.pkg.pkgNo.toNat && (h.die = d || h.op = 6)

/-- Hops that have not acted. -/
def CollPkt.left (p : CollPkt) : List Hop := (List.range (collNhop p.pkt - p.done)).map fun i => hopOf p.pkt (p.done + i)

/-- The hops that act here before the packet leaves. -/
def hopsHere (s : State) (d : Nat) (p : CollPkt) : List Hop := p.left.takeWhile (hopHere s d)

/-- The first remaining hop on another die. -/
def nextNode (s : State) (d : Nat) (p : CollPkt) : Option Hop := (p.left.dropWhile (hopHere s d)).head?

/-- A die of the package that a packet of die `d` can reach. -/
def dieReached (s : State) (d e : Nat) : Bool := (s.die e).present && (s.die e).enabled && s.dieRoute d e

/-- The link by which a packet from die `d` reaches die `e` over the third die, where their own link is down (R345). -/
def detourLink (s : State) (d e : Nat) : Option Nat :=
  if s.dieLinkUp d e then none else some (State.dieLink (3 - d - e) e)

/-- Packets under way to die `e` of which `f` holds, of the die that each leaves. -/
def comingTo (s : State) (e : Nat) (f : Nat → CollPkt → Bool) : List Nat :=
  (List.range s.dies.length).filter fun d =>
    match (s.die d).coll.cur with
    | some p => d ≠ e && f d p &&
        (match nextNode s d p with | some h => h.pkg = s.pkg.pkgNo.toNat && h.die = e | none => false)
    | none => false

/-- Staging slots of a VC taken at die `e`: by packets that have arrived, and by those under way to it by their own link
(R343). -/
def stagedAt (s : State) (e vc : Nat) : Nat :=
  let c := (s.die e).coll
  let here := (c.queue ++ c.cur.toList).filter fun p => p.arrived && p.detour.isNone && collVc p.pkt = vc
  here.length + (comingTo s e fun d p => (detourLink s d e).isNone && collVc p.pkt = vc).length

/-- No write that was ordered before the packet may still be on its way when its payload is read: none of the issuing group
(R342), none of the core to the payload's bytes, whatever address named them (04 R118), and none that the core may have seen at
.CLU. -/
def payloadReady (s : State) (d : Nat) (p : CollPkt) : Bool :=
  match p.src with
  | .coll c g _ key =>
    p.read ||
    (match s.team? d c with
     | some t =>
       let x := s.die d
       let free (l : Loc) (n : Nat) : Bool := t.ts.all fun w => !w.touches l n
       t.key ≠ key ||
       ((t.sq ++ t.ts).all (fun w => w.party ≠ .group g || decide (p.issue ≤ w.no)) && clusterHome x c &&
        (pagesOf (collSrcv p.pkt) (collLen p.pkt)).all fun q =>
          match (translateColl x q.1).2 with
          | .ok e => free (locAt s d e q.1) q.2
          | .error _ => true)
     | none => true)
  | _ => true

/-- The packet waits for an entry of an earlier operation of its core that conflicts with its own (04 R126). -/
def collConflicts (s : State) (d : Nat) (p : CollPkt) : Bool :=
  match p.src with
  | .coll c _ no key => (match s.team? d c with | some t => t.key = key && t.lockWaits (.coll no) | none => false)
  | _ => false

/-- The packet's launch is being pre-empted or is saved (13 Table 13.4). -/
def collHeld (s : State) (d : Nat) (p : CollPkt) : Bool :=
  (s.die d).launches.any fun l => (l.st = .stopping || l.st = .saved) && p.ofLaunch d l.key

/-- Reserved slots of a link taken at die `e` by packets that came over the third die. -/
def detoured (s : State) (e link : Nat) : Nat :=
  let c := (s.die e).coll
  ((c.queue ++ c.cur.toList).filter fun p => p.detour = some link).length + (comingTo s e fun d _ => detourLink s d e = some link).length

/-- A hop that contributes to a node's memory (Table 10.14). -/
def Hop.reduces (h : Hop) : Bool := decide (1 ≤ h.op) && decide (h.op ≤ 4)

/-- A communicator whose oldest packet this is is ready (R343): the next node has room for it, a staging slot of its VC, or
where it must come over the third die one of the 4 slots reserved on the link (R345). A packet that may not act at all, since its
launch is being stopped or is saved, or an earlier operation of its core holds a conflicting range (04 R126), leaves its turn to
the other communicators (DESIGN CHOICE, log 46); one whose payload is not yet to be read is chosen and waited for. -/
def collReady (s : State) (d : Nat) (p : CollPkt) : Bool :=
  !collHeld s d p && !collConflicts s d p &&
  (p.lost || match nextNode s d p with
   | some h =>
     if h.pkg = s.pkg.pkgNo.toNat && dieReached s d h.die then
       (match detourLink s d h.die with
        | none => decide (stagedAt s h.die (collVc p.pkt) < 8)
        | some k => decide (detoured s h.die k < 4))
     else true
   | none => true)

/-! ## Ends -/

def updColl (s : State) (d : Nat) (f : CollEng → CollEng) : State := s.updDie d fun x => { x with coll := f x.coll }

/-- The engine works on no packet, and waits for no tokens (12 R372). -/
def leaveColl (s : State) (d : Nat) : State := updColl (noWait s d collUnit) d fun c => { c with cur := none }

/-- A packet has ended: its origin writes the completion word (R342). -/
def endColl (s : State) (d : Nat) (p : CollPkt) (cause hop : Nat) : State :=
  let s1 := leaveColl s d
  match p.opkg with
  | some k => s1.sendFar k p.org responseVc (.collEnd k p.org { p, cause, hop })
  | none => updColl s1 p.org fun c => { c with finished := c.finished ++ [{ p, cause, hop }] }

/-- The packet under way has no further hop here: it has ended, or travels on (R340, R345). One that succeeds ends with hop 0
(DESIGN CHOICE, log 45). -/
def travel (s : State) (d : Nat) (p : CollPkt) : State :=
  match p.left with
  | [] => endColl s d p 0 0
  | h :: _ =>
    if p.lost then endColl s d p Cause.LINKDOWN p.done
    else if h.pkg = s.pkg.pkgNo.toNat then
      if dieReached s d h.die then
        updColl (leaveColl s d) h.die fun c =>
          { c with queue := c.queue ++ [{ p with arrived := true, detour := detourLink s d h.die }] }
      else endColl s d p Cause.LINKDOWN p.done
    else if s.pkgRoute h.pkg then
      let s1 := (leaveColl s d).sendFar h.pkg h.die (2 + collVc p.pkt) (.coll h.pkg h.die p)
      if p.opkg.isSome then s1 else updColl s1 p.org fun c => { c with away := c.away ++ [p] }
    else endColl s d p Cause.LINKDOWN p.done

/-- The packet under way after a hop: the next hop acts here, or the packet travels on. -/
def proceed (s : State) (d : Nat) (p : CollPkt) : State :=
  if (hopsHere s d p).isEmpty then travel s d p else updColl s d fun c => { c with cur := some p }

/-! ## COLLECTIVE_CHUNK_SELECT (R343) -/

/-- The oldest packet of each communicator. -/
def commHeads (l : List CollPkt) : List CollPkt :=
  l.foldl (fun acc p => if acc.any (fun q => collComm q.pkt = collComm p.pkt) then acc else acc ++ [p]) []

/-- The packet of highest priority, ties to the lower communicator. -/
def bestColl : List CollPkt → Option CollPkt
  | [] => none
  | p :: r =>
    match bestColl r with
    | none => some p
    | some q =>
      if collPrio q.pkt < collPrio p.pkt || (collPrio q.pkt = collPrio p.pkt && decide (collComm p.pkt < collComm q.pkt)) then some p
      else some q

/-- The launch that a packet's tokens count for, on the packet's origin die in this package (11 R363). -/
def CollPkt.key (p : CollPkt) : Option LKey :=
  match p.src with
  | .coll _ _ _ key => if p.opkg.isNone then some key else none
  | .watch key => if p.opkg.isNone then some key else none
  | .queue _ _ => none

/-- The chosen packet starts: where its payload is still to be read at the origin, granule by granule, that comes before its
hops (04 Table 4.4). -/
def startChunk (s : State) (d : Nat) (p : CollPkt) : State :=
  if p.read then proceed (updColl s d fun c => { c with cur := some p }) d p
  else
    let n := collLen p.pkt
    let q := { p with payload := List.replicate n 0, todo := (granulesOf (collSrcv p.pkt) n).map fun g => (d, g.1, g.2) }
    updColl s d fun c => { c with cur := some q }

/-- The bytes of a list from the k-th on replaced. -/
def putBytes (l : List Byte) (k : Nat) (b : List Byte) : List Byte := l.take k ++ b ++ l.drop (k + b.length)

/-- A granule of the payload read, the one of those left that the turn picks (04 R107; log 1); with the last one the hops
act. -/
def readPayload (s : State) (d : Nat) (p : CollPkt) : State :=
  match p.todo[s.pick % p.todo.length]? with
  | none => let q := { p with read := true }; proceed (updColl s d fun c => { c with cur := some q }) d q
  | some g =>
    let r := rangeRead translateColl d g.2.1 g.2.2 s
    match r.2 with
    | .error e => endColl r.1 d p e.1 0xFF
    | .ok v =>
      let left := p.todo.erase g
      let q := { p with payload := putBytes p.payload (g.2.1 - collSrcv p.pkt) (Bits.toBytes g.2.2 v), todo := left, read := left.isEmpty }
      if left.isEmpty then proceed (updColl r.1 d fun c => { c with cur := some q }) d q
      else updColl r.1 d fun c => { c with cur := some q }

/-- COLLECTIVE_CHUNK_SELECT: the engine reads on in the payload of the packet under way, once it may be read, or chooses the next
packet. A round lasts until every ready communicator has been served in it, over times in which none is ready too (DESIGN CHOICE,
log 46). -/
def execECollectiveChunkSelect (s : State) : Host.Outcome State Fault Refusal :=
  execEvent (fun d s =>
    let c := (s.die d).coll
    match c.cur with
    | some p => if p.read || !payloadReady s d p then s else readPayload s d p
    | none =>
      let heads := (commHeads c.queue).filter (collReady s d)
      let fresh := heads.filter fun p => !c.served.contains (collComm p.pkt)
      let newRound := fresh.isEmpty
      match bestColl (if newRound then heads else fresh) with
      | none => s
      | some p =>
        startChunk (updColl s d fun c =>
          { c with queue := c.queue.erase p, served := (if newRound then [] else c.served) ++ [collComm p.pkt] }) d p) s

/-! ## Hops (R338, R340, R341, Table 10.14) -/

/-- The cause for which a hop of any operation fails at a node whatever its slot holds: the communicator is not in use there
or bound to another VC, or the slot is beyond its table (R340, R344). Where it is bound to another VC and the slot is beyond
its table too, the cause is 21 (DESIGN CHOICE, log 45). -/
def bindFails (x : Die) (p : List Word64) (h : Hop) : Option Nat :=
  let c := collComm p
  if !commValid x c then some Cause.NOSLOT
  else if commVc x c ≠ collVc p then some Cause.BADPKT
  else if commNslm1 x c < h.arg then some Cause.NOSLOT
  else none

/-- The span that a hop names at a node and how it is accessed, from the communicator and the slot descriptor. Bits [255:192] of
the descriptor are not looked at (DESIGN CHOICE, log 45). -/
def slotSpan (e : Nat) (p : List Word64) (h : Hop) : Job (Nat × Nat × Access) := fun s =>
  let x := s.die e
  let c := collComm p
  match bindFails x p h with
  | some k => (s, .error (k, 0))
  | none =>
    Job.bind (rangeRead translateColl e (commBase x c + 32 * h.arg) 32) (fun v =>
      let sig := Bits.field v 128 64
      let n := if h.op = 2 then 2 * collLen p else collLen p
      if h.op = 7 then if sig = 0 then Job.fail Cause.NOSLOT 0 else Job.ok (sig, 8, .atomic)
      else if Bits.field v 96 32 = 0 || decide (Bits.field v 64 32 < collOff p + n) then Job.fail Cause.NOSLOT 0
      else Job.ok (Bits.field v 0 64 + collOff p, n, if h.op = 5 || h.op = 6 then .engineWrite else .atomic)) s

/-- Part of a span whose data a reduction would find uncorrectable (13 R388). -/
def partBad (s : State) (d : Nat) (p : (Nat × Nat) × TlbEntry) : Bool :=
  match (siteOf s d (p.2.loc p.1.1) p.1.2 .atomic (.read p.1.2)).2 with
  | .ok (.at e (.hbm pa) _) => (s.die e).isBad pa p.1.2
  | _ => false

/-- A hop's span at a node, every page of it checked, and for a reduction its data; the pieces in which it acts. -/
def planHop (p : List Word64) (h : Hop) (e : Nat) : Job (List (Nat × Nat × Nat)) :=
  Job.bind (slotSpan e p h) fun v =>
    Job.bind (rangeParts translateColl e v.2.2 v.1 v.2.1) fun l => fun s =>
      if (h.reduces || h.op = 7) && l.any (partBad s e) then (reportUe s e, .error (Cause.UE, 0))
      else (s, .ok ((if h.op = 7 then [(v.1, 8)] else granulesOf v.1 v.2.1).map fun g => (e, g.1, g.2)))

/-- The operation of RED.CU that a hop contributes with (06 Table 6.11). -/
def hopRed (op : Nat) : Nat := if op = 3 then 1 else if op = 4 then 2 else 8

/-- F32 element k of the payload, BF16 widened exactly. -/
def hopElem (op : Nat) (data : Nat) (k : Nat) : Nat :=
  if op = 2 then Bits.field data (16 * k) 16 * 65536 else Bits.field data (32 * k) 32

/-- Job on the location of an address at a node. -/
def atAddr (e : Nat) (a : Access) (va n : Nat) (f : State → Leaf → Loc → State × Option Nat) : Job Unit :=
  Job.bind (jobPage translateColl e a va n) fun t => fun s =>
    let r := f s t.leaf (t.loc va)
    match r.2 with
    | some k => (r.1, .error (k, va))
    | none => (r.1, .ok ())

/-- A piece of a hop's effect at a node: `first` is the address of its span's first byte there. -/
def actPiece (p : CollPkt) (h : Hop) (first : Nat) (q : Nat × Nat × Nat) : Job Unit := fun s =>
  let data := Bits.ofBytes p.payload
  let va := q.2.1
  let n := q.2.2
  if h.op = 7 then
    atAddr q.1 .atomic va 8 (fun s l loc =>
      let r := rmwAt s q.1 loc 0 Fmt.N64 8 1 0 (engineLl l)
      (r.1, match r.2 with | .ok _ => none | .error k => some k)) s
  else if h.op = 5 || h.op = 6 then
    atAddr q.1 .engineWrite va n (fun s l loc => writeAt s q.1 loc n (Bits.field data (8 * (va - first)) (8 * n)) (engineLl l) .engineWrite) s
  else
    let hp := p.opkg.getD s.pkg.pkgNo.toNat
    Job.bind (Job.each (fun k => atAddr q.1 .atomic (va + 4 * k) 4 fun s l loc =>
      contributeBy s q.1 hp p.org 256 loc (hopRed h.op) Fmt.F32 (hopElem h.op data ((va - first) / 4 + k)) (engineLl l) (some (collSeq p.pkt)))
        (List.range (n / 4)))
      (fun _ => Job.ok ()) s

/-- The core dies that a hop acts on. An MCAST passes over a die that is absent or disabled (log 43). -/
def hopDies (s : State) (d : Nat) (h : Hop) : List Nat :=
  if h.op = 6 then (List.range s.dies.length).filter fun e => (s.die e).present && (s.die e).enabled else [d]

/-- A hop begins: every node is checked before any is written. A die that is absent, disabled or out of reach, the packet's own
among them, is LINKDOWN (R340). -/
def planAll (d : Nat) (p : CollPkt) (h : Hop) : Job (List (Nat × Nat × Nat)) := fun s =>
  if (hopDies s d h).any (fun e => !dieReached s d e) then (s, .error (Cause.LINKDOWN, 0))
  else if h.op = 0 then
    (match bindFails (s.die d) p.pkt h with
     | some k => (s, .error (k, 0))
     | none => (s, .ok []))
  else
    Job.bind (Job.each (planHop p.pkt h) (hopDies s d h)) (fun l => Job.ok l.flatten) s

/-- The first address of a begun hop's span at a node, as the slot descriptor gave it when the hop began (R338). -/
def CollPkt.spanAt (p : CollPkt) (e : Nat) : Nat := ((p.first.find? fun f => f.1 = e).map (·.2)).getD 0

/-- A hop begins: its spans are fixed, and it acts on their pieces. -/
def CollPkt.begin (p : CollPkt) (nodes : List Nat) (l : List (Nat × Nat × Nat)) : CollPkt :=
  { p with begun := true, todo := l, first := nodes.filterMap fun e => (l.find? fun q => q.1 = e).map fun q => (e, q.2.1) }

/-- What a deposit has written whole is correct again (13 R388). -/
def healHop (s : State) (d : Nat) (p : CollPkt) (h : Hop) : State :=
  if h.op = 5 || h.op = 6 then
    (hopDies s d h).foldl (fun s e => (healSpan translateColl e (p.spanAt e) (collLen p.pkt) s).1) s
  else s

/-- The hop of the packet under way has acted on every piece. -/
def hopDone (s : State) (d : Nat) (p : CollPkt) : State :=
  proceed s d { p with done := p.done + 1, begun := false, todo := [], first := [] }

/-- Price of a hop of a packet: one chunk (12 Table 12.3). -/
def hopPrice (x : Die) (p : CollPkt) : Nat := x.priceOf 19 * ((collLen p.pkt + 127) / 128)

/-- The next hop of the packet under way, where it is of the operation: it begins, is checked and charged, and then acts on
the piece left that the turn picks (04 R107, R120; log 1). -/
def hopEvent (op : Nat) (s : State) : Host.Outcome State Fault Refusal :=
  execEvent (fun d s =>
    match (s.die d).coll.cur with
    | none => s
    | some p =>
      match hopsHere s d p with
      | [] => s
      | h :: _ =>
        if h.op ≠ op || !p.read then s
        else if !p.begun then
          poolUnitFor s d p.org (hopPrice (s.die d) p) collUnit p.key fun s =>
            let r := planAll d p h s
            match r.2 with
            | .ok [] => hopDone r.1 d p
            | .ok l => updColl r.1 d fun c => { c with cur := some (p.begin (hopDies s d h) l) }
            | .error e => endColl r.1 d p e.1 p.done
        else
          match p.todo[s.pick % p.todo.length]? with
          | none => hopDone s d p
          | some q =>
            let r := actPiece p h (p.spanAt q.1) q s
            let left := p.todo.erase q
            match r.2 with
            | .ok _ => if left.isEmpty then hopDone (healHop r.1 d p h) d p else updColl r.1 d fun c => { c with cur := some { p with todo := left } }
            | .error e => endColl r.1 d p e.1 p.done) s

def execEHopFwd (s : State) : Host.Outcome State Fault Refusal := hopEvent 0 s
def execEHopRedaddF32 (s : State) : Host.Outcome State Fault Refusal := hopEvent 1 s
def execEHopRedaddBf16 (s : State) : Host.Outcome State Fault Refusal := hopEvent 2 s
def execEHopMin (s : State) : Host.Outcome State Fault Refusal := hopEvent 3 s
def execEHopMax (s : State) : Host.Outcome State Fault Refusal := hopEvent 4 s
def execEHopDeposit (s : State) : Host.Outcome State Fault Refusal := hopEvent 5 s
def execEHopMcast (s : State) : Host.Outcome State Fault Refusal := hopEvent 6 s
def execEHopSignal (s : State) : Host.Outcome State Fault Refusal := hopEvent 7 s

/-! ## COLLECTIVE_COMPLETION (R342) -/

/-- The team of a launch at a core changed, whether it is resident or saved (13 R391). -/
def updTeamOf (s : State) (d : Nat) (key : LKey) (c : Nat) (f : Team → Team) : State :=
  match s.team? d c with
  | some t => if t.key = key then s.updTeam d c f else saved s
  | none => saved s
where
  saved (s : State) : State := s.updDie d fun x => x.updLaunch key fun l =>
    { l with saved := l.saved.map fun e => if e.1 = c then (e.1, f e.2) else e }

/-- The queue whose work posted a packet. -/
def CollPkt.ofQueue (p : CollPkt) : Nat :=
  match p.src with
  | .coll _ _ _ k | .watch k => k.q
  | .queue q _ => q

/-- The completion word of an ended packet written at its origin `d`, and what it held released. -/
def finishColl (s : State) (d : Nat) (e : CollDone) : State :=
  let word := e.cause % 256 + e.hop % 256 * 2 ^ 8 + collSeq e.p.pkt * 2 ^ 32
  let r := rangeWrite translateColl d (collCmpv e.p.pkt) 8 word s
  let s1 := match r.2 with
    | .ok _ => r.1
    | .error _ => r.1.postFw (.collective d e.p.ofQueue e.p.pkt)
  match e.p.src with
  | .coll c _ no key => updTeamOf s1 d key c fun t => t.unlock (.coll no)
  | .queue q slot =>
    let x := s1.queue d q
    s1.setQueue d q { x with started := x.started.filter fun e => e.slot ≠ slot }
  | .watch _ => s1

/-- The oldest ended packet of the die is completed. The outcome of a packet that acts in another package is a free
value (log 26). -/
def execECollectiveCompletion (s : State) : Host.Outcome State Fault Refusal :=
  execEvent (fun d s =>
    let c := (s.die d).coll
    match c.finished, c.away with
    | e :: r, _ => finishColl (updColl s d fun c => { c with finished := r }) d e
    | [], p :: r =>
      let f := s.takeFree
      finishColl (updColl f.2 d fun c => { c with away := r }) d
        { p, cause := f.1.toNat % 256, hop := f.1.toNat / 256 % 256 }
    | [], [] => s) s

/-! ## COLL (R342) -/

/-- The write span of COLL's range-lock entry, from the first hop here that writes memory. -/
def collWriteSpan (s : State) (d : Nat) (p : CollPkt) : State × Option (Nat × Nat) :=
  match p.left.find? (fun h => hopHere s d h && h.op ≠ 0) with
  | none => (s, none)
  | some h =>
    let r := slotSpan d p.pkt h s
    match r.2 with
    | .ok (va, n, _) => (r.1, some (va, n))
    | .error _ => (r.1, none)

/-- COLL. The completion word of a malformed packet, which is not posted, has hop 0 (DESIGN CHOICE, log 45), as has that of a
packet that succeeds (`travel`). -/
def execLColl (o : XOps) (s : State) : Host.Outcome State Fault Refusal :=
  execLane { behindLoads := false } 9 (fun ctx s =>
    withItem ctx s (rbPair ctx o 0) fun item s1 =>
      let pkt := pktOfNat item
      let p : CollPkt := { pkt, src := .coll ctx.c ctx.g ctx.t.collNo ctx.t.key, org := ctx.d, issue := ctx.t.issues }
      let count (t : Team) : Team := { t with collNo := t.collNo + 1 }
      if collMalformed (s1.die ctx.d) pkt then
        .done (updColl (s1.updTeam ctx.d ctx.c count) ctx.d fun c =>
          { c with finished := c.finished ++ [{ p, cause := Cause.BADPKT, hop := 0 }] })
      else
        let w := collWriteSpan s1 ctx.d p
        let own : LockOwner := .coll ctx.t.collNo
        let locks := Team.lockOn own false false (collSrcv pkt) (collLen pkt) ::
          (match w.2 with | some (va, n) => [Team.lockOn own true false va n] | none => [])
        if !takesLocks (s1.die ctx.d) ctx.c ctx.t locks then .wait w.1
        else
          .done (updColl ((drainToS w.1 ctx.d ctx.c (.group ctx.g)).updTeam ctx.d ctx.c fun t =>
            { count t with locks := t.locks ++ locks }) ctx.d fun c => { c with queue := c.queue ++ [p] })) s

/-- A COLL of a core has not completed (05 R151). -/
def collsOut (s : State) (d c : Nat) (key : LKey) : Bool :=
  s.dies.any fun x =>
    (x.coll.queue ++ x.coll.cur.toList ++ x.coll.away ++ x.coll.finished.map (·.p)).any fun p =>
      p.opkg.isNone && p.org = d && (match p.src with | .coll k _ _ l => k = c && l = key | _ => false)

end Sys2Proof.Machine
end

