-- ==== Sys2Proof/Machine/ComposerAlu.lean ====
section
/-! DEFINITION. Composer integer and field instructions (07 R208, R209, Table 7.2) and branches and jumps (06 R178,
07 R214). They never fault, but for a JALR to a target that is not 4-byte aligned. -/

namespace Sys2Proof.Machine

open Sys2Proof

/-! ## Shared effects -/

/-- g(d) := f (g(a)) (g(b)). -/
def aluRR (f : Word64 → Word64 → Word64) (d a b : BitVec 5) (s : State) : Host.Outcome State Fault Refusal :=
  execComposer (fun dd c t s =>
    .next (s.updComp dd c fun k => k.setReg d (f (t.comp.reg a) (t.comp.reg b)))) s

/-- g(d) := f (g(a)). -/
def aluR (f : Word64 → Word64) (d a : BitVec 5) (s : State) : Host.Outcome State Fault Refusal :=
  execComposer (fun dd c t s => .next (s.updComp dd c fun k => k.setReg d (f (t.comp.reg a)))) s

/-- The truth value a comparison writes. -/
def truth (b : Bool) : Word64 := if b then 1 else 0

/-- Bits [127:64] of the signed product (Table 7.2). -/
def mulHigh (x y : Word64) : Word64 := BitVec.ofInt 64 (x.toInt * y.toInt / 2 ^ 64)

def divU (x y : Word64) : Word64 := if y = 0 then BitVec.allOnes 64 else x / y
def remU (x y : Word64) : Word64 := if y = 0 then x else x % y

/-- Shifts by g(b)[7:0]; a count of 64 or more gives 0, or copies of the sign bit (R208). -/
def shlR (x y : Word64) : Word64 := x <<< (y.toNat % 256)
def shrR (x y : Word64) : Word64 := x >>> (y.toNat % 256)
def sraR (x y : Word64) : Word64 := x.sshiftRight (y.toNat % 256)

def minS (x y : Word64) : Word64 := if x.toInt ≤ y.toInt then x else y
def maxS (x y : Word64) : Word64 := if x.toInt ≤ y.toInt then y else x

/-- The field of len bits at pos of `old` replaced by the low bits of `x` (R209). -/
def insertField (old x : Word64) (pos len : Nat) : Word64 :=
  let mask : Word64 := (BitVec.allOnes 64 >>> (64 - len)) <<< pos
  (old &&& ~~~mask) ||| ((x <<< pos) &&& mask)

/-- The field of len bits at pos, zero-extended (R209). -/
def extractField (x : Word64) (pos len : Nat) : Word64 :=
  (x >>> pos) &&& (BitVec.allOnes 64 >>> (64 - len))

/-! ## Integer instructions (Table 7.2) -/

def execCAdd (d a b : BitVec 5) (s : State) := aluRR (· + ·) d a b s
def execCSub (d a b : BitVec 5) (s : State) := aluRR (· - ·) d a b s
def execCMul (d a b : BitVec 5) (s : State) := aluRR (· * ·) d a b s
def execCMulh (d a b : BitVec 5) (s : State) := aluRR mulHigh d a b s
def execCDivu (d a b : BitVec 5) (s : State) := aluRR divU d a b s
def execCRemu (d a b : BitVec 5) (s : State) := aluRR remU d a b s
def execCAnd (d a b : BitVec 5) (s : State) := aluRR (· &&& ·) d a b s
def execCOr (d a b : BitVec 5) (s : State) := aluRR (· ||| ·) d a b s
def execCXor (d a b : BitVec 5) (s : State) := aluRR (· ^^^ ·) d a b s
def execCShl (d a b : BitVec 5) (s : State) := aluRR shlR d a b s
def execCShr (d a b : BitVec 5) (s : State) := aluRR shrR d a b s
def execCSra (d a b : BitVec 5) (s : State) := aluRR sraR d a b s
def execCSlt (d a b : BitVec 5) (s : State) := aluRR (fun x y => truth (x.slt y)) d a b s
def execCSltu (d a b : BitVec 5) (s : State) := aluRR (fun x y => truth (x.ult y)) d a b s
def execCMin (d a b : BitVec 5) (s : State) := aluRR minS d a b s
def execCMax (d a b : BitVec 5) (s : State) := aluRR maxS d a b s
def execCAddi (d a : BitVec 5) (i : BitVec 16) (s : State) := aluR (· + i.signExtend 64) d a s
def execCAndi (d a : BitVec 5) (i : BitVec 16) (s : State) := aluR (· &&& i.zeroExtend 64) d a s
def execCOri (d a : BitVec 5) (i : BitVec 16) (s : State) := aluR (· ||| i.zeroExtend 64) d a s
def execCXori (d a : BitVec 5) (i : BitVec 16) (s : State) := aluR (· ^^^ i.zeroExtend 64) d a s
def execCShli (d a : BitVec 5) (n : BitVec 6) (s : State) := aluR (· <<< n.toNat) d a s
def execCShri (d a : BitVec 5) (n : BitVec 6) (s : State) := aluR (· >>> n.toNat) d a s
def execCSrai (d a : BitVec 5) (n : BitVec 6) (s : State) := aluR (BitVec.sshiftRight · n.toNat) d a s
def execCSlti (d a : BitVec 5) (i : BitVec 16) (s : State) := aluR (fun x => truth (x.slt (i.signExtend 64))) d a s

/-- LUI: g(d) := sign_extend(imm16, 16) × 2^16. -/
def execCLui (d : BitVec 5) (i : BitVec 16) (s : State) : Host.Outcome State Fault Refusal :=
  execComposer (fun dd c _ s => .next (s.updComp dd c fun k => k.setReg d (i.signExtend 64 <<< 16))) s

/-- INSF (R209): the field of g(d) that `p` and `l` name receives the low bits of g(a). -/
def execCInsf (d a : BitVec 5) (l p : BitVec 6) (s : State) : Host.Outcome State Fault Refusal :=
  execComposer (fun dd c t s =>
    .next (s.updComp dd c fun k =>
      k.setReg d (insertField (t.comp.reg d) (t.comp.reg a) p.toNat (l.toNat + 1)))) s

/-- EXTF (R209). -/
def execCExtf (d a : BitVec 5) (l p : BitVec 6) (s : State) : Host.Outcome State Fault Refusal :=
  aluR (extractField · p.toNat (l.toNat + 1)) d a s

/-! ## Branches and jumps (R214) -/

/-- The PC moves to PC + 4 × off16 where the condition holds (R178). -/
def branch (f : Word64 → Word64 → Bool) (a b : BitVec 5) (o : BitVec 16) (s : State) :
    Host.Outcome State Fault Refusal :=
  execComposer (fun _ _ t s =>
    if f (t.comp.reg a) (t.comp.reg b) then .jump s (t.comp.pc + 4 * o.signExtend 64) else .next s) s

def execCBeq (a b : BitVec 5) (o : BitVec 16) (s : State) := branch (· == ·) a b o s
def execCBne (a b : BitVec 5) (o : BitVec 16) (s : State) := branch (· != ·) a b o s
def execCBlt (a b : BitVec 5) (o : BitVec 16) (s : State) := branch BitVec.slt a b o s
def execCBge (a b : BitVec 5) (o : BitVec 16) (s : State) := branch (fun x y => !x.slt y) a b o s
def execCBltu (a b : BitVec 5) (o : BitVec 16) (s : State) := branch BitVec.ult a b o s
def execCBgeu (a b : BitVec 5) (o : BitVec 16) (s : State) := branch (fun x y => !x.ult y) a b o s

/-- JAL: g(d) := PC + 4, then the jump to PC + 4 × off21. -/
def execCJal (d : BitVec 5) (o : BitVec 21) (s : State) : Host.Outcome State Fault Refusal :=
  execComposer (fun dd c t s =>
    .jump (s.updComp dd c fun k => k.setReg d (t.comp.pc + 4)) (t.comp.pc + 4 * o.signExtend 64)) s

/-- JALR: the target g(a) + imm16 is computed before the write of PC + 4 into g(d); a target with bits [1:0] not zero
faults GMISALIGN with no effect (06 R178). ACCESS says a composer fetch of 4 bytes (13 Table 13.2). -/
def execCJalr (d a : BitVec 5) (i : BitVec 16) (s : State) : Host.Outcome State Fault Refusal :=
  execComposer (fun dd c t s =>
    let target := t.comp.reg a + i.signExtend 64
    if target.extractLsb' 0 2 = 0 then .jump (s.updComp dd c fun k => k.setReg d (t.comp.pc + 4)) target
    else .fault { code := Code.GMISALIGN, access := 0x29, va := target.toNat } s) s

end Sys2Proof.Machine
end

