-- ==== Sys2Proof/Machine/ComposerEmit.lean ====
section
/-! DEFINITION. Composing frames: EMIT, EMITT, EMITB, EMITR, EMITH and SEAL (07 R215 to R223, 05 R152 to R155). -/

namespace Sys2Proof.Machine

open Sys2Proof

/-! ## Chunks and the open frame -/

namespace Team

def usedChunks (t : Team) : List Nat :=
  t.frames.flatMap (·.chunks) ++ (match t.opened with | some o => o.chunks | none => [])

def freeChunks (t : Team) : List Nat := (List.range 128).filter fun k => !t.usedChunks.contains k

/-- Some frame is releasing, so that chunks and an id are certain to come free (05 R154). -/
def releasing (t : Team) : Bool := t.frames.any (fun f => f.st = .releasing)

end Team

/-- The answer of an emission. -/
inductive Emitted where
  | ok (t : Team)
  | stall
  | fault (code : Nat)

/-- Where a chunk or a frame id is missing: a stall while a frame is releasing, else EMITDEAD (05 R154). -/
def emitDead (t : Team) : Emitted := if t.releasing then .stall else .fault Code.EMITDEAD

/-- Provenance of a word that the composer emits now (03 Table 3.4). -/
def provOf (t : Team) : Word32 :=
  BitVec.ofNat 32 ((t.comp.pc - t.entry).toNat / 4 % 2 ^ 24 * 256 + t.comp.fgen.toNat)

/-- A word written at the end of the open frame, with a further chunk where the last one is full (05 R152). -/
def Team.putWord (t : Team) (w : Word64) : Emitted :=
  let o := t.opened.getD {}
  if 4096 ≤ o.words then .fault Code.FRAMESIZE
  else
    let put (chunks : List Nat) : Emitted :=
      let k := 64 * chunks.getD (o.words / 64) 0 + o.words % 64
      .ok { t with fb := t.fb.set 0 k w, prov := t.prov.set 0 k (provOf t), bad := t.bad.filter (fun r => r ≠ .fb k),
                   opened := some { o with chunks, words := o.words + 1 } }
    if o.words % 64 = 0 then
      match t.freeChunks with
      | c :: _ => put (o.chunks ++ [c])
      | [] => emitDead t
    else put o.chunks

/-- Whether bits [63:56] of a word are those of a header. -/
def isHeader (w : Word64) : Bool := w.extractLsb' 56 8 = 0xF0

/-- The fields of Table 6.17a that must be zero are zero. -/
def headerOk (w : Word64) : Bool := isHeader w && w.extractLsb' 12 4 = 0 && w.extractLsb' 17 3 = 0

/-- A word that is not a header emitted into the open block (R215). -/
def Team.emitWord (t : Team) (w : Word64) : Emitted :=
  match t.opened with
  | some o => if o.opened && !isHeader w then t.putWord w else .fault Code.FRAMING
  | none => .fault Code.FRAMING

/-- The open block closed, its LEN back-filled; none where it holds its header alone (R216). -/
def Team.closeBlock (t : Team) : Option Team :=
  match t.opened with
  | none => some t
  | some o =>
    if !o.opened then some t
    else
      let start := o.starts.getLast?.getD 0
      let n := o.words - start
      if n ≤ 1 then none
      else
        let k := 64 * o.chunks.getD (start / 64) 0 + start % 64
        let h := BitVec.ofNat 64 (Bits.setField (t.fb.get 0 k).toNat 44 12 n)
        some { t with fb := t.fb.set 0 k h, opened := some { o with opened := false } }

/-- Blocks begun in the open frame. -/
def Team.blocksBegun (t : Team) : Nat := match t.opened with | some o => o.starts.length | none => 0

/-- A header emitted: it begins a block. -/
def Team.emitHeader (t : Team) (h : Word64) : Emitted :=
  match t.putWord h with
  | .ok t' =>
    .ok { t' with opened := t'.opened.map fun o => { o with starts := o.starts ++ [o.words - 1], opened := true } }
  | e => e

/-- The composer's outcome of an emission at word `i` of its instruction. -/
def emitRes (s : State) (d c i : Nat) (k : State → CRes) : Emitted → CRes
  | .ok t => k (s.updTeam d c fun _ => t)
  | .stall => .wait s
  | .fault code => .fault { code, woff := i } s

/-! ## Template words (06 R204, R205, Table 6.20) -/

/-- Addition of BBASE to a block index at a bit position, modulo 4,096. -/
def addIndex (bbase : BitVec 12) (w : Word64) (pos : Nat) : Word64 :=
  BitVec.ofNat 64 (Bits.setField w.toNat pos 12 (Bits.field w.toNat pos 12 + bbase.toNat))

/-- rebase (R221). -/
def rebase (bbase : BitVec 12) (w : Word64) : Word64 :=
  let op := (w.extractLsb' 56 8).toNat
  if op = 0xF0 then (if w.extractLsb' 24 12 = 0xFFF then w else addIndex bbase w 24)
  else if op = 0xC2 then addIndex bbase (addIndex bbase w 28) 16
  else if op = 0xC0 || op = 0xC1 || op = 0xC4 || op = 0xC5 || op = 0xCA then addIndex bbase w 28
  else w

/-- A patch descriptor (Table 6.20). -/
structure Patch where
  l1 : Nat
  w1 : Nat
  l2 : Nat
  w2 : Nat
  deriving DecidableEq, Repr

def patchOf (x : Nat) : Patch where
  l1 := Bits.field x 0 6
  w1 := Bits.field x 6 6
  l2 := Bits.field x 12 6
  w2 := Bits.field x 18 6

/-- The descriptor may patch a word (R219). -/
def patchOk (x : Nat) : Bool :=
  let p := patchOf x
  let fieldOk (l w : Nat) : Bool := decide (w ≤ 32) && (w = 0 || decide (l + w ≤ 56))
  Bits.field x 24 40 = 0 && fieldOk p.l1 p.w1 && fieldOk p.l2 p.w2 &&
  (p.w1 = 0 || p.w2 = 0 || decide (p.l1 + p.w1 ≤ p.l2) || decide (p.l2 + p.w2 ≤ p.l1))

/-- A field patched, where it has a width. -/
def patchField (w x : Word64) (l n : Nat) : Word64 := if n = 0 then w else insertField w x l n

/-- A 16-byte template entry lies at an offset of the composer store. -/
def entryFits (ofs : Nat) : Bool := decide (ofs + 16 ≤ 0x20000)

/-- ACCESS of a template read: 16 bytes of the composer store. -/
def templateAccess : Nat := accessOf 0 4 3

/-! ## Instructions -/

/-- EMIT (R218). -/
def execCEmit (a : BitVec 5) (s : State) : Host.Outcome State Fault Refusal :=
  execComposer (fun d c t s => emitRes s d c 0 .next (t.emitWord (t.comp.reg a))) s

/-- EMITT (R219). -/
def execCEmitt (a b g : BitVec 5) (s : State) : Host.Outcome State Fault Refusal :=
  execComposer (fun d c t s =>
    let ofs := (t.comp.reg a).toNat
    if ofs % 16 ≠ 0 then .fault { code := Code.GMISALIGN, access := templateAccess, va := ofs } s
    else if !entryFits ofs then
      .fault { code := Code.GXLATE, cause := Cause.OUTSIDE, access := templateAccess, va := ofs } s
    else if t.badStore ofs 16 then .fault { code := Code.GUE, access := templateAccess, va := ofs } (reportUe s d)
    else
      let w := BitVec.ofNat 64 (t.store.read ofs 8)
      let x := t.store.read (ofs + 8) 8
      let p := patchOf x
      if isHeader w || !patchOk x then .fault { code := Code.FRAMING } s
      else
        let w1 := patchField (rebase t.comp.bbase w) (t.comp.reg b) p.l1 p.w1
        let w2 := patchField w1 (t.comp.reg g) p.l2 p.w2
        emitRes s d c 0 .next (t.emitWord w2)) s

/-- EMITR (R220), one word a turn; the pending-emit state keeps the index of the next word. -/
def execCEmitr (a b g : BitVec 5) (s : State) : Host.Outcome State Fault Refusal :=
  execComposer (fun d c t s =>
    let n := (t.comp.reg g).toNat
    let i := match t.comp.pend with | some p => p.i | none => 0
    if n = 0 then .next s
    else
      let w := t.comp.reg a + BitVec.ofNat 64 i * t.comp.reg b
      let keep (s : State) (p : Option PendEmit) : State := s.updComp d c fun k => { k with pend := p }
      emitRes (keep s (some { i := i })) d c i (fun s' =>
        if i + 1 = n then .next (keep s' none) else .wait (keep s' (some { i := i + 1 })))
        ({ t with comp := { t.comp with pend := some { i := i } } }.emitWord w)) s

/-- The word under way of an EMITB: the header of its next block, or the next word of the block. -/
def emitbWord (s : State) (d c : Nat) (t : Team) (p : PendEmit) : CRes :=
  let keep (s : State) (p : Option PendEmit) : State := s.updComp d c fun k => { k with pend := p }
  let w := BitVec.ofNat 64 (t.store.read p.ofs 8)
  let step (left blocks : Nat) (s : State) : CRes :=
    if left = 0 then
      let s1 := s.updTeam d c fun t => { t with opened := t.opened.map fun o => { o with opened := false } }
      if blocks = 0 then .next (keep s1 none)
      else .wait (keep s1 (some { i := p.i + 1, ofs := p.ofs + 16, blocks := blocks, left := 0 }))
    else .wait (keep s (some { i := p.i + 1, ofs := p.ofs + 16, blocks := blocks, left := left }))
  if !entryFits p.ofs then
    .fault { code := Code.GXLATE, cause := Cause.OUTSIDE, access := templateAccess, va := p.ofs, woff := p.i } s
  else if t.badStore p.ofs 16 then
    .fault { code := Code.GUE, access := templateAccess, va := p.ofs, woff := p.i } (reportUe s d)
  else if p.left = 0 then
    let len := Bits.field w.toNat 44 12
    let n := if len = 0 then 4096 else len
    let k := t.blocksBegun
    if !headerOk w || n = 1 || (Bits.field w.toNat 0 12 + t.comp.bbase.toNat) % 4096 ≠ k then
      .fault { code := Code.FRAMING, woff := p.i } s
    else
      emitRes s d c p.i (step (n - 1) (p.blocks - 1))
        (t.emitHeader (BitVec.ofNat 64 (Bits.setField (rebase t.comp.bbase w).toNat 0 12 k)))
  else if isHeader w then .fault { code := Code.FRAMING, woff := p.i } s
  else emitRes s d c p.i (step (p.left - 1) p.blocks) (t.emitWord (rebase t.comp.bbase w))

/-- EMITB (R222), one word a turn. The first turn also closes the open block, unless its header finds no chunk: then
nothing has happened (05 R154). -/
def execCEmitb (a b : BitVec 5) (s : State) : Host.Outcome State Fault Refusal :=
  execComposer (fun d c t s =>
    match t.comp.pend with
    | some p => emitbWord s d c t p
    | none =>
      let ofs := (t.comp.reg a).toNat
      let m := (t.comp.reg b).toNat
      if ofs % 16 ≠ 0 then .fault { code := Code.GMISALIGN, access := templateAccess, va := ofs } s
      else if m = 0 || decide (4096 < m) then .fault { code := Code.FRAMING } s
      else
        match t.closeBlock with
        | none => .fault { code := Code.FRAMING } s
        | some t1 =>
          let p : PendEmit := { i := 0, ofs := ofs, blocks := m, left := 0 }
          let t2 := { t1 with comp := { t1.comp with pend := some p } }
          match emitbWord (s.updTeam d c fun _ => t2) d c t2 p with
          | .fault f s' => .fault f (if f.code = Code.EMITDEAD then s else s')
          | .wait s' =>
            let began : Bool := match s'.team? d c with | some u => decide (u.comp.pend ≠ some p) | none => true
            .wait (if began then s' else s)
          | r => r) s

/-- EMITH (R217). -/
def execCEmith (a : BitVec 5) (s : State) : Host.Outcome State Fault Refusal :=
  execComposer (fun d c t s =>
    let h := t.comp.reg a
    if !headerOk h || h.extractLsb' 44 12 ≠ 0 || h.extractLsb' 0 12 ≠ 0 then .fault { code := Code.FRAMING } s
    else
      match t.closeBlock with
      | none => .fault { code := Code.FRAMING } s
      | some t1 => emitRes s d c 0 .next (t1.emitHeader (h ||| BitVec.ofNat 64 t1.blocksBegun))) s

/-- The lowest free frame id. -/
def Team.freeFrame (t : Team) : Option Nat := (List.range 16).find? fun k => (t.frames.getD k {}).st = .free

/-- SEAL (R223, 05 R154, R155). -/
def execCSeal (d : BitVec 5) (s : State) : Host.Outcome State Fault Refusal :=
  execComposer (fun dd c t s =>
    match t.closeBlock with
    | none => .fault { code := Code.FRAMING } s
    | some t1 =>
      match t1.opened with
      | none => .fault { code := Code.FRAMING } s
      | some o =>
        match t1.freeFrame with
        | none => emitRes s dd c 0 .next (emitDead t1)
        | some k =>
          let f : Frame := { st := .sealed, gen := t1.comp.fgen, chunks := o.chunks, words := o.words, starts := o.starts }
          .next (s.updTeam dd c fun _ =>
            { t1 with frames := Bits.updAt t1.frames k fun _ => f
                      opened := none
                      comp := { t1.comp.setReg d (BitVec.ofNat 64 k) with fgen := t1.comp.fgen + 1 } })) s

end Sys2Proof.Machine
end

