-- ==== Sys2Proof/Machine/ComposerGroups.lean ====
section
/-! DEFINITION. Groups, frames, events, work, shapes and special registers of the composer: RUN, WAITF, FREE, GCTL,
EVWAIT, ERET, BRKC, DONE, WFETCH, MKSHP, LTRIG, MFS and MTS (07 R224 to R239). DEPWAIT stands in Dependence.lean. -/

namespace Sys2Proof.Machine

open Sys2Proof

/-! ## Group ranges (Table 7.3) -/

def rangeFirst (w : Word64) : Nat := Bits.field w.toNat 0 9
def rangeCount (w : Word64) : Nat := Bits.field w.toNat 16 9

/-- COUNT and FIRST lie within the team's groups and [15:9] is zero (R224). -/
def rangeOk (t : Team) (w : Word64) : Bool :=
  rangeCount w ≠ 0 && decide (rangeFirst w + rangeCount w ≤ t.groups.length) && Bits.field w.toNat 9 7 = 0

/-- A range word of WAITF and GCTL: [63:25] is zero as well. -/
def plainRangeOk (t : Team) (w : Word64) : Bool := rangeOk t w && Bits.field w.toNat 25 39 = 0

/-- The groups of a range. -/
def rangeGroups (t : Team) (w : Word64) : List Group := (t.groups.drop (rangeFirst w)).take (rangeCount w)

/-! ## RUN, WAITF, FREE -/

/-- A group started on a frame (05 R156), its slot of rank `since`. -/
def Group.start (x : Group) (fid entry : Nat) (args : List Word32) (since : Nat) : Group :=
  let y := { x with
    st := .running, code := 0, slotF := 0, frame := some fid, stepping := none, latch := none, feServed := 0, nest := [], spill := []
    pc0 := { st := .live, mask := BitVec.allOnes 32, mark := 0xFFF, block := entry, word := 1, since }
    pc1 := {} }
  ((List.range 8).foldl (fun y k => y.setW (48 + k) (args.getD k 0)) y)

/-- A word of the arguments w48 to w55 of groups from a first on, which RUN replaces (13 R388). -/
def Ram.isArgument (r : Ram) (first n : Nat) : Bool :=
  match r with
  | .ureg g k => decide (first ≤ g) && decide (g < first + n) && decide (24 ≤ k) && decide (k < 28)
  | _ => false

/-- RUN (R225). -/
def execCRun (a b : BitVec 5) (s : State) : Host.Outcome State Fault Refusal :=
  execComposer (fun d c t s =>
    let w := t.comp.reg a
    let fid := Bits.field w.toNat 32 4
    let entry := Bits.field w.toNat 48 12
    let f := t.frames.getD fid {}
    let gs := rangeGroups t w
    if !rangeOk t w || Bits.field w.toNat 25 7 ≠ 0 || Bits.field w.toNat 36 12 ≠ 0 || Bits.field w.toNat 60 4 ≠ 0 ||
       f.st = .free || f.st = .releasing || decide (f.blocks ≤ entry) then .fault { code := Code.FRAMING } s
    else if gs.any (fun x => x.st = .running) then .wait s
    else if gs.any (fun x => x.st = .stopped) then .fault { code := Code.FRAMING } s
    else
      let args := (List.range 8).map fun k => (t.comp.reg (BitVec.ofNat 5 (b.toNat + k))).truncate 32
      let s1 := drainToS s d c .composer
      .next (s1.updTeam d c fun t =>
        { (t.heal fun r => r.isArgument (rangeFirst w) (rangeCount w)) with
          groups := (List.range (rangeCount w)).foldl
            (fun l k => Bits.updAt l (rangeFirst w + k) fun x =>
              x.start fid entry args (3 * (t.passNo.get 0 (laneOf (rangeFirst w + k)) + 1))) t.groups
          frames := Bits.updAt t.frames fid fun f => { f with st := .running } })) s

/-- WAITF (R226). -/
def execCWaitf (a b : BitVec 5) (s : State) : Host.Outcome State Fault Refusal :=
  execComposer (fun d c t s =>
    let f := (t.comp.reg a).toNat
    let w := t.comp.reg b
    if 15 < f || !plainRangeOk t w then .fault { code := Code.FRAMING } s
    else if (rangeGroups t w).all (fun x => x.frame ≠ some f) then
      .next (drainGroups s d c (rangeFirst w) (rangeCount w))
    else if !t.comp.evq.isEmpty then .next s
    else .wait s) s

/-- FREE (R227, 05 Table 5.2). -/
def execCFree (a : BitVec 5) (s : State) : Host.Outcome State Fault Refusal :=
  execComposer (fun d c t s =>
    let f := (t.comp.reg a).toNat
    let set (g : Frame → Frame) : CRes := .next (s.updTeam d c fun t => { t with frames := Bits.updAt t.frames f g })
    if 15 < f then .fault { code := Code.FRAMING } s
    else
      match (t.frames.getD f {}).st with
      | .free => .fault { code := Code.FRAMING } s
      | .sealed => set fun x => { gen := x.gen }
      | .running => set fun x => { x with st := .releasing }
      | .releasing => .next s) s

/-! ## GCTL (R228, R229) -/

/-- A running group stopped at an instruction boundary: what its slots wait for is given up and will be issued
again. The stop is of no one slot: SLOT reads 0 behind it, as it does behind RUN (DESIGN CHOICE, log 46). -/
def Group.halt (x : Group) : Group :=
  if x.st = .running then
    { x with st := .stopped, code := 0, slotF := 0, stepping := none, pc0 := { x.pc0 with wait := .none }, pc1 := { x.pc1 with wait := .none } }
  else x

/-- A slot of the group has issued a RARRIVE whose arrival is not yet counted. -/
def Group.arriving (x : Group) : Bool := x.pc0.wait = .arrive || x.pc1.wait = .arrive

/-- The issue number of the full/empty load that a group waits at, with the lower number of two. -/
def Group.feNo (x : Group) : Option Nat :=
  let no (p : PcSlot) : Option Nat := match p.wait with | .fe _ _ _ => some p.no | _ => none
  match no x.pc0, no x.pc1 with
  | some a, some b => some (min a b)
  | a, b => a.or b

/-- A full/empty load that a group waits at is given up, with what the group has issued behind it: none has started (13 Table
13.4). -/
def giveUpFe (s : State) (d c g : Nat) : State :=
  match (s.group? d c g).bind Group.feNo with
  | some n => giveUp s d c g n
  | none => s

/-- A running group stopped. -/
def haltGroup (s : State) (d c g : Nat) : State :=
  match s.group? d c g with
  | some x => if x.st = .running then (giveUpFe s d c g).updGroup d c g Group.halt else s
  | none => s

/-- A running or stopped group made idle; its undelivered event is withdrawn. -/
def killGroup (s : State) (d c g : Nat) : State :=
  match s.group? d c g with
  | some x =>
    if x.st = .idle then s
    else
      let s1 := giveUpFe s d c g
      leaveFrame (((noWait (noWait s1 d (slotUnit c g 0)) d (slotUnit c g 1)).updGroup d c g idleGroup).updComp d c fun k =>
        { k with evq := k.evq.filter fun e => match e with | .fault h _ | .step h _ => h ≠ g | .frame _ _ => true }) d c g
  | none => s

/-- GCTL on every group of the range in turn. STOP and KILL complete once loads and arrivals in flight have returned. -/
def gctl (a : BitVec 5) (loads : Bool) (f : State → Nat → Nat → Nat → State) (s : State) :
    Host.Outcome State Fault Refusal :=
  execComposer (fun d c t s =>
    let w := t.comp.reg a
    if !plainRangeOk t w then .fault { code := Code.FRAMING } s
    else if loads && (rangeGroups t w).any (fun x => x.inFlight false || x.arriving) then .wait s
    else .next ((List.range (rangeCount w)).foldl (fun s k => f s d c (rangeFirst w + k)) s)) s

def execCGctlStop (a : BitVec 5) (s : State) : Host.Outcome State Fault Refusal :=
  gctl a true haltGroup s

def execCGctlResume (a : BitVec 5) (s : State) : Host.Outcome State Fault Refusal :=
  gctl a false (fun s d c g => resumeGroup s d c g false) s

def execCGctlStep (a : BitVec 5) (s : State) : Host.Outcome State Fault Refusal :=
  gctl a false (fun s d c g => resumeGroup s d c g true) s

def execCGctlKill (a : BitVec 5) (s : State) : Host.Outcome State Fault Refusal :=
  gctl a true killGroup s

/-! ## Events (R230 to R232) -/

/-- A fault record as its 64 bytes (13 Table 13.1). -/
def FaultRec.word (r : FaultRec) : Nat :=
  r.code % 256 + Bits.ofBool r.levelG * 2 ^ 8 + r.cause % 256 * 2 ^ 12 + r.fid % 16 * 2 ^ 28 + r.slot % 2 * 2 ^ 32 +
  r.group % 512 * 2 ^ 33 + r.log % 256 * 2 ^ 42 + r.phys % 1024 * 2 ^ 50 + r.die % 4 * 2 ^ 60 +
  r.mask.toNat * 2 ^ 64 + r.access % 2 ^ 32 * 2 ^ 96 + r.va % 2 ^ 64 * 2 ^ 128 + r.provn.toNat * 2 ^ 192 +
  r.woff % 2 ^ 13 * 2 ^ 224 + r.cpc % 2 ^ 64 * 2 ^ 256 + r.tick % 2 ^ 64 * 2 ^ 320 + r.aux % 2 ^ 64 * 2 ^ 384

/-- EVCTL.OFS. -/
def Composer.evOfs (k : Composer) : Nat := Bits.field k.evctl.toNat 6 11

/-- The event word of a group's event (Table 7.6). -/
def eventWord (r : FaultRec) (kind : Nat) : Word64 :=
  BitVec.ofNat 64 (kind + r.fid % 16 * 2 ^ 4 + r.group % 512 * 2 ^ 16 + r.code % 256 * 2 ^ 32 + r.slot % 2 * 2 ^ 40)

/-- A group's event taken: its record is written, EVGRP set, and its accesses acquired. -/
def takeEvent (s : State) (d c g kind : Nat) (r : FaultRec) (dst : BitVec 5) : State :=
  (drainToS s d c (.group g)).updTeam d c fun t =>
    { (t.storeWrite (64 * t.comp.evOfs) 64 r.word) with
      comp := { t.comp.setReg dst (eventWord r kind) with
                  evq := t.comp.evq.tail
                  evgrp := BitVec.ofNat 9 g } }

/-- EVWAIT (R231). -/
def execCEvwait (d : BitVec 5) (s : State) : Host.Outcome State Fault Refusal :=
  execComposer (fun dd c t s =>
    match t.comp.evq with
    | .fault g r :: _ => .next (takeEvent s dd c g 2 r d)
    | .step g r :: _ => .next (takeEvent s dd c g 3 r d)
    | .frame f n :: _ =>
      .next (s.updComp dd c fun k =>
        { k.setReg d (BitVec.ofNat 64 (1 + f % 16 * 2 ^ 4 + n % 256 * 2 ^ 8)) with evq := k.evq.tail })
    | [] =>
      if t.groups.any (fun x => x.st = .running) ||
         (t.comp.evctl.getLsbD 0 && t.frames.any (fun f => f.st = .running)) then .wait s
      else .next (s.updComp dd c fun k => k.setReg d 0)) s

/-- ERET (R232). -/
def execCEret (s : State) : Host.Outcome State Fault Refusal :=
  execComposer (fun d c t s => .next (resumeGroup s d c t.comp.evgrp.toNat false)) s

/-- BRKC (R238): the composer stops with GBRK and, resumed, goes on behind it. ACCESS bit 16 says that the stop ends a debug step
too (13 Table 13.2). -/
def execCBrkc (i : BitVec 16) (s : State) : Host.Outcome State Fault Refusal :=
  execComposer (fun d c t s =>
    .next (takeCompFault s d c { code := Code.GBRK, access := i.toNat + (if t.comp.dbgStep then 0x10000 else 0) })) s

/-- DONE (R239): TEAM_RETIRE waits for the rest of 05 R151. -/
def execCDone (s : State) : Host.Outcome State Fault Refusal :=
  execComposer (fun d c _ s => .next (s.updComp d c fun k => { k with stat := .done })) s

/-! ## Work, shapes, dependences (R233 to R235) -/

/-- The launch of the team deals a work list (11 Table 11.5). -/
def usesList (s : State) (d : Nat) (t : Team) : Bool :=
  match (s.die d).launch? t.key with
  | some l => decide (2 ≤ Bits.field (l.pkt.getD 0 0).toNat 8 2)
  | none => false

/-- WFETCH (R233): the request reaches Hawker 96 cycles later (05 R160); HAWKER_FETCH_SERVE answers it. -/
def execCWfetch (d : BitVec 5) (s : State) : Host.Outcome State Fault Refusal :=
  execComposer (fun dd c t s =>
    if usesList s dd t && (d = 0 || decide (29 < d.toNat)) then .fault { code := Code.GILLOP } s
    else .wait (s.updComp dd c fun k => { k with wait := .fetch d (s.pkg.mclk + 96) })) s

/-- MKSHP (R234). -/
def execCMkshp (d a : BitVec 5) (s : State) : Host.Outcome State Fault Refusal :=
  execComposer (fun dd c t s =>
    let slot := (t.comp.reg a).toNat % 64
    let ofs := (t.comp.reg a).toNat - slot
    if 0x20000 < ofs + 64 then
      .fault { code := Code.GXLATE, cause := Cause.OUTSIDE, access := accessOf 0 6 3, va := ofs } s
    else if t.badStore ofs 64 then .fault { code := Code.GUE, access := accessOf 0 6 3, va := ofs } (reportUe s dd)
    else
      match shapeOf (t.store.read ofs 64) with
      | none => .fault { code := Code.SHAPEDEF } s
      | some h =>
        .next (s.updTeam dd c fun t =>
          { t with shapes := t.shapes.insert slot h, comp := t.comp.setReg d (BitVec.ofNat 64 slot) })) s

/-- LTRIG (R235): a release at .DIE that the composer does not wait for; a store error recorded for the composer is
taken first (04 R139). One after the team's first has no effect. -/
def execCLtrig (s : State) : Host.Outcome State Fault Refusal :=
  execComposer (fun d c t s =>
    if t.ltrigSent then .next s
    else
      match t.comp.storeErr with
      | some cause => compCause (s.updComp d c fun x => { x with storeErr := none }) cause 0 0
      | none =>
        .next ((pushWrite s d c { party := .composer, loc := .hbm 0, kind := .ltrig, rel := some 3 }).updTeam d c fun t =>
          { t with ltrigSent := true })) s

/-! ## Special registers (R237, Tables 7.9 and 7.10) -/

def frameCode : FrState → Nat | .free => 0 | .sealed => 1 | .running => 2 | .releasing => 3

/-- FSTAT. -/
def fstat (t : Team) : Word64 :=
  BitVec.ofNat 64 ((List.range 16).foldl (fun v f => v + frameCode (t.frames.getD f {}).st * 4 ^ f) 0 +
    t.freeChunks.length * 2 ^ 32 + Bits.ofBool t.opened.isSome * 2 ^ 40)

/-- CORE. -/
def coreWord (s : State) (d c : Nat) : Word64 :=
  BitVec.ofNat 64 (c % 256 + (s.die d).physOf c * 2 ^ 8 + d % 4 * 2 ^ 18)

/-- The value that MFS reads; none for a number that Table 7.9 lacks. -/
def mfsValue (s : State) (d c : Nat) (t : Team) (n : Nat) : Option Word64 :=
  match n with
  | 0x000 => some (coreWord s d c)
  | 0x001 => some t.rect
  | 0x002 => some t.cfg
  | 0x003 => some (BitVec.ofNat 64 s.tick)
  | 0x004 => some t.comp.cycle
  | 0x010 => some (t.comp.bbase.zeroExtend 64)
  | 0x011 => some (t.comp.fgen.zeroExtend 64)
  | 0x012 => some (fstat t)
  | 0x020 => some t.comp.fvec
  | 0x021 => some t.comp.evctl
  | 0x022 => some (t.comp.evgrp.zeroExtend 64)
  | 0x023 => some (BitVec.ofNat 64 t.comp.evq.length)
  | 0x030 => some (((s.die d).swp.getD ((s.die d).clusterOf c) 0).zeroExtend 64)
  | 0x031 => some (s.die d).chg
  | _ => none

/-- MFS. -/
def execCMfs (d : BitVec 5) (n : BitVec 12) (s : State) : Host.Outcome State Fault Refusal :=
  execComposer (fun dd c t s =>
    match mfsValue s dd c t n.toNat with
    | some v => .next (s.updComp dd c fun k => k.setReg d v)
    | none => .fault { code := Code.GILLOP } s) s

/-- The composer with a special register written; none for one that is absent or read-only. Bits that the register's
map marks zero are ignored. -/
def mtsPut (k : Composer) (n : Nat) (x : Word64) : Option Composer :=
  match n with
  | 0x010 => some { k with bbase := x.truncate 12 }
  | 0x020 => some { k with fvec := x &&& 0x1F_FFFE }
  | 0x021 => some { k with evctl := x &&& 0x1_FFC1 }
  | 0x022 => some { k with evgrp := x.truncate 9 }
  | _ => none

/-- MTS. -/
def execCMts (a : BitVec 5) (n : BitVec 12) (s : State) : Host.Outcome State Fault Refusal :=
  execComposer (fun d c t s =>
    match mtsPut t.comp n.toNat (t.comp.reg a) with
    | some _ => .next (s.updComp d c fun k => (mtsPut k n.toNat (t.comp.reg a)).getD k)
    | none => .fault { code := Code.GILLOP } s) s

end Sys2Proof.Machine
end

