-- ==== Sys2Proof/Machine/Dispatcher.lean ====
section
/-! DEFINITION. The queues and their dispatcher: CLAIM and COMMIT as events (11 R348, R349), heads read and admitted
(R350, R352, R354), the lottery (R356), the packets other than LAUNCH and GANG (R352, R353), package queues (R357,
R358), and watch items that wait for a slot (R351). -/

namespace Sys2Proof.Machine

open Sys2Proof

/-! ## CLAIM and COMMIT -/

/-- CLAIM: a naturally aligned 8-byte load of the register by a producer; the answer stands in `busReply`. -/
def execEClaim (q : Nat) (s : State) : Host.Outcome State Fault Refusal :=
  execEvent (fun d s =>
    let r := s.queueRead d q 0 8
    { r.1 with busReply := r.2 }) s

/-- COMMIT: a store of 4 or 8 bytes by a producer. -/
def execECommit (q : Nat) (data : Word64) (s : State) : Host.Outcome State Fault Refusal :=
  execEvent (fun d s => s.queueWrite d q 8 8 data.toNat) s

/-! ## Heads -/

/-- The ring slot at HEAD; an unreadable one is an empty packet (log 17). A package queue's ring lies in host memory
(R357). -/
def readRing (s : State) (d q : Nat) : State × List Word64 :=
  let x := s.queue d q
  let va := x.qbase + 64 * (x.head.toNat % x.size)
  if 1024 ≤ q then
    let r := hostRead s va 64
    (r.1, pktOfNat r.2)
  else
    let r := rangeRead translateDie d va 64 s
    match r.2 with
    | .ok v => (r.1, pktOfNat v)
    | .error _ => (r.1, [])

/-- The head packet read as soon as it is committed (R350). -/
def readHead (s : State) (d q : Nat) : State :=
  let x := s.queue d q
  if s.queueLive d q && x.admitted.isNone && (x.committed.find? x.head.toNat).isSome then
    let r := readRing s d q
    r.1.setQueue d q { (r.1.queue d q) with admitted := some r.2 }
  else s

/-- A packet that completes with BADPKT: an undefined type, or a field outside its limits (R352, R354, R357). -/
def packetBad (x : Die) (q : Nat) (p : List Word64) : Bool :=
  match pktType p with
  | 1 => !Pkt.launchOk p || (decide (q < 1024) && Pkt.aff p ≠ 0)
  | 2 => decide (1024 ≤ q) || copyMalformed p
  | 3 => !Pkt.waitOk p
  | 4 => !Pkt.waitOk p
  | 5 => false
  | 6 => decide (1024 ≤ q) || collMalformed x p
  | 7 => !Pkt.nopOk p
  | _ => true

/-- Where a packet's completion is reported; a collective packet has a completion word instead (log 28), a NOP writes no
record. -/
def cmplOf (p : List Word64) : Nat :=
  match pktType p with
  | 2 => pktWord p 5
  | 5 => Pkt.gangCmpl p
  | 6 => 0
  | 7 => 0
  | _ => pktWord p 7

/-- The head packet starts: its slot is free, and it counts as started until it completes (R350). -/
def startHead (s : State) (d q : Nat) (p : List Word64) : State :=
  let x := s.queue d q
  s.setQueue d q
    { x with head := x.head + 1, committed := x.committed.erase x.head.toNat, admitted := none, resolved := none
             losses := 0, started := x.started ++ [{ slot := x.head.toNat, pkt := p }] }

/-- A started packet completes with a status and nothing else. -/
def endPacket (s : State) (d q slot : Nat) (p : List Word64) (status cause : Nat) : State :=
  completeSlot s d q slot (cmplOf p) { status, cause }

/-- A malformed packet starts and completes with BADPKT; a collective one says so in its completion word (10 R342). -/
def rejectHead (s : State) (d q : Nat) (p : List Word64) : State :=
  let slot := (s.queue d q).head.toNat
  let s1 := startHead s d q p
  if pktType p = 6 && q < 1024 then
    updColl s1 d fun c => { c with finished := c.finished ++ [{ p := { pkt := p, src := .queue q slot, org := d }, cause := Cause.BADPKT, hop := 0 }] }
  else endPacket s1 d q slot p Status.BADPKT 0

/-- No WAITDEP of the queue is under way, behind which nothing starts (R353). -/
def unblocked (x : Queue) : Bool := x.started.all fun e => pktType e.pkt ≠ 3

/-! ## Readiness (R355, Table 11.4) -/

/-- A launch that is admitted is ready on die d, which is enabled for admission (14 Table 14.2). -/
def launchReady (s : State) (d : Nat) (p : List Word64) : State × Bool :=
  if (s.die d).enabled && roomFor (s.die d) p then depMet s p false else (s, false)

def headReady (s : State) (d q : Nat) (p : List Word64) : State × Bool :=
  let x := s.queue d q
  if !unblocked x then (s, false)
  else if packetBad (s.die d) q p then (s, true)
  else
    match pktType p with
    | 1 => launchReady s d p
    | 4 => (s, x.started.isEmpty)
    | 5 => (s, false)
    | _ => (s, true)

/-! ## The draw (R356) -/

/-- A queue that takes part in a draw. -/
structure Entrant where
  q    : Nat
  pkt  : List Word64
  prio : Nat
  wt   : Nat
  losses : Nat
  deriving DecidableEq, Repr

/-- Queues whose heads this die dispatches: its own, and the package queues whose LAUNCH is resolved to it. -/
def dieQueues (s : State) (d : Nat) : List Nat :=
  (s.die d).queues.map (·.1) ++ ((s.pkg.queues.filter fun e => e.2.resolved = some d).map fun e => 1024 + e.1)

/-- The eligible queues, ascending. -/
def entrants (s : State) (d : Nat) : State × List Entrant :=
  (dieQueues s d).foldl (fun acc q =>
    let x := acc.1.queue d q
    match acc.1.queueLive d q, x.admitted with
    | true, some p =>
      let r := headReady acc.1 d q p
      if r.2 then
        let launch := pktType p = 1
        (r.1, acc.2 ++ [{ q, pkt := p, prio := if launch then Pkt.prio p else 0
                          wt := if launch && Pkt.shares p ≠ 0 then Pkt.shares p else x.shares, losses := x.losses }])
      else (r.1, acc.2)
    | _, _ => acc) (s, [])

/-- One step of the generator. -/
def lfsr (s : Word32) : Word32 := if s.getLsbD 0 then (s >>> 1) ^^^ 0x8020_0003 else s >>> 1

/-- The first entrant whose cumulative weight exceeds v. -/
def pickWeight : Nat → List Entrant → Option Entrant
  | _, [] => none
  | v, e :: r => if v < e.wt then some e else pickWeight (v - e.wt) r

/-- The winner of a draw, and the seed after it. -/
def drawWinner (seed : Word32) (l : List Entrant) : Option Entrant × Word32 :=
  match l.find? (fun e => e.losses = 64) with
  | some e => (some e, seed)
  | none =>
    let top := l.foldl (fun m e => max m e.prio) 0
    let f := l.filter fun e => e.prio = top
    let seed1 := lfsr seed
    let total := (f.map (·.wt)).sum
    (if total = 0 then f.head? else pickWeight (seed1.toNat % total) f, seed1)

/-- LOSSES after a draw. -/
def countLosses (s : State) (d : Nat) (l : List Entrant) (winner : Nat) : State :=
  (dieQueues s d).foldl (fun s q =>
    let x := s.queue d q
    let n := if q ≠ winner && l.any (fun e => e.q = q) then min (x.losses + 1) 64 else 0
    s.setQueue d q { x with losses := n }) s

/-- The winner's head packet starts. -/
def startWinner (s : State) (d : Nat) (e : Entrant) : State :=
  if packetBad (s.die d) e.q e.pkt then rejectHead s d e.q e.pkt
  else
    let slot := (s.queue d e.q).head.toNat
    let s1 := startHead s d e.q e.pkt
    if pktType e.pkt = 1 then recordLaunch d { q := e.q, slot } (addLaunch d { q := e.q, slot } e.pkt .started s1) else s1

/-- LOSSES of the queues that are not eligible are 0. -/
def dropLosses (s : State) (d : Nat) : State × List Entrant :=
  let r := entrants s d
  ((dieQueues r.1 d).foldl (fun s q =>
    if r.2.any (fun e => e.q = q) then s else let x := s.queue d q; s.setQueue d q { x with losses := 0 }) r.1, r.2)

/-- DISPATCH_DRAW: a draw among the eligible queues; those that the packet it starts makes ineligible lose their LOSSES. -/
def execEDispatchDraw (s : State) : Host.Outcome State Fault Refusal :=
  execEvent (fun d s =>
    let s1 := (dieQueues s d).foldl (fun s q => readHead s d q) s
    let r := dropLosses s1 d
    let w := drawWinner (r.1.die d).seed r.2
    match w.1 with
    | none => r.1
    | some e =>
      let s2 := countLosses (r.1.updDie d fun x => { x with seed := w.2 }) d r.2 e.q
      (dropLosses (startWinner s2 d e) d).1) s

/-! ## Package queues (R357, R358) -/

/-- A malformed head of a package queue completes; `k` goes on with a good one. -/
def onPackageHead (s : State) (d q : Nat) (k : State → List Word64 → State) : State :=
  let s1 := readHead s d q
  match (s1.queue d q).admitted with
  | none => s1
  | some p =>
    if !s1.queueLive d q || !unblocked (s1.queue d q) then s1
    else if packetBad (s1.die d) q p then rejectHead s1 d q p
    else k s1 p

/-- The dies that AFF names which are present and enabled. -/
def candidates (s : State) (p : List Word64) : List Nat :=
  (List.range s.dies.length).filter fun d =>
    (Pkt.aff p = 0 || Bits.bit (Pkt.aff p) d) && (s.die d).present && (s.die d).enabled

/-- Free cores in the packet's rectangle. -/
def freeCores (x : Die) (p : List Word64) : Nat := ((Pkt.cores p).filter (coreFree x)).length

/-- The candidate with the most free cores, ties to the lower die. -/
def mostFree (s : State) (p : List Word64) : List Nat → Option Nat
  | [] => none
  | d :: r =>
    match mostFree s p r with
    | none => some d
    | some e => if freeCores (s.die d) p < freeCores (s.die e) p then some e else some d

/-- LAUNCH (R354, R358): the head is read and admitted; a package queue's is resolved to a die. The draw starts it. -/
def execELaunch (q : Nat) (s : State) : Host.Outcome State Fault Refusal :=
  execEvent (fun d s =>
    if q < 1024 then readHead s d q
    else
      onPackageHead s d q fun s p =>
        if pktType p ≠ 1 || (s.queue d q).resolved.isSome then s
        else
          match mostFree s p (candidates s p) with
          | some e => s.setQueue d q { (s.queue d q) with resolved := some e }
          | none =>
            let slot := (s.queue d q).head.toNat
            endPacket (startHead s d q p) d q slot p Status.NODIE 0) s

/-! ## Started packets -/

/-- The oldest started packet of a type that no engine has accepted. -/
def startedOf (s : State) (d q type : Nat) : Option Started :=
  (s.queue d q).started.find? fun e => pktType e.pkt = type && !e.acted

/-- It is accepted. -/
def markActed (s : State) (d q slot : Nat) : State :=
  let x := s.queue d q
  s.setQueue d q { x with started := x.started.map fun e => if e.slot = slot then { e with acted := true } else e }

/-- COPY: the started packet is served by the die copy engine; one whose shape record or coordinates fail completes
with the cause (R352, 10 R327). -/
def execECopy (q : Nat) (s : State) : Host.Outcome State Fault Refusal :=
  execEvent (fun d s =>
    if 1024 ≤ q then onPackageHead s d q fun s _ => s
    else
      match startedOf s d q 2 with
      | none => s
      | some e =>
        let r := acceptDieCopy s d e.pkt 256 q e.slot none
        match r.2 with
        | none => markActed r.1 d q e.slot
        | some k => completeSlot r.1 d q e.slot (cmplOf e.pkt) { status := causeStatus k, xcause := k }) s

/-- COLLECTIVE: the started packet is posted to the die's collective engine. -/
def execECollective (q : Nat) (s : State) : Host.Outcome State Fault Refusal :=
  execEvent (fun d s =>
    if 1024 ≤ q then onPackageHead s d q fun s _ => s
    else
      match startedOf s d q 6 with
      | none => s
      | some e =>
        updColl (markActed s d q e.slot) d fun c =>
          { c with queue := c.queue ++ [{ pkt := e.pkt, src := .queue q e.slot, org := d }] }) s

/-- NOP_PACKET: it completes at once with no record. -/
def execENopPacket (q : Nat) (s : State) : Host.Outcome State Fault Refusal :=
  execEvent (fun d s =>
    let finish (s : State) : State :=
      match startedOf s d q 7 with
      | none => s
      | some e =>
        let x := s.queue d q
        s.setQueue d q { x with started := x.started.filter fun f => f.slot ≠ e.slot }
    if q < 1024 then finish s
    else onPackageHead s d q fun s p => if pktType p = 7 then finish (startHead s d q p) else s) s

/-! ### WAITDEP and SIGNAL (R353) -/

/-- The started WAITDEP completes once its word is at least V: an acquire at .SYS. A word that can not be read ends it
with BADPKT (log 28). -/
def waitdepPoll (s : State) (d q : Nat) : State :=
  match startedOf s d q 3 with
  | none => s
  | some e =>
    let a := pktWord e.pkt 1
    let ok (s : State) (v : Nat) : State := if pktWord e.pkt 2 ≤ v then endPacket s d q e.slot e.pkt 0 0 else s
    if 1024 ≤ q then
      let r := hostRead s a 8
      ok r.1 r.2
    else
      let r := rangeRead translateDie d a 8 s
      match r.2 with
      | .ok v => ok r.1 v
      | .error k => endPacket r.1 d q e.slot e.pkt Status.BADPKT k.1

/-- WAITDEP: the started packet of a die queue reads its word; a package queue's starts. -/
def execEWaitdep (q : Nat) (s : State) : Host.Outcome State Fault Refusal :=
  execEvent (fun d s =>
    if q < 1024 then waitdepPoll s d q
    else onPackageHead s d q fun s p => if pktType p = 3 then startHead s d q p else s) s

/-- WAITDEP_POLL: a package queue's WAITDEP reads its host word again. -/
def execEWaitdepPoll (q : Nat) (s : State) : Host.Outcome State Fault Refusal :=
  execEvent (fun d s => if 1024 ≤ q then waitdepPoll s d q else s) s

/-- A vector of a function raised (14 R400). -/
def raiseVector (fn v : Nat) (s : State) : State :=
  { s with pkg := { s.pkg with funcs := Bits.updAt s.pkg.funcs fn fun f => { f with vectors := v :: f.vectors } } }

/-- A 64-bit FetchAdd on host memory. -/
def hostAdd (s : State) (b v : Nat) : State := hostWrite s b 8 ((s.pkg.hostMem.read b 8 + v) % 2 ^ 64)

/-- A SIGNAL at function fn's trigger word: vector V, whose bits above the function's vector numbers are zero (14 R400). -/
def signalVector (s : State) (fn d q slot : Nat) (p : List Word64) : State :=
  let v := pktWord p 2
  if (if fn = 0 then 16 else 64) ≤ v then endPacket s d q slot p Status.BADPKT 0 else endPacket (raiseVector fn v s) d q slot p 0 0

/-- SIGNAL at a bus address: a vector at a trigger word, nothing at another address inside an own BAR (log 28), else a PCI
Express FetchAdd on host memory (01 R27, 14 R400). -/
def signalBus (s : State) (a d q slot : Nat) (p : List Word64) : State :=
  match (List.range 4).find? fun fn => a = triggerBus fn with
  | some fn => signalVector s fn d q slot p
  | none => endPacket (hostAdd s a (pktWord p 2)) d q slot p 0 0

/-- SIGNAL of a die queue: V is added to the word at A, in the aperture by a PCI Express FetchAdd (01 R27), or raises a
vector where A is the die's trigger word. -/
def signalDie (s : State) (d q slot : Nat) (p : List Word64) : State :=
  let a := pktWord p 1
  let v := pktWord p 2
  let fail (s : State) (k : Nat) : State := endPacket s d q slot p Status.BADPKT k
  let t := translateDie (s.die d) a
  let s1 := s.updDie d fun _ => t.1
  match t.2 with
  | .error k => fail s1 k
  | .ok e =>
    if e.loc a = .qctl triggerOfs then signalVector s1 (d + 1) d q slot p
    else
      match denied (s1.die d) .signal 8 a e, e.loc a with
      | some k, _ => fail s1 k
      | none, .host b =>
        let h := busFails s1 b 8
        if h.2 then fail h.1 Cause.UE else signalBus h.1 b d q slot p
      | none, l =>
        let r := rmwAt s1 d l 0 Fmt.N64 8 v 0 (engineLl e.leaf)
        match r.2 with
        | .ok _ => endPacket r.1 d q slot p 0 0
        | .error k => fail r.1 k

/-- SIGNAL: it starts once every earlier packet of its queue has completed, and acts. -/
def execESignal (q : Nat) (s : State) : Host.Outcome State Fault Refusal :=
  execEvent (fun d s =>
    if q < 1024 then
      match startedOf s d q 4 with
      | none => s
      | some e => signalDie s d q e.slot e.pkt
    else
      onPackageHead s d q fun s p =>
        if pktType p = 4 && (s.queue d q).started.isEmpty then
          signalBus (startHead s d q p) (pktWord p 1) d q (s.queue d q).head.toNat p
        else s) s

/-! ## WATCH_ITEM_RETRY (R351) -/

/-- The first watch item whose 1 µs is over claims a slot again. -/
def execEWatchItemRetry (s : State) : Host.Outcome State Fault Refusal :=
  execEvent (fun d s =>
    match (s.die d).watchItems.find? (fun i => decide (i.due ≤ s.pkg.mclk)) with
    | none => s
    | some i =>
      let r := postItem (s.updDie d fun x => { x with watchItems := x.watchItems.erase i }) d i.q i.item
      fireAll r.2 r.1) s

end Sys2Proof.Machine
end

