-- ==== Sys2Proof/Decode.lean ====
section
/-! DEFINITION. Decoding and encoding of composer words (06 Tables 6.1 to 6.4) and of lane words (06 Tables 6.5 to
6.17a). Decoding answers the instruction, or the name of the rule that the word breaks: GILLOP for a composer word
(R180), the failed check's number for a lane word (R197). A word with an absent or unallocated opcode decodes to the
row of the opcode table that stands for it. -/

namespace Sys2Proof

/-- Why a word is no instruction. -/
inductive DecodeError where
  | gillop            -- a composer word that breaks R178 or R179 (R180)
  | illop (check : Nat) -- a lane word that fails the check of R197
  | header            -- a block header, which no PC slot issues (R196)
  | length            -- not 32 and not 64 bits
  deriving DecidableEq, Repr

namespace Decode

/-! ## Fields of a composer word (Table 6.1) -/

def cMajor (w : Word32) : BitVec 6 := w.extractLsb' 26 6
def cD (w : Word32) : BitVec 5 := w.extractLsb' 21 5
def cA (w : Word32) : BitVec 5 := w.extractLsb' 16 5
def cB (w : Word32) : BitVec 5 := w.extractLsb' 11 5
def cFn (w : Word32) : BitVec 11 := w.extractLsb' 0 11
def cImm (w : Word32) : BitVec 16 := w.extractLsb' 0 16
def cOff21 (w : Word32) : BitVec 21 := w.extractLsb' 0 21

/-- The instruction when the fields that its row does not name are zero and no sub-field is reserved, else GILLOP
(R178, R180). -/
def cOk (zero : Bool) (i : Instr) : Except DecodeError Instr :=
  if zero && Checks.composer i then .ok i else .error .gillop

/-- The ALU group (Table 6.3); an absent function code is the row ABSENT_COMPOSER_OPCODE. -/
def cAlu (w : Word32) : Instr :=
  match (cFn w).toNat with
  | 0x00 => .cAdd (cD w) (cA w) (cB w)
  | 0x01 => .cSub (cD w) (cA w) (cB w)
  | 0x02 => .cMul (cD w) (cA w) (cB w)
  | 0x03 => .cMulh (cD w) (cA w) (cB w)
  | 0x04 => .cDivu (cD w) (cA w) (cB w)
  | 0x05 => .cRemu (cD w) (cA w) (cB w)
  | 0x08 => .cAnd (cD w) (cA w) (cB w)
  | 0x09 => .cOr (cD w) (cA w) (cB w)
  | 0x0A => .cXor (cD w) (cA w) (cB w)
  | 0x10 => .cShl (cD w) (cA w) (cB w)
  | 0x11 => .cShr (cD w) (cA w) (cB w)
  | 0x12 => .cSra (cD w) (cA w) (cB w)
  | 0x18 => .cSlt (cD w) (cA w) (cB w)
  | 0x19 => .cSltu (cD w) (cA w) (cB w)
  | 0x1A => .cMin (cD w) (cA w) (cB w)
  | 0x1B => .cMax (cD w) (cA w) (cB w)
  | _ => .xAbsentComposerOpcode w

/-- The GCTL instruction of a function code (Table 6.2, 0x39); codes 4 to 7 are reserved. -/
def cGctl (w : Word32) : Option Instr :=
  match (cFn w).toNat with
  | 0 => some (.cGctlStop (cA w))
  | 1 => some (.cGctlResume (cA w))
  | 2 => some (.cGctlStep (cA w))
  | 3 => some (.cGctlKill (cA w))
  | _ => none

end Decode

open Decode in
/-- The composer instruction that a word encodes (R177 to R180, Table 6.2). -/
def decodeComposer (w : Word32) : Except DecodeError Instr :=
  let d := cD w
  let a := cA w
  let b := cB w
  let fn := cFn w
  let imm := cImm w
  match (cMajor w).toNat with
  | 0x00 => .ok (cAlu w)
  | 0x01 => .ok (.cAddi d a imm)
  | 0x02 => .ok (.cAndi d a imm)
  | 0x03 => .ok (.cOri d a imm)
  | 0x04 => .ok (.cXori d a imm)
  | 0x05 => cOk (imm.extractLsb' 6 10 = 0) (.cShli d a (imm.extractLsb' 0 6))
  | 0x06 => cOk (imm.extractLsb' 6 10 = 0) (.cShri d a (imm.extractLsb' 0 6))
  | 0x07 => cOk (imm.extractLsb' 6 10 = 0) (.cSrai d a (imm.extractLsb' 0 6))
  | 0x08 => .ok (.cSlti d a imm)
  | 0x09 => cOk (a = 0) (.cLui d imm)
  | 0x0A => cOk (imm.extractLsb' 12 4 = 0) (.cInsf d a (imm.extractLsb' 6 6) (imm.extractLsb' 0 6))
  | 0x0B => cOk (imm.extractLsb' 12 4 = 0) (.cExtf d a (imm.extractLsb' 6 6) (imm.extractLsb' 0 6))
  | 0x10 => cOk true (.cLd d a (imm.extractLsb' 14 2) (imm.extractLsb' 12 2) (imm.extractLsb' 0 12))
  | 0x11 => cOk true (.cSt d a (imm.extractLsb' 14 2) (imm.extractLsb' 12 2) (imm.extractLsb' 0 12))
  | 0x12 => cOk (fn.extractLsb' 0 1 = 0) (.cAmo d a b (fn.extractLsb' 9 2) (fn.extractLsb' 8 1)
      (fn.extractLsb' 6 2) (fn.extractLsb' 4 2) (fn.extractLsb' 1 3))
  | 0x13 => cOk (d = 0 && a = 0 && b = 0 && fn.extractLsb' 6 5 = 0 && fn.extractLsb' 0 1 = 0)
      (.cFence (fn.extractLsb' 4 2) (fn.extractLsb' 1 3))
  | 0x20 => .ok (.cBeq d a imm)
  | 0x21 => .ok (.cBne d a imm)
  | 0x22 => .ok (.cBlt d a imm)
  | 0x23 => .ok (.cBge d a imm)
  | 0x24 => .ok (.cBltu d a imm)
  | 0x25 => .ok (.cBgeu d a imm)
  | 0x26 => .ok (.cJal d (cOff21 w))
  | 0x27 => .ok (.cJalr d a imm)
  | 0x28 => cOk (a = 0 && b = 0 && fn = 0) (.cEvwait d)
  | 0x29 => cOk (d = 0 && a = 0 && b = 0 && fn = 0) .cEret
  | 0x2A => cOk (d = 0 && a = 0) (.cBrkc imm)
  | 0x2B => cOk (d = 0 && a = 0 && b = 0 && fn = 0) .cDone
  | 0x30 => cOk (d = 0 && b = 0 && fn = 0) (.cEmit a)
  | 0x31 => cOk (d = 0 && fn.extractLsb' 0 6 = 0) (.cEmitt a b (fn.extractLsb' 6 5))
  | 0x32 => cOk (d = 0 && fn = 0) (.cEmitb a b)
  | 0x33 => cOk (d = 0 && fn.extractLsb' 0 6 = 0) (.cEmitr a b (fn.extractLsb' 6 5))
  | 0x34 => cOk (d = 0 && b = 0 && fn = 0) (.cEmith a)
  | 0x35 => cOk (a = 0 && b = 0 && fn = 0) (.cSeal d)
  | 0x36 => cOk (d = 0 && fn = 0) (.cRun a b)
  | 0x37 => cOk (d = 0 && fn = 0) (.cWaitf a b)
  | 0x38 => cOk (d = 0 && b = 0 && fn = 0) (.cFree a)
  | 0x39 =>
    match cGctl w with
    | some i => cOk (d = 0 && b = 0) i
    | none => .error .gillop
  | 0x3A => cOk (a = 0 && b = 0 && fn = 0) (.cWfetch d)
  | 0x3B => cOk (b = 0 && fn = 0) (.cMkshp d a)
  | 0x3C => cOk (d = 0 && a = 0 && b = 0 && fn = 0) .cLtrig
  | 0x3D => cOk (d = 0 && a = 0 && b = 0 && fn = 0) .cDepwait
  | 0x3E => cOk (a = 0 && imm.extractLsb' 12 4 = 0) (.cMfs d (imm.extractLsb' 0 12))
  | 0x3F => cOk (d = 0 && imm.extractLsb' 12 4 = 0) (.cMts a (imm.extractLsb' 0 12))
  | _ => .ok (.xAbsentComposerOpcode w)

namespace Decode

/-! ## Fields of a lane word -/

def opc (w : Word64) : BitVec 8 := w.extractLsb' 56 8

/-- Table 6.6. -/
def vOps (w : Word64) : VOps where
  keepa := w.extractLsb' 55 1
  dst := w.extractLsb' 47 8
  sa := w.extractLsb' 39 8
  sb := w.extractLsb' 31 8
  mod := w.extractLsb' 19 12
  sc := w.extractLsb' 11 8
  fmt := w.extractLsb' 5 6
  qual := w.extractLsb' 0 5

/-- Table 6.9. -/
def iOps (w : Word64) : IOps where
  dst := w.extractLsb' 48 8
  imm := w.extractLsb' 0 32

/-- Table 6.10. -/
def mOps (w : Word64) : MOps where
  data := w.extractLsb' 48 8
  base := w.extractLsb' 42 6
  ofs := w.extractLsb' 34 8
  scl := w.extractLsb' 32 2
  imm := w.extractLsb' 12 20
  szf := w.extractLsb' 6 6
  mode := w.extractLsb' 0 6

/-- Table 6.13. -/
def xOps (w : Word64) : XOps where
  ra := w.extractLsb' 48 8
  rb := w.extractLsb' 40 8
  tr := w.extractLsb' 36 4
  tc := w.extractLsb' 32 4
  bat := w.extractLsb' 28 4
  cnt := w.extractLsb' 16 12
  fmt := w.extractLsb' 10 6
  xq := w.extractLsb' 0 10

/-- Table 6.15. -/
def cOps (w : Word64) : COps where
  cond := w.extractLsb' 48 8
  link := w.extractLsb' 40 8
  t1 := w.extractLsb' 28 12
  t2 := w.extractLsb' 16 12
  k := w.extractLsb' 8 8
  neg := w.extractLsb' 0 1

/-- Bits of a word that no field of its format covers and that must be zero: [47:32] of format I, [7:1] of
format C (check 2). -/
def spareZero (w : Word64) : Instr → Bool
  | .lMovi _ => w.extractLsb' 32 16 = 0
  | .lBra _ => w.extractLsb' 1 7 = 0
  | .lBrx _ => w.extractLsb' 1 7 = 0
  | .lCall _ => w.extractLsb' 1 7 = 0
  | .lRet _ => w.extractLsb' 1 7 = 0
  | .lIf _ => w.extractLsb' 1 7 = 0
  | .lElse _ => w.extractLsb' 1 7 = 0
  | .lEndif _ => w.extractLsb' 1 7 = 0
  | .lLoop _ => w.extractLsb' 1 7 = 0
  | .lBreak _ => w.extractLsb' 1 7 = 0
  | .lCont _ => w.extractLsb' 1 7 = 0
  | .lEndl _ => w.extractLsb' 1 7 = 0
  | .lExit _ => w.extractLsb' 1 7 = 0
  | .lYield _ => w.extractLsb' 1 7 = 0
  | .lNop _ => w.extractLsb' 1 7 = 0
  | _ => true

/-- The integer instruction at an opcode 0x00 to 0x18 (Table 6.5). -/
def intOp : Nat → Option IntOp
  | 0x00 => some .iadd
  | 0x01 => some .isub
  | 0x02 => some .imul
  | 0x03 => some .imulh
  | 0x04 => some .imad
  | 0x05 => some .imin
  | 0x06 => some .imax
  | 0x07 => some .iabs
  | 0x08 => some .idot4
  | 0x09 => some .and
  | 0x0A => some .or
  | 0x0B => some .xor
  | 0x0C => some .andn
  | 0x0D => some .not
  | 0x0E => some .shl
  | 0x0F => some .shr
  | 0x10 => some .sha
  | 0x11 => some .rotl
  | 0x12 => some .popc
  | 0x13 => some .clz
  | 0x14 => some .brev
  | 0x15 => some .bfe
  | 0x16 => some .bfi
  | 0x17 => some .icmp
  | 0x18 => some .sel
  | _ => none

/-- The opcode 0x00 to 0x18 of an integer instruction (Table 6.5). -/
def intCode : IntOp → BitVec 8
  | .iadd => 0x00
  | .isub => 0x01
  | .imul => 0x02
  | .imulh => 0x03
  | .imad => 0x04
  | .imin => 0x05
  | .imax => 0x06
  | .iabs => 0x07
  | .idot4 => 0x08
  | .and => 0x09
  | .or => 0x0A
  | .xor => 0x0B
  | .andn => 0x0C
  | .not => 0x0D
  | .shl => 0x0E
  | .shr => 0x0F
  | .sha => 0x10
  | .rotl => 0x11
  | .popc => 0x12
  | .clz => 0x13
  | .brev => 0x14
  | .bfe => 0x15
  | .bfi => 0x16
  | .icmp => 0x17
  | .sel => 0x18

/-- The FEOP instruction of an operation code in SZF (R189); codes above 2 are reserved. -/
def feop (o : MOps) : Option Instr :=
  match o.szf.toNat with
  | 0 => some (.lFeopSetf o)
  | 1 => some (.lFeopSete o)
  | 2 => some (.lFeopRdf o)
  | _ => none

/-- The instruction of an opcode with the fields of its format (Table 6.5). -/
def laneArm (op : Nat) (v : VOps) (i : IOps) (m : MOps) (c : COps) (x : XOps) (w : Word64) :
    Except DecodeError Instr :=
  match op with
  | 0x00 => .ok (.lIadd v)
  | 0x01 => .ok (.lIsub v)
  | 0x02 => .ok (.lImul v)
  | 0x03 => .ok (.lImulh v)
  | 0x04 => .ok (.lImad v)
  | 0x05 => .ok (.lImin v)
  | 0x06 => .ok (.lImax v)
  | 0x07 => .ok (.lIabs v)
  | 0x08 => .ok (.lIdot4 v)
  | 0x09 => .ok (.lAnd v)
  | 0x0A => .ok (.lOr v)
  | 0x0B => .ok (.lXor v)
  | 0x0C => .ok (.lAndn v)
  | 0x0D => .ok (.lNot v)
  | 0x0E => .ok (.lShl v)
  | 0x0F => .ok (.lShr v)
  | 0x10 => .ok (.lSha v)
  | 0x11 => .ok (.lRotl v)
  | 0x12 => .ok (.lPopc v)
  | 0x13 => .ok (.lClz v)
  | 0x14 => .ok (.lBrev v)
  | 0x15 => .ok (.lBfe v)
  | 0x16 => .ok (.lBfi v)
  | 0x17 => .ok (.lIcmp v)
  | 0x18 => .ok (.lSel v)
  | 0x20 => .ok (.lWform .iadd v)
  | 0x21 => .ok (.lWform .isub v)
  | 0x22 => .ok (.lWform .imul v)
  | 0x23 => .ok (.lWform .imulh v)
  | 0x24 => .ok (.lWform .imad v)
  | 0x25 => .ok (.lWform .imin v)
  | 0x26 => .ok (.lWform .imax v)
  | 0x27 => .ok (.lWform .iabs v)
  | 0x28 => .ok (.lWform .idot4 v)
  | 0x29 => .ok (.lWform .and v)
  | 0x2A => .ok (.lWform .or v)
  | 0x2B => .ok (.lWform .xor v)
  | 0x2C => .ok (.lWform .andn v)
  | 0x2D => .ok (.lWform .not v)
  | 0x2E => .ok (.lWform .shl v)
  | 0x2F => .ok (.lWform .shr v)
  | 0x30 => .ok (.lWform .sha v)
  | 0x31 => .ok (.lWform .rotl v)
  | 0x32 => .ok (.lWform .popc v)
  | 0x33 => .ok (.lWform .clz v)
  | 0x34 => .ok (.lWform .brev v)
  | 0x35 => .ok (.lWform .bfe v)
  | 0x36 => .ok (.lWform .bfi v)
  | 0x37 => .ok (.lWform .icmp v)
  | 0x38 => .ok (.lWform .sel v)
  | 0x40 => .ok (.lFadd v)
  | 0x41 => .ok (.lFsub v)
  | 0x42 => .ok (.lFmul v)
  | 0x43 => .ok (.lFfma v)
  | 0x44 => .ok (.lFmin v)
  | 0x45 => .ok (.lFmax v)
  | 0x46 => .ok (.lFcmp v)
  | 0x47 => .ok (.lFclass v)
  | 0x48 => .ok (.lFscale v)
  | 0x49 => .ok (.lFrnd v)
  | 0x50 => .ok (.lFrcp v)
  | 0x51 => .ok (.lFrsq v)
  | 0x52 => .ok (.lFsqrt v)
  | 0x53 => .ok (.lFexp2 v)
  | 0x54 => .ok (.lFlog2 v)
  | 0x55 => .ok (.lFsin v)
  | 0x56 => .ok (.lFcos v)
  | 0x57 => .ok (.lFtanh v)
  | 0x58 => .ok (.lFsigm v)
  | 0x70 => .ok (.lCvt v)
  | 0x71 => .ok (.lCvtn v)
  | 0x72 => .ok (.lCvtw v)
  | 0x73 => .ok (.lDq v)
  | 0x74 => .ok (.lQz v)
  | 0x75 => .ok (.lEfclr v)
  | 0x76 => .ok (.lEfmov v)
  | 0x80 => .ok (.lMov v)
  | 0x82 => .ok (.lWmov v)
  | 0x83 => .ok (.lShfl v)
  | 0x84 => .ok (.lVote v)
  | 0x85 => .ok (.lGred v)
  | 0x86 => .ok (.lPrmt v)
  | 0x88 => .ok (.lXset v)
  | 0x89 => .ok (.lXld v)
  | 0x8A => .ok (.lXst v)
  | 0x8B => .ok (.lXadd v)
  | 0xB0 => .ok (.lSync v)
  | 0xB1 => .ok (.lRvinit v)
  | 0xB2 => .ok (.lArrive v)
  | 0xB3 => .ok (.lWait v)
  | 0xB4 => .ok (.lRarrive v)
  | 0xB5 => .ok (.lSpana v)
  | 0xB6 => .ok (.lSpanw v)
  | 0xE8 => .ok (.lTfence v)
  | 0xE9 => .ok (.lTrap v)
  | 0xEA => .ok (.lBrk v)
  | 0xEB => .ok (.lRds v)
  | 0xEC => .ok (.lWrs v)
  | 0x81 => .ok (.lMovi i)
  | 0x90 => .ok (.lLd .x1 m)
  | 0x91 => .ok (.lLd .x2 m)
  | 0x92 => .ok (.lLd .x4 m)
  | 0x94 => .ok (.lSt .x1 m)
  | 0x95 => .ok (.lSt .x2 m)
  | 0x96 => .ok (.lSt .x4 m)
  | 0x98 => .ok (.lLds .x1 m)
  | 0x99 => .ok (.lLds .x2 m)
  | 0x9A => .ok (.lLds .x4 m)
  | 0x9C => .ok (.lSts .x1 m)
  | 0x9D => .ok (.lSts .x2 m)
  | 0x9E => .ok (.lSts .x4 m)
  | 0xA0 =>
    match feop m with
    | some i => .ok i
    | none => .error (.illop (if m.mode = 0 then 3 else 2))
  | 0xA1 => .ok (.lAtom m)
  | 0xA2 => .ok (.lRed m)
  | 0xA3 => .ok (.lRedCu m)
  | 0xA4 => .ok (.lPref m)
  | 0xA5 => .ok (.lFence m)
  | 0xC0 => .ok (.lBra c)
  | 0xC1 => .ok (.lBrx c)
  | 0xC2 => .ok (.lCall c)
  | 0xC3 => .ok (.lRet c)
  | 0xC4 => .ok (.lIf c)
  | 0xC5 => .ok (.lElse c)
  | 0xC6 => .ok (.lEndif c)
  | 0xC7 => .ok (.lLoop c)
  | 0xC8 => .ok (.lBreak c)
  | 0xC9 => .ok (.lCont c)
  | 0xCA => .ok (.lEndl c)
  | 0xCB => .ok (.lExit c)
  | 0xCC => .ok (.lYield c)
  | 0xCD => .ok (.lNop c)
  | 0xD0 => .ok (.lMma x)
  | 0xD1 => .ok (.lMloop x)
  | 0xD2 => .ok (.lMbatch x)
  | 0xD3 => .ok (.lMwait x)
  | 0xD4 => .ok (.lAclr x)
  | 0xD5 => .ok (.lAld x)
  | 0xD6 => .ok (.lAst x)
  | 0xD7 => .ok (.lScfeed x)
  | 0xE0 => .ok (.lCpy x)
  | 0xE1 => .ok (.lCwait x)
  | 0xE2 => .ok (.lColl x)
  | 0xE3 => .ok (.lCtrig x)
  | 0xE4 => .ok (.lCdisarm x)
  | 0xF0 => .error .header
  | _ => .ok (.xUnallocatedLaneOpcode w)

/-- The instruction of a lane word's opcode with its fields, unchecked. -/
def laneFields (w : Word64) : Except DecodeError Instr :=
  laneArm (opc w).toNat (vOps w) (iOps w) (mOps w) (cOps w) (xOps w) w

end Decode

open Decode in
/-- The lane instruction that a word encodes for a team of `vregs` vector registers, or the check of R197 that it
fails first. -/
def decodeLane (vregs : Nat) (w : Word64) : Except DecodeError Instr :=
  match laneFields w with
  | .error e => .error e
  | .ok i =>
    if !spareZero w i then .error (.illop 2)
    else
      match Checks.lane vregs i with
      | some n => .error (.illop n)
      | none => .ok i

/-! ## Encoding -/

namespace Encode

def cr (op : BitVec 6) (d a b : BitVec 5) (fn : BitVec 11) : Word32 := op ++ d ++ a ++ b ++ fn
def ci (op : BitVec 6) (d a : BitVec 5) (imm : BitVec 16) : Word32 := op ++ d ++ a ++ imm
def cj (op : BitVec 6) (d : BitVec 5) (off : BitVec 21) : Word32 := op ++ d ++ off

def v (op : BitVec 8) (o : VOps) : Word64 :=
  op ++ o.keepa ++ o.dst ++ o.sa ++ o.sb ++ o.mod ++ o.sc ++ o.fmt ++ o.qual
def i (op : BitVec 8) (o : IOps) : Word64 := op ++ o.dst ++ (0 : BitVec 16) ++ o.imm
def m (op : BitVec 8) (o : MOps) : Word64 :=
  op ++ o.data ++ o.base ++ o.ofs ++ o.scl ++ o.imm ++ o.szf ++ o.mode
def x (op : BitVec 8) (o : XOps) : Word64 :=
  op ++ o.ra ++ o.rb ++ o.tr ++ o.tc ++ o.bat ++ o.cnt ++ o.fmt ++ o.xq
def c (op : BitVec 8) (o : COps) : Word64 :=
  op ++ o.cond ++ o.link ++ o.t1 ++ o.t2 ++ o.k ++ (0 : BitVec 7) ++ o.neg

end Encode

open Encode in
/-- The word of a composer instruction; `none` for an instruction that no composer word encodes. -/
def encodeComposer : Instr → Option Word32
  | .cAdd d a b => some (cr 0x00 d a b 0x00)
  | .cSub d a b => some (cr 0x00 d a b 0x01)
  | .cMul d a b => some (cr 0x00 d a b 0x02)
  | .cMulh d a b => some (cr 0x00 d a b 0x03)
  | .cDivu d a b => some (cr 0x00 d a b 0x04)
  | .cRemu d a b => some (cr 0x00 d a b 0x05)
  | .cAnd d a b => some (cr 0x00 d a b 0x08)
  | .cOr d a b => some (cr 0x00 d a b 0x09)
  | .cXor d a b => some (cr 0x00 d a b 0x0A)
  | .cShl d a b => some (cr 0x00 d a b 0x10)
  | .cShr d a b => some (cr 0x00 d a b 0x11)
  | .cSra d a b => some (cr 0x00 d a b 0x12)
  | .cSlt d a b => some (cr 0x00 d a b 0x18)
  | .cSltu d a b => some (cr 0x00 d a b 0x19)
  | .cMin d a b => some (cr 0x00 d a b 0x1A)
  | .cMax d a b => some (cr 0x00 d a b 0x1B)
  | .cAddi d a i => some (ci 0x01 d a i)
  | .cAndi d a i => some (ci 0x02 d a i)
  | .cOri d a i => some (ci 0x03 d a i)
  | .cXori d a i => some (ci 0x04 d a i)
  | .cShli d a n => some (ci 0x05 d a ((0 : BitVec 10) ++ n))
  | .cShri d a n => some (ci 0x06 d a ((0 : BitVec 10) ++ n))
  | .cSrai d a n => some (ci 0x07 d a ((0 : BitVec 10) ++ n))
  | .cSlti d a i => some (ci 0x08 d a i)
  | .cLui d i => some (ci 0x09 d 0 i)
  | .cInsf d a l p => some (ci 0x0A d a ((0 : BitVec 4) ++ l ++ p))
  | .cExtf d a l p => some (ci 0x0B d a ((0 : BitVec 4) ++ l ++ p))
  | .cLd d a z s o => some (ci 0x10 d a (z ++ s ++ o))
  | .cSt d a z s o => some (ci 0x11 d a (z ++ s ++ o))
  | .cAmo d a b o s z r c => some (cr 0x12 d a b (o ++ s ++ z ++ r ++ c ++ (0 : BitVec 1)))
  | .cFence k c => some (cr 0x13 0 0 0 ((0 : BitVec 5) ++ k ++ c ++ (0 : BitVec 1)))
  | .cBeq a b o => some (ci 0x20 a b o)
  | .cBne a b o => some (ci 0x21 a b o)
  | .cBlt a b o => some (ci 0x22 a b o)
  | .cBge a b o => some (ci 0x23 a b o)
  | .cBltu a b o => some (ci 0x24 a b o)
  | .cBgeu a b o => some (ci 0x25 a b o)
  | .cJal d o => some (cj 0x26 d o)
  | .cJalr d a i => some (ci 0x27 d a i)
  | .cEvwait d => some (cr 0x28 d 0 0 0)
  | .cEret => some (cr 0x29 0 0 0 0)
  | .cBrkc i => some (ci 0x2A 0 0 i)
  | .cDone => some (cr 0x2B 0 0 0 0)
  | .cEmit a => some (cr 0x30 0 a 0 0)
  | .cEmitt a b c => some (cr 0x31 0 a b (c ++ (0 : BitVec 6)))
  | .cEmitb a b => some (cr 0x32 0 a b 0)
  | .cEmitr a b c => some (cr 0x33 0 a b (c ++ (0 : BitVec 6)))
  | .cEmith a => some (cr 0x34 0 a 0 0)
  | .cSeal d => some (cr 0x35 d 0 0 0)
  | .cRun a b => some (cr 0x36 0 a b 0)
  | .cWaitf a b => some (cr 0x37 0 a b 0)
  | .cFree a => some (cr 0x38 0 a 0 0)
  | .cGctlStop a => some (cr 0x39 0 a 0 0)
  | .cGctlResume a => some (cr 0x39 0 a 0 1)
  | .cGctlStep a => some (cr 0x39 0 a 0 2)
  | .cGctlKill a => some (cr 0x39 0 a 0 3)
  | .cWfetch d => some (cr 0x3A d 0 0 0)
  | .cMkshp d a => some (cr 0x3B d a 0 0)
  | .cLtrig => some (cr 0x3C 0 0 0 0)
  | .cDepwait => some (cr 0x3D 0 0 0 0)
  | .cMfs d s => some (ci 0x3E d 0 ((0 : BitVec 4) ++ s))
  | .cMts a s => some (ci 0x3F 0 a ((0 : BitVec 4) ++ s))
  | .xAbsentComposerOpcode w => some w
  | _ => none

open Encode in
/-- The word of a lane instruction; `none` for an instruction that no lane word encodes. -/
def encodeLane : Instr → Option Word64
  | .lIadd o => some (v 0x00 o)
  | .lIsub o => some (v 0x01 o)
  | .lImul o => some (v 0x02 o)
  | .lImulh o => some (v 0x03 o)
  | .lImad o => some (v 0x04 o)
  | .lImin o => some (v 0x05 o)
  | .lImax o => some (v 0x06 o)
  | .lIabs o => some (v 0x07 o)
  | .lIdot4 o => some (v 0x08 o)
  | .lAnd o => some (v 0x09 o)
  | .lOr o => some (v 0x0A o)
  | .lXor o => some (v 0x0B o)
  | .lAndn o => some (v 0x0C o)
  | .lNot o => some (v 0x0D o)
  | .lShl o => some (v 0x0E o)
  | .lShr o => some (v 0x0F o)
  | .lSha o => some (v 0x10 o)
  | .lRotl o => some (v 0x11 o)
  | .lPopc o => some (v 0x12 o)
  | .lClz o => some (v 0x13 o)
  | .lBrev o => some (v 0x14 o)
  | .lBfe o => some (v 0x15 o)
  | .lBfi o => some (v 0x16 o)
  | .lIcmp o => some (v 0x17 o)
  | .lSel o => some (v 0x18 o)
  | .lWform op o => some (v (0x20 + Decode.intCode op) o)
  | .lFadd o => some (v 0x40 o)
  | .lFsub o => some (v 0x41 o)
  | .lFmul o => some (v 0x42 o)
  | .lFfma o => some (v 0x43 o)
  | .lFmin o => some (v 0x44 o)
  | .lFmax o => some (v 0x45 o)
  | .lFcmp o => some (v 0x46 o)
  | .lFclass o => some (v 0x47 o)
  | .lFscale o => some (v 0x48 o)
  | .lFrnd o => some (v 0x49 o)
  | .lFrcp o => some (v 0x50 o)
  | .lFrsq o => some (v 0x51 o)
  | .lFsqrt o => some (v 0x52 o)
  | .lFexp2 o => some (v 0x53 o)
  | .lFlog2 o => some (v 0x54 o)
  | .lFsin o => some (v 0x55 o)
  | .lFcos o => some (v 0x56 o)
  | .lFtanh o => some (v 0x57 o)
  | .lFsigm o => some (v 0x58 o)
  | .lCvt o => some (v 0x70 o)
  | .lCvtn o => some (v 0x71 o)
  | .lCvtw o => some (v 0x72 o)
  | .lDq o => some (v 0x73 o)
  | .lQz o => some (v 0x74 o)
  | .lEfclr o => some (v 0x75 o)
  | .lEfmov o => some (v 0x76 o)
  | .lMov o => some (v 0x80 o)
  | .lWmov o => some (v 0x82 o)
  | .lShfl o => some (v 0x83 o)
  | .lVote o => some (v 0x84 o)
  | .lGred o => some (v 0x85 o)
  | .lPrmt o => some (v 0x86 o)
  | .lXset o => some (v 0x88 o)
  | .lXld o => some (v 0x89 o)
  | .lXst o => some (v 0x8A o)
  | .lXadd o => some (v 0x8B o)
  | .lSync o => some (v 0xB0 o)
  | .lRvinit o => some (v 0xB1 o)
  | .lArrive o => some (v 0xB2 o)
  | .lWait o => some (v 0xB3 o)
  | .lRarrive o => some (v 0xB4 o)
  | .lSpana o => some (v 0xB5 o)
  | .lSpanw o => some (v 0xB6 o)
  | .lTfence o => some (v 0xE8 o)
  | .lTrap o => some (v 0xE9 o)
  | .lBrk o => some (v 0xEA o)
  | .lRds o => some (v 0xEB o)
  | .lWrs o => some (v 0xEC o)
  | .lMovi o => some (i 0x81 o)
  | .lLd .x1 o => some (m 0x90 o)
  | .lLd .x2 o => some (m 0x91 o)
  | .lLd .x4 o => some (m 0x92 o)
  | .lSt .x1 o => some (m 0x94 o)
  | .lSt .x2 o => some (m 0x95 o)
  | .lSt .x4 o => some (m 0x96 o)
  | .lLds .x1 o => some (m 0x98 o)
  | .lLds .x2 o => some (m 0x99 o)
  | .lLds .x4 o => some (m 0x9A o)
  | .lSts .x1 o => some (m 0x9C o)
  | .lSts .x2 o => some (m 0x9D o)
  | .lSts .x4 o => some (m 0x9E o)
  | .lFeopSetf o => some (m 0xA0 o)
  | .lFeopSete o => some (m 0xA0 o)
  | .lFeopRdf o => some (m 0xA0 o)
  | .lAtom o => some (m 0xA1 o)
  | .lRed o => some (m 0xA2 o)
  | .lRedCu o => some (m 0xA3 o)
  | .lPref o => some (m 0xA4 o)
  | .lFence o => some (m 0xA5 o)
  | .lBra o => some (c 0xC0 o)
  | .lBrx o => some (c 0xC1 o)
  | .lCall o => some (c 0xC2 o)
  | .lRet o => some (c 0xC3 o)
  | .lIf o => some (c 0xC4 o)
  | .lElse o => some (c 0xC5 o)
  | .lEndif o => some (c 0xC6 o)
  | .lLoop o => some (c 0xC7 o)
  | .lBreak o => some (c 0xC8 o)
  | .lCont o => some (c 0xC9 o)
  | .lEndl o => some (c 0xCA o)
  | .lExit o => some (c 0xCB o)
  | .lYield o => some (c 0xCC o)
  | .lNop o => some (c 0xCD o)
  | .lMma o => some (x 0xD0 o)
  | .lMloop o => some (x 0xD1 o)
  | .lMbatch o => some (x 0xD2 o)
  | .lMwait o => some (x 0xD3 o)
  | .lAclr o => some (x 0xD4 o)
  | .lAld o => some (x 0xD5 o)
  | .lAst o => some (x 0xD6 o)
  | .lScfeed o => some (x 0xD7 o)
  | .lCpy o => some (x 0xE0 o)
  | .lCwait o => some (x 0xE1 o)
  | .lColl o => some (x 0xE2 o)
  | .lCtrig o => some (x 0xE3 o)
  | .lCdisarm o => some (x 0xE4 o)
  | .xUnallocatedLaneOpcode w => some w
  | _ => none

/-- The word of a well-formed instruction, with its number of bits. -/
def encode (i : Instr) : Option (Nat × Nat) :=
  match encodeComposer i with
  | some w => some (32, w.toNat)
  | none =>
    match encodeLane i with
    | some w => some (64, w.toNat)
    | none => none

/-- The instruction that a word of `nbits` bits encodes, its bits numbered as the opcode table numbers them: 32 bits
are a composer word, 64 bits a lane word of a team that declares all 192 vector registers. -/
def decodeTableWord (nbits w : Nat) : Option Instr :=
  if nbits = 32 then
    match decodeComposer (BitVec.ofNat 32 w) with
    | .ok i => some i
    | .error _ => none
  else if nbits = 64 then
    match decodeLane 192 (BitVec.ofNat 64 w) with
    | .ok i => some i
    | .error _ => none
  else none

end Sys2Proof
end

