-- ==== Sys2Proof/Machine/Fetch.lean ====
section
/-! DEFINITION. Fetching the next instruction: a composer word through the instruction cache (03 R88), a lane word from
the frame buffer (06 R196, R197); where a word for the host's question is placed; and which party moves when no turn is
waiting (log 1). -/

namespace Sys2Proof.Machine

open Sys2Proof

/-- What a party finds at its program counter. -/
inductive Fetched where
  | instr (i : Instr) (s : State)       -- an instruction, and the state after its fetch
  | wait (s : State)                    -- the word is not there yet
  | stop (s : State)                    -- no instruction: the party has taken the fault

/-! ## Composer -/

/-- ACCESS of a composer fetch: kind 9, 4 bytes, global (13 Table 13.2). -/
def fetchAccess : Nat := accessOf 9 2 0

/-- A 64-byte line put in the instruction cache, which holds 256 (R88). -/
def icachePut (m : SMap Nat) (line v : Nat) : SMap Nat := (if m.length < 256 then m else m.drop 1).insert line v

/-- A fetched composer word decoded; a word that is no instruction faults GILLOP (06 R180). -/
def decodeFetched (s : State) (d c : Nat) (w : Word32) : Fetched :=
  match decodeComposer w with
  | .ok i => .instr i s
  | .error _ => .stop (takeCompFault s d c { code := Code.GILLOP })

/-- A word of a line. -/
def wordOfLine (v pc : Nat) : Word32 := BitVec.ofNat 32 (v / 2 ^ (8 * (pc % 64)))

/-- The composer's fetch at its PC (07 R214, 03 R88). A line that is not in the instruction cache is filled under the
composer's translation, which needs X, with its page's treatment at the last level (R100). -/
def fetchComposer (s : State) (d c : Nat) (t : Team) : Fetched :=
  let pc := t.comp.pc.toNat
  match t.comp.icache.find? (pc / 64) with
  | some v => decodeFetched s d c (wordOfLine v pc)
  | none =>
    let r := withEntry s d c t .fetch 4 pc fetchAccess fun s1 e =>
      let r := readAt s1 d (e.loc (pc / 64 * 64)) 64 (if e.leaf.peer then 2 else min 2 e.leaf.cache)
      match r.2 with
      | .ok v => .next (r.1.updComp d c fun k => { k with icache := icachePut k.icache (pc / 64) v })
      | .error cause => compCause r.1 cause fetchAccess pc
    match r with
    | .next s1 =>
      (match (s1.team? d c).bind (fun t => t.comp.icache.find? (pc / 64)) with
       | some v => decodeFetched s1 d c (wordOfLine v pc)
       | none => .wait s1)
    | .jump s1 _ => .wait s1
    | .wait s1 => .wait s1
    | .fault f s1 => .stop (takeCompFault s1 d c f)

/-! ## Lanes -/

/-- The word at a PC slot's position. -/
def laneWord (t : Team) (x : Group) (sl : Nat) : Word64 := t.fb.get 0 (t.fbIndex x (x.slot sl).block (x.slot sl).word)

/-- The slot stands behind the last word of its block. -/
def ranOff (t : Team) (x : Group) (sl : Nat) : Bool :=
  decide ((t.frameOf x).blockLen (x.slot sl).block ≤ (x.slot sl).word)

/-- The word at a PC slot's position is uncorrectable (13 R388). -/
def badWord (t : Team) (x : Group) (sl : Nat) : Bool :=
  t.bad.contains (.fb (t.fbIndex x (x.slot sl).block (x.slot sl).word))

/-- UE at the issue of a word, told to firmware: the frame-buffer word or a register that it reads is uncorrectable. -/
def issueUe (s : State) (d c g sl access : Nat) (mask : BitVec 32) : Fetched :=
  .stop (takeLaneFault (reportUe s d) d c g sl { code := Code.UE, access, mask })

/-- A decoded instruction with its sources: behind a load or an atomic in flight, or an AST.EF that still writes its residues, it waits
for them; an uncorrectable one faults UE. -/
def withSources (s : State) (d c g sl : Nat) (t : Team) (x : Group) (i : Instr) : Fetched :=
  if t.bad.isEmpty || badReads t g x i sl = 0 then .instr i s
  else if x.accessing || ((resReads i).isSome && residueBusy t g) then .wait s
  else issueUe s d c g sl (accessOf 10 2 4) (badReads t g x i sl)

/-- The issue of a PC slot's next word: BADTARGET behind the last word of a block (R196), ILLOP with the number of the
failed check for a word that is no instruction (R197), UE for an uncorrectable word or source. -/
def fetchLane (s : State) (d c g sl : Nat) (t : Team) (x : Group) : Fetched :=
  if ranOff t x sl then .stop (takeLaneFault s d c g sl { code := Code.BADTARGET })
  else if badWord t x sl then issueUe s d c g sl (accessOf 11 3 6) 0
  else
    match decodeLane t.vregs (laneWord t x sl) with
    | .ok i => withSources s d c g sl t x i
    | .error (.illop n) => .stop (takeLaneFault s d c g sl { code := Code.ILLOP, access := n })
    | .error _ => .stop (takeLaneFault s d c g sl { code := Code.ILLOP, access := 1 })

/-! ## Whose turn it is -/

/-- Turns that the parties of one core could take. -/
def coreTurns (d c : Nat) (t : Team) : List Turn :=
  (if compReady t then [Turn.composer d c] else []) ++
  ((List.range t.groups.length).flatMap fun g =>
    match t.groups[g]? with
    | none => []
    | some x =>
      (if x.loads.isEmpty then [] else [Turn.service d (.eLoadReturn c g)]) ++
      [0, 1].flatMap fun sl =>
        (if laneReady t x sl then [Turn.lane d c g sl] else []) ++
        (match (x.slot sl).wait with
         | .rendezvous _ _ => [Turn.service d (.eRendezvousRelease c g sl)]
         | .span _ _ => [Turn.service d (.eSpanRelease c g sl)]
         | .copies _ _ => [Turn.service d (.eCopyCompletion (.core c) 0)]
         | .fe _ _ left => left.map fun f => Turn.service d (.eFeGranuleServe c g sl (f.ofs / 16))
         | _ => [])) ++
  ((t.sq.map (·.party)).eraseDups.map fun p => Turn.service d (.eStorePerformed c (.enterS p))) ++
  (match t.ts with
   | w :: _ =>
     (match w.kind with
      | .atomic _ _ _ _ _ | .red _ _ _ _ | .cu _ _ _ _ => [Turn.service d (.eHomeAgentAccess c 0)]
      | _ => [Turn.service d (.eStorePerformed c (.perform 0))])
   | [] => []) ++
  (if t.matq.isEmpty then [] else [Turn.service d (.eMatrixStep c), Turn.service d (.eMatrixAction c)]) ++
  (if t.copies.isEmpty then [] else [Turn.service d (.eCopyChunk (.core c) 0), Turn.service d (.eCopyCompletion (.core c) 0)]) ++
  (if t.comp.stat = .done then [Turn.service d (.eTeamRetire c)] else []) ++
  [Turn.service d (.ePermitRefill c)]

/-- Turns that serve the started packets of a die's queues, its gangs, and its clocked controllers. -/
def queueTurns (d : Nat) (x : Die) : List Turn :=
  (x.queues.flatMap fun e => e.2.started.map fun p =>
    Turn.service d
      (if (p.pkt.getD 0 0).toNat % 256 = 2 then .eCopy e.1
       else if (p.pkt.getD 0 0).toNat % 256 = 3 then .eWaitdep e.1
       else if (p.pkt.getD 0 0).toNat % 256 = 4 then .eSignal e.1
       else if (p.pkt.getD 0 0).toNat % 256 = 6 then .eCollective e.1
       else .eNopPacket e.1)) ++
  (x.queues.flatMap fun e =>
    match e.2.admitted with
    | some p => if (p.getD 0 0).toNat % 256 = 5 then [Turn.service d (.eGang e.1), Turn.service d (.eGangGo e.1), Turn.service d (.eGangStart e.1)] else []
    | none => []) ++
  (match x.readys with | m :: _ => x.gangs.map fun g => Turn.service d (.eGangReady g.q m) | [] => []) ++
  (match x.coll.cur with
   | some _ => [Turn.service d .eHopFwd, Turn.service d .eHopRedaddF32, Turn.service d .eHopRedaddBf16,
       Turn.service d .eHopMin, Turn.service d .eHopMax, Turn.service d .eHopDeposit, Turn.service d .eHopMcast, Turn.service d .eHopSignal]
   | none => []) ++
  (if x.coll.finished.isEmpty then [] else [Turn.service d .eCollectiveCompletion]) ++
  (x.teams.flatMap fun e => if e.2.stopReq then [Turn.service d (.ePreemptionAck e.1)] else []) ++
  (x.launches.flatMap fun l =>
    if l.st = .stopping then
      (match (List.range 257).find? fun c => (x.teams.find? c).isNone with | some c => [Turn.service d (.ePreemptionAck c)] | none => [])
    else []) ++
  [Turn.service d .eDieInterval, Turn.service d .eBucketInstallment, Turn.service d .eGrantArrival, Turn.service d .ePackageBell]

/-- Turns that the services of one die could take. -/
def dieTurns (d : Nat) (x : Die) : List Turn :=
  (if x.misses.isEmpty then [] else [Turn.service d .eTranslationWalk]) ++
  (if x.tlbBusy.isSome then [Turn.service d .eTlbInvalidationComplete] else []) ++
  x.teams.flatMap (fun e => coreTurns d e.1 e.2) ++
  (if x.dieCopies.isEmpty then [] else [Turn.service d (.eCopyChunk .die 0), Turn.service d (.eCopyCompletion .die 0)]) ++
  (if x.watchItems.isEmpty then [] else [Turn.service d .eWatchItemRetry]) ++
  (if x.launches.isEmpty then [] else [Turn.service d .eHawkerFetchServe]) ++
  x.launches.flatMap (fun l =>
    Turn.service d (.eTemplateImageLoad l.key) :: l.teams.map fun t => Turn.service d (.eTeamStart t.core l.key)) ++
  (if x.coll.queue.isEmpty && x.coll.cur.isNone then [] else [Turn.service d .eCollectiveChunkSelect]) ++
  (if x.queues.isEmpty then [] else [Turn.service d .eDispatchDraw]) ++
  queueTurns d x

/-- The turn taken when none waits (log 1): the next bring-up step, then the parties in rotation, each round ending
with a cycle of the master clock. -/
def pickTurn (s : State) : Turn :=
  if s.pkg.boot < 6 && !s.pkg.bootHalted then .service 0 (.ePackageReset [] 7 7)
  else
    let l := ((List.range s.dies.length).flatMap fun d => dieTurns d (s.die d)) ++
      ((List.range s.pkg.funcs.length).filter fun k => !(s.pkg.funcs.getD k {}).todo.isEmpty).map fun k =>
        Turn.service 0 (.eHostRequest k 0 0 (.unit 0))
    (l[s.turnNo % (l.length + 1)]?).getD (.clock 1)

/-- The next turn, taken off the agenda. -/
def nextTurn (s : State) : Turn × State :=
  match s.agenda with
  | t :: r => (t, { s with agenda := r })
  | [] => (pickTurn s, { s with turnNo := s.turnNo + 1 })

/-! ## A word placed where the machine fetches next (log 7) -/

/-- A team of the largest declaration on core 0: one group, 192 vector registers, 256 accumulator rows, 1,532 KiB of
scratchpad, a spill stack of 64 entries, a rectangle of one core with one span cell. -/
def probeTeam : Team where
  key := { q := 0, slot := 0 }
  cfg := 0x0010_017F_08C0_0001
  rect := 0x1_0000
  entry := 0
  frames := List.replicate 16 {}
  groups := [{}]
  batches := List.replicate 16 {}
  points := List.replicate 24 {}

/-- A page of 1 GiB that maps virtual address 0 to physical address 0, with X and W. -/
def probePage : TlbEntry where
  va := 0
  leaf := { frame := 0, peer := false, sdx := 0, geom := 0, fmt := 0, cache := 0, x := true, w := true, size := 30 }
  desc := none

/-- Bring-up is over, core 0 of die 0 holds the team. -/
def placeTeam (s : State) (t : Team) : State :=
  { (s.updDie 0 fun x =>
      { x with released := true, enabled := true, hbmUp := true, queuesOpen := true, hmap := x.fuseHmap, l2pt := x.fuseL2pt, ptroot := x.ptroot ||| 1, teams := x.teams.insert 0 t,
               coreTlb := x.coreTlb.set [] 0 [probePage] }) with
    pkg := { s.pkg with boot := 6 } }

/-- The composer of core 0 stands at address 0, which holds the word. -/
def placeComposer (s : State) (w : Nat) : State :=
  { ((placeTeam s probeTeam).updDie 0 fun x => { x with hbm := x.hbm.write 0 4 w }) with agenda := [.composer 0 0] }

/-- Group 0 stands in PC slot 0 at the first word of a block of two words that holds the word. -/
def placeLane (s : State) (w : Nat) : State :=
  { (placeTeam s
      { probeTeam with
        fb := (SMap.insert [] 0 (0xF000_2000_0000_0000 : Word64)).insert 1 (BitVec.ofNat 64 w)
        frames := { st := .running, chunks := [0], words := 2, starts := [0] } :: List.replicate 15 {}
        groups := [{ st := .running, frame := some 0,
                     pc0 := { st := .live, mask := BitVec.allOnes 32, mark := 0xFFF, block := 0, word := 1 } }]
        permits := { matrix := 8192, vector := 2048, sfu := 1024, memory := 4096 } }) with
    agenda := [.lane 0 0 0 0] }

end Sys2Proof.Machine
end

