-- ==== Sys2Proof/Machine/Digest.lean ====
section
/-! DEFINITION. The functions that 14 R406 names: SHA-512, and RSASSA-PSS verification with SHA-512, MGF1 with SHA-512 and a salt of
64 bytes. The spec names them and does not print them: their bodies follow FIPS 180-4 and RFC 8017 (log 45). -/

namespace Sys2Proof.Machine

open Sys2Proof

/-! ## SHA-512 -/

/-- The largest x below `2 ^ n` whose k-th power is at most `v`, by its bits from the top. -/
def rootBelow (k v : Nat) : Nat → Nat → Nat
  | 0, x => x
  | n + 1, x => rootBelow k v n (if (x + 2 ^ n) ^ k ≤ v then x + 2 ^ n else x)

/-- The first 64 bits behind the binary point of the k-th root of p: the root of a prime below 512 has at most 5 bits before it. -/
def rootFraction (k p : Nat) : Word64 := BitVec.ofNat 64 (rootBelow k (p * 2 ^ (64 * k)) 69 0)

/-- The primes below 410, of which there are 80. -/
def shaPrimes : List Nat := (List.range 410).filter fun p => decide (2 ≤ p) && (List.range p).all fun d => decide (d < 2) || p % d ≠ 0

/-- The constants of the 80 rounds: of the cube roots of the primes. -/
def shaK : List Word64 := shaPrimes.map (rootFraction 3)

/-- The initial hash value: of the square roots of the first eight. -/
def shaInit : List Word64 := (shaPrimes.take 8).map (rootFraction 2)

def shaBig0 (x : Word64) : Word64 := x.rotateRight 28 ^^^ x.rotateRight 34 ^^^ x.rotateRight 39
def shaBig1 (x : Word64) : Word64 := x.rotateRight 14 ^^^ x.rotateRight 18 ^^^ x.rotateRight 41
def shaSmall0 (x : Word64) : Word64 := x.rotateRight 1 ^^^ x.rotateRight 8 ^^^ x >>> 7
def shaSmall1 (x : Word64) : Word64 := x.rotateRight 19 ^^^ x.rotateRight 61 ^^^ x >>> 6

/-- `n` more words of the message schedule, latest first. -/
def shaSchedule : Nat → List Word64 → List Word64
  | 0, l => l
  | n + 1, l => shaSchedule n ((shaSmall1 (l.getD 1 0) + l.getD 6 0 + shaSmall0 (l.getD 14 0) + l.getD 15 0) :: l)

/-- One round, with the sum of its constant and its schedule word. -/
def shaRound (s : List Word64) (kw : Word64) : List Word64 :=
  match s with
  | [a, b, c, d, e, f, g, h] =>
    let t1 := h + shaBig1 e + ((e &&& f) ^^^ (~~~e &&& g)) + kw
    let t2 := shaBig0 a + ((a &&& b) ^^^ (a &&& c) ^^^ (b &&& c))
    [t1 + t2, a, b, c, d + t1, e, f, g]
  | _ => s

/-- A number from bytes, the first the most significant. -/
def ofBigEndian (b : List Byte) : Nat := Bits.ofBytes b.reverse

/-- `n` bytes of a number, the most significant first. -/
def toBigEndian (n v : Nat) : List Byte := (Bits.toBytes n v).reverse

/-- A block of 128 bytes taken into the hash value. -/
def shaBlock (s : List Word64) (b : List Byte) : List Word64 :=
  let w0 := (List.range 16).map fun k => BitVec.ofNat 64 (ofBigEndian ((b.drop (8 * k)).take 8))
  let w := (shaSchedule 64 w0.reverse).reverse
  List.zipWith (· + ·) s ((List.zipWith (· + ·) shaK w).foldl shaRound s)

/-- A message padded to whole blocks: 0x80, zeros, its length in bits. -/
def shaPad (m : List Byte) : List Byte :=
  m ++ [0x80] ++ List.replicate ((111 + 128 - m.length % 128) % 128) 0 ++ toBigEndian 16 (8 * m.length)

/-- `n` blocks of a padded message. -/
def shaBlocks : Nat → List Byte → List Word64 → List Word64
  | 0, _, s => s
  | n + 1, m, s => shaBlocks n (m.drop 128) (shaBlock s (m.take 128))

/-- The SHA-512 digest of a message, 64 bytes. -/
def sha512 (m : List Byte) : List Byte :=
  let p := shaPad m
  (shaBlocks (p.length / 128) p shaInit).flatMap fun w => toBigEndian 8 w.toNat

/-! ## RSASSA-PSS -/

/-- b^e modulo n; the fuel bounds the bits of e. -/
def powMod : Nat → Nat → Nat → Nat → Nat
  | 0, _, _, n => 1 % n
  | f + 1, b, e, n =>
    let r := powMod f (b * b % n) (e / 2) n
    if e % 2 = 1 then b * r % n else r

/-- MGF1 with SHA-512: `n` bytes from a seed. -/
def mgf1 (seed : List Byte) (n : Nat) : List Byte :=
  ((List.range ((n + 63) / 64)).flatMap fun k => sha512 (seed ++ toBigEndian 4 k)).take n

/-- An encoded message of 512 bytes, of which the top bit is unused, is consistent with a digest: a 64-byte salt stands behind 382
zero bytes and a one. -/
def pssConsistent (em digest : List Byte) : Bool :=
  let masked := em.take 447
  let h := (em.drop 447).take 64
  let db := List.zipWith (· ^^^ ·) masked (mgf1 h 447)
  let db' := (db.take 1).map (· &&& 0x7F) ++ db.drop 1
  em.drop 511 = [0xBC] && (masked.headD 0).toNat < 128 && db'.take 382 = List.replicate 382 0 && (db'.drop 382).take 1 = [1] &&
  h = sha512 (List.replicate 8 0 ++ digest ++ db'.drop 383)

/-- A signature over a digest verifies under an RSA-4096 public key: 512 bytes that hold the modulus, with the exponent that the
device uses (log 45). -/
def pssVerify (key digest signature : List Byte) : Bool :=
  let n := ofBigEndian key
  let v := ofBigEndian signature
  key.length = 512 && signature.length = 512 && decide (2 ^ 4095 ≤ n) && decide (v < n) &&
  pssConsistent (toBigEndian 512 (powMod (Nat.log2 Config.rsaExponent + 1) v Config.rsaExponent n)) digest

end Sys2Proof.Machine
end

