-- ==== Sys2Proof/Machine/Launches.lean ====
section
/-! DEFINITION. A launch on its die: the template image (01 R31), the start and the retirement of its teams (05 R151,
03 Table 3.1), and the work that Hawker hands out (05 R157 to R160). -/

namespace Sys2Proof.Machine

open Sys2Proof

def updLaunchAt (s : State) (d : Nat) (k : LKey) (f : Launch → Launch) : State := s.updDie d fun x => x.updLaunch k f

/-! ## TEMPLATE_IMAGE_LOAD -/

/-- The image read before any team starts; a part that can not be read ends the launch with BADPKT (R354). -/
def execETemplateImageLoad (l : LKey) (s : State) : Host.Outcome State Fault Refusal :=
  execEvent (fun d s =>
    match (s.die d).launch? l with
    | none => s
    | some x =>
      if x.st ≠ .started then s
      else
        let n := 64 * Pkt.tmpl64 x.pkt
        let r := rangeRead translateDie d (Pkt.tmpl x.pkt) n s
        match r.2 with
        | .ok v => updLaunchAt r.1 d l fun x => { x with st := .loaded, image := Mem.write [] 0 n v }
        | .error e => endLaunch r.1 d l Status.BADPKT e.1) s

/-! ## TEAM_START -/

/-- A team at its start (Table 3.1): its storage empty but for the template image, its groups idle, its composer at the
entry address. -/
def freshTeam (k : LKey) (p : List Word64) (image : Mem) : Team where
  key := k
  cfg := Pkt.team p
  rect := BitVec.ofNat 64 (Pkt.rect p + Pkt.cells p * 65536)
  entry := BitVec.ofNat 64 (Pkt.entry p)
  comp := { pc := BitVec.ofNat 64 (Pkt.entry p) }
  store := image
  frames := List.replicate 16 {}
  groups := List.replicate (Bits.field (Pkt.team p).toNat 0 9) {}
  batches := List.replicate 16 {}
  points := List.replicate 24 {}

/-- A cluster of the rectangle is gated, or about to be: its launch waits for it (13 R387). -/
def rectGated (x : Die) (p : List Word64) : Bool :=
  (Pkt.cores p).any fun c => x.gated.contains (x.clusterOf c) || x.closing.contains (x.clusterOf c)

/-- TEAM_START: the team of core c of a launch whose image is loaded. -/
def execETeamStart (c : Nat) (l : LKey) (s : State) : Host.Outcome State Fault Refusal :=
  execEvent (fun d s =>
    match (s.die d).launch? l with
    | none => s
    | some x =>
      if (x.st ≠ .loaded && x.st ≠ .running) || rectGated (s.die d) x.pkt || (s.team? d c).isSome ||
         !(x.teams.any fun t => t.core = c && !t.started) then s
      else
        (updLaunchAt s d l fun x =>
          { x with st := .running, teams := x.teams.map fun t => if t.core = c then { t with started := true } else t }).updDie d fun y =>
          { y with teams := y.teams.insert c (freshTeam l x.pkt x.image) }) s

/-! ## TEAM_RETIRE -/

/-- The composer has executed DONE, every group is idle, and everything the team issued has completed (R151); what it may have
seen of its cluster's writes is home too, as its LTRIG waits for it (04 R118, R129). -/
def mayRetire (s : State) (d c : Nat) (t : Team) : Bool :=
  t.comp.stat = .done && !t.halted && t.groups.all (fun g => g.st = .idle) && t.sq.isEmpty && t.ts.isEmpty &&
  t.matq.isEmpty && t.copies.isEmpty && !collsOut s d c t.key && clusterHome (s.die d) c

/-- A team has retired, which counts as its LTRIG (04 Table 4.6). -/
def markRetired (x : Die) (k : LKey) (c : Nat) : Die :=
  let y := x.updLaunch k fun l => { l with teams := l.teams.map fun e => if e.core = c then { e with trig := true, retired := true } else e }
  let all (f : TeamStat → Bool) : Bool := match y.launch? k with | some l => l.teams.all f | none => false
  { y with records := y.records.map fun r =>
      if r.key = k then { r with trig := r.trig || all (·.trig), retired := r.retired || all (·.retired) } else r }

/-- TEAM_RETIRE; the launch retires with its last team. -/
def execETeamRetire (c : Nat) (s : State) : Host.Outcome State Fault Refusal :=
  execEvent (fun d s =>
    match s.team? d c with
    | none => s
    | some t =>
      if !mayRetire s d c t then s
      else
        let s1 := updLaunchAt s d t.key fun l => l.keepTeam c t
        let s2 := (dropTeam s1 d c).updDie d fun x => markRetired x t.key c
        match (s2.die d).launch? t.key with
        | some l => if l.teams.all (·.retired) then endLaunch s2 d t.key 0 0 else s2
        | none => s2) s

/-! ## HAWKER_FETCH_SERVE -/

/-- Extents of an index space, and the number of items of a launch (R157). -/
def extX (p : List Word64) : Nat := Bits.field (Pkt.work p) 0 20 + 1
def extY (p : List Word64) : Nat := Bits.field (Pkt.work p) 20 20 + 1
def extZ (p : List Word64) : Nat := Bits.field (Pkt.work p) 40 20 + 1
def listMode (p : List Word64) : Bool := decide (2 ≤ Pkt.hmode p)
def dealMode (p : List Word64) : Bool := Pkt.hmode p % 2 = 1
def items (p : List Word64) : Nat := if listMode p then Pkt.nm1 p + 1 else extX p * extY p * extZ p

/-- The packed coordinate of item n. -/
def coordWord (p : List Word64) (n : Nat) : Nat :=
  n % extX p + n / extX p % extY p * 2 ^ 20 + n / (extX p * extY p) * 2 ^ 40

/-- Clusters with a core in the rectangle, ascending (R159). -/
def dealClusters (x : Die) (p : List Word64) : List Nat :=
  (List.range Die.clusterCount).filter fun n => (Pkt.cores p).any fun c => x.clusterOf c = n

/-- The k-th item of a core's deal list, which may lie behind the last item. -/
def dealItem (x : Die) (p : List Word64) (c k : Nat) : Nat :=
  let cl := dealClusters x p
  let m := (Pkt.cores p).filter fun e => x.clusterOf e = x.clusterOf c
  cl.idxOf (x.clusterOf c) + cl.length * (m.idxOf c + k * m.length)

/-- The item for the next fetch of a core, and the launch after it. -/
def nextItem (x : Die) (l : Launch) (c : Nat) : Option Nat × Launch :=
  let total := items l.pkt
  if dealMode l.pkt then
    let k := l.dealt.get 0 c
    let n := dealItem x l.pkt c k
    if n < total then (some n, { l with dealt := l.dealt.set 0 c (k + 1) }) else (none, l)
  else if l.next < total then (some l.next, { l with next := l.next + 1 }) else (none, l)

/-- The earliest of a list of arrived fetches: cycle, core, register. -/
def firstFetch : List (Nat × Nat × BitVec 5) → Option (Nat × Nat × BitVec 5)
  | [] => none
  | a :: r =>
    match firstFetch r with
    | none => some a
    | some b => if b.1 < a.1 || (b.1 = a.1 && decide (b.2.1 < a.2.1)) then some b else some a

/-- Fetches that have reached Hawker, of teams that it serves (13 R386, R389). -/
def fetches (s : State) (d : Nat) : List (Nat × Nat × BitVec 5) :=
  (s.die d).teams.filterMap fun e =>
    match e.2.comp.wait with
    | .fetch r a => if a ≤ s.pkg.mclk && !e.2.halted then some (a, e.1, r) else none
    | _ => none

/-- A fetch answered: an item's coordinate, or its index and its list entry; DONE behind the last. An entry that can
not be read is delivered as a free value (log 29). -/
def answerFetch (s : State) (d c : Nat) (r : BitVec 5) (t : Team) (l : Launch) : State :=
  let n := nextItem (s.die d) l c
  let s1 := updLaunchAt s d l.key fun _ => n.2
  let isList := listMode l.pkt
  let e := match n.1 with
    | some k =>
      if isList then
        let q := rangeRead translateDie d (Pkt.work l.pkt + 16 * k) 16 s1
        (match q.2 with | .ok v => (q.1, v) | .error _ => freeBytes q.1 16)
      else (s1, 0)
    | none => (s1, 0)
  let w : Nat := match n.1 with
    | some k => if isList then k else coordWord l.pkt k
    | none => 2 ^ 63
  let s2 := e.1.updComp d c fun k =>
    let k1 := { k with wait := .none }.setReg r (BitVec.ofNat 64 w)
    if isList then (k1.setReg (r + 1) (BitVec.ofNat 64 (e.2 % 2 ^ 64))).setReg (r + 2) (BitVec.ofNat 64 (e.2 / 2 ^ 64))
    else k1
  compStepped (setPc s2 d c (t.comp.pc + 4)) d c

/-- HAWKER_FETCH_SERVE: fetches are served in the order of their arrival, those of one cycle by core (R158). -/
def execEHawkerFetchServe (s : State) : Host.Outcome State Fault Refusal :=
  execEvent (fun d s =>
    match firstFetch (fetches s d) with
    | none => s
    | some (_, c, r) =>
      match s.team? d c with
      | none => s
      | some t =>
        match (s.die d).launch? t.key with
        | none => s
        | some l => answerFetch s d c r t l) s

end Sys2Proof.Machine
end

