-- ==== Sys2Proof/Machine/Gangs.lean ====
section
/-! DEFINITION. Gangs (11 R360 to R362): a participant's admission, its reservation and its READY, the leader's GO, and
the common start. -/

namespace Sys2Proof.Machine

open Sys2Proof

/-- CRC-32 (reflected, polynomial 0xEDB88320, initial value and final inversion all ones) over bytes (log 30). -/
def crc32 (l : List Byte) : Word32 :=
  let bit (c : Word32) : Word32 := if c.getLsbD 0 then (c >>> 1) ^^^ 0xEDB8_8320 else c >>> 1
  let byte (c : Word32) (b : Byte) : Word32 := (List.range 8).foldl (fun c _ => bit c) (c ^^^ b.zeroExtend 32)
  ~~~ (l.foldl byte 0xFFFF_FFFF)

/-- The CRC of words 4 to 7 of a GANG packet (R362). -/
def gangCrc (p : List Word64) : Word32 := crc32 (Bits.toBytes 32 (pktNat (p.drop 4)))

/-- READY of a participant. -/
def readyOf (s : State) (d : Nat) (p : List Word64) : ReadyMsg where
  gangId := Pkt.gangId p
  tick := BitVec.ofNat 64 (Pkt.gangTick p)
  nm1 := BitVec.ofNat 4 (Pkt.gangNm1 p)
  self := BitVec.ofNat 4 (Pkt.gangSelf p)
  crc := gangCrc p
  pkg := s.pkg.pkgNo
  die := BitVec.ofNat 2 d

def gangOf (x : Die) (q : Nat) : Option Gang := x.gangs.find? fun g => g.q = q

def updGang (s : State) (d q : Nat) (f : Gang → Gang) : State :=
  s.updDie d fun x => { x with gangs := x.gangs.map fun g => if g.q = q then f g else g }

/-! ## Admission and reservation (R361 stage 1) -/

/-- The LAUNCH packet at LVA: at a host bus address for a package queue (R357); none where it can not be read. -/
def gangLaunch (s : State) (d q : Nat) (p : List Word64) : State × Option (List Word64) :=
  if 1024 ≤ q then
    let r := hostRead s (Pkt.gangLva p) 64
    (r.1, some (pktOfNat r.2))
  else
    let r := rangeRead translateDie d (Pkt.gangLva p) 64 s
    (r.1, match r.2 with | .ok v => some (pktOfNat v) | .error _ => none)

/-- A GANG at the head of its queue is admitted, or completes with BADPKT and sends nothing (R360, R362); one whose LAUNCH
packet can not be read too, with CAUSE 0 (log 43). -/
def admitGang (s : State) (d q : Nat) (p : List Word64) : State :=
  if !Pkt.gangOk p s.pkg.pkgNo.toNat d then rejectHead s d q p
  else
    let r := gangLaunch s d q p
    let lp := r.2.map fun l => l.set 7 (BitVec.ofNat 64 (Pkt.gangCmpl p))
    match lp with
    | none => rejectHead r.1 d q p
    | some l =>
      if !Pkt.launchOk l || Pkt.aff l ≠ 0 then rejectHead r.1 d q p
      else
        r.1.updDie d fun x => { x with gangs := x.gangs ++ [{ q, slot := (r.1.queue d q).head.toNat, pkt := p, lp := l }] }

/-- The VC of gang messages: requests (14 Table 14.3; log 30), since VC 7 carries intents and time-base messages only (R403). -/
def gangVc : Nat := 0

/-- READY goes to the leader, once the participant is ready and TICK − 10 µs is still ahead (R361 stage 2); it is lost where no
link leads there (14 R403). The leader's own readiness is looked at when it sends GO. -/
def sendReady (s : State) (d : Nat) (g : Gang) : State :=
  let r := depMet s g.lp false
  if g.sent || Pkt.gangSelf g.pkt = 0 || !r.2 || decide (Pkt.gangTick g.pkt ≤ s.tick + 10000) then r.1
  else
    let s1 := updGang r.1 d g.q fun g => { g with sent := true }
    let lost := updGang s1 d g.q fun g => { g with lost := true }
    let lead := Pkt.gangMem g.pkt 0
    let m := readyOf s d g.pkt
    if lead.1 = s.pkg.pkgNo.toNat then
      if s.dieRoute d lead.2 then s1.updDie lead.2 fun x => { x with readys := x.readys ++ [m] } else lost
    else if s1.pkgRoute lead.1 then s1.sendFar lead.1 lead.2 gangVc (.ready (BitVec.ofNat 16 (lead.1 * 4 + lead.2)) m)
    else lost

/-- GANG: the head of queue q, which is enabled, is admitted, then its rectangle and cells are reserved, which makes queues
that wait for them ineligible (R356), then READY is sent. A package
queue's GANG belongs to the die that its own member entry names (log 30). -/
def execEGang (q : Nat) (s : State) : Host.Outcome State Fault Refusal :=
  execEvent (fun d s =>
    match gangOf (s.die d) q with
    | some g =>
      if !s.queueLive d q then s
      else if g.reserved then sendReady s d g
      else if (s.die d).enabled && roomFor (s.die d) g.lp then
        (dropLosses (updGang (addLaunch d { q, slot := g.slot } g.lp .reserved s) d q fun g => { g with reserved := true }) d).1
      else s
    | none =>
      let s1 := readHead s d q
      match (s1.queue d q).admitted with
      | some p =>
        if !s1.queueLive d q || pktType p ≠ 5 || !unblocked (s1.queue d q) then s1
        else if 1024 ≤ q && (Pkt.gangMem p (Pkt.gangSelf p)).2 ≠ d && decide ((Pkt.gangMem p (Pkt.gangSelf p)).2 < 3) then s1
        else admitGang s1 d q p
      | none => s1) s

/-! ## The leader (R362) -/

/-- A READY fits the leader's packet. -/
def readyFits (p : List Word64) (m : ReadyMsg) : Bool :=
  decide (1 ≤ m.self.toNat) && decide (m.self.toNat ≤ Pkt.gangNm1 p) &&
  Pkt.gangMem p m.self.toNat = (m.pkg.toNat, m.die.toNat) && m.tick.toNat = Pkt.gangTick p &&
  m.nm1.toNat = Pkt.gangNm1 p && m.crc = gangCrc p

/-- The gang of a die's leader that holds the GANGID of a READY at time `now`, which it does until its TICK: that of queue q,
if it does. -/
def gangFor (x : Die) (now q : Nat) (m : ReadyMsg) : Option Gang :=
  let l := x.gangs.filter fun g => Pkt.gangSelf g.pkt = 0 && m.gangId = Pkt.gangId g.pkt && decide (now < Pkt.gangTick g.pkt)
  match l.find? (fun g => g.q = q) with
  | some g => some g
  | none => l.head?

/-- GANG_READY: the leader receives a READY. One that does not fit, or comes twice, is a mismatch; one of a GANGID that the
die holds no gang of is discarded. -/
def execEGangReady (q : Nat) (m : ReadyMsg) (s : State) : Host.Outcome State Fault Refusal :=
  execEvent (fun d s =>
    let foreign := m.pkg ≠ s.pkg.pkgNo
    if !foreign && !(s.die d).readys.contains m then s
    else
      let s1 := s.updDie d fun x => { x with readys := x.readys.erase m }
      match gangFor (s.die d) s.tick q m with
      | none => s1
      | some g =>
        if readyFits g.pkt m && !(g.ready.any fun r => r.self = m.self) then
          updGang s1 d g.q fun g => { g with ready := g.ready ++ [m] }
        else updGang s1 d g.q fun g => { g with mismatch := true }) s

/-- GO sent to one member of the gang at a slot of queue q: set at a member of this package, a message to another, whose flits the
leader's launch keeps; lost where no link leads there, or where a flit is returned (`returnFlit`). -/
def sendGo (d q slot : Nat) (p : List Word64) (s : State) (i : Nat) : State :=
  let m := Pkt.gangMem p i
  let lost (s : State) : State := updGang s d q fun g => { g with lost := true }
  if m.1 = s.pkg.pkgNo.toNat then
    if s.dieRoute d m.2 then
      s.updDie m.2 fun x =>
        { x with gangs := x.gangs.map fun g =>
            if Pkt.gangId g.pkt = Pkt.gangId p && Pkt.gangSelf g.pkt = i && Pkt.gangMem g.pkt 0 = Pkt.gangMem p 0 then { g with go := true }
            else g }
    else lost s
  else if s.pkgRoute m.1 then
    let msg : Msg := .go (BitVec.ofNat 16 (m.1 * 4 + m.2)) (Pkt.gangId p)
    (updLaunchAt s d { q, slot } fun l => { l with goFlits := l.goFlits ++ farFlits m.1 m.2 gangVc msg }).sendFar m.1 m.2 gangVc msg
  else lost s

/-- GANG_GO: at TICK − 2 µs, and before TICK, the leader sends GO where every member matched and it is ready itself. At a
member it is the arrival of the GO of a leader in another package. -/
def execEGangGo (q : Nat) (s : State) : Host.Outcome State Fault Refusal :=
  execEvent (fun d s =>
    match gangOf (s.die d) q with
    | none => s
    | some g =>
      if Pkt.gangSelf g.pkt ≠ 0 then
        if (Pkt.gangMem g.pkt 0).1 ≠ s.pkg.pkgNo.toNat && g.sent then updGang s d q fun g => { g with go := true } else s
      else if g.decided || !s.queueLive d q || decide (s.tick + 2000 < Pkt.gangTick g.pkt) || decide (Pkt.gangTick g.pkt ≤ s.tick) then s
      else
        let r := depMet s g.lp false
        let s1 := updGang r.1 d q fun g => { g with decided := true }
        if g.mismatch || !g.reserved || !r.2 || g.ready.length ≠ Pkt.gangNm1 g.pkt then s1
        else (List.range (Pkt.gangNm1 g.pkt + 1)).foldl (sendGo d q g.slot g.pkt) s1) s

/-- CAUSE of the record of a gang: of a mismatch, or of a lost message (R361, R362). -/
def missCause (g : Gang) : Nat := if g.mismatch then Status.BADPKT else if g.lost then Status.LINKDOWN else 0

/-- GANG_START: at TICK a participant with GO starts its launch, one without completes with GANGMISS; the head of a queue that
is not enabled does neither (Table 11.2). -/
def execEGangStart (q : Nat) (s : State) : Host.Outcome State Fault Refusal :=
  execEvent (fun d s =>
    match gangOf (s.die d) q with
    | none => s
    | some g =>
      if s.tick < Pkt.gangTick g.pkt || !s.queueLive d q then s
      else
        let key : LKey := { q, slot := g.slot }
        let s1 := startHead (s.updDie d fun x => { x with gangs := x.gangs.filter fun h => h.q ≠ q }) d q g.pkt
        if g.go && g.reserved then
          updLaunchAt (recordLaunch d key s1) d key fun l =>
            { l with st := .started, cause := if missCause g = 0 then l.cause else missCause g }
        else
          let s2 := match (s1.die d).launch? key with
            | some l => s1.updDie d fun x => forgetLaunch x l
            | none => s1
          endPacket s2 d q g.slot g.pkt Status.GANGMISS (missCause g)) s

end Sys2Proof.Machine
end

