-- ==== Sys2Proof/Machine/Preempt.lean ====
section
/-! DEFINITION. Stopping and resuming: pre-emption (13 R389 to R393), energy quotas (11 R363), what firmware does with a
fault (13 R382, R386), the debug agent's step of a composer (R395), and the gating of clusters (R387). -/

namespace Sys2Proof.Machine

open Sys2Proof

/-! ## Requests -/

/-- Some core holds a team of the launch. -/
def resident (x : Die) (k : LKey) : Bool := x.teams.any fun e => e.2.key = k

/-- A hop of a collective packet of the launch has begun on some die, or a chunk of a copy that the watch table has posted
for it: the granularity point is the end of the chunk (Table 13.4). -/
def collBegun (s : State) (d : Nat) (k : LKey) : Bool :=
  (s.dies.any fun x => match x.coll.cur with | some p => p.begun && p.forLaunch d k | none => false) ||
  (s.die d).dieCopies.any fun c => c.launch = some k && c.err.isNone && decide (c.done < c.upTo)

/-- A stop goes to every engine of every core of the launch (R389); a launch without a team that is to end, ends once what its
engines have begun is done (11 R363). -/
def beginStop (s : State) (d : Nat) (k : LKey) (why : StopWhy) : State :=
  let x := s.die d
  if resident x k then
    s.updDie d fun x =>
      let y := x.updLaunch k fun l => { l with st := .stopping, why := some why }
      { y with teams := y.teams.map fun e => (e.1, if e.2.key = k then { e.2 with stopReq := true } else e.2) }
  else
    match why with
    | .finish status cause =>
      if collBegun s d k then updLaunchAt s d k fun l => { l with st := .stopping, why := some why }
      else endLaunch s d k status cause
    | .resume => s

/-- The launch has used its quota: it is stopped and will complete with QUOTA. -/
def stopSpent (s : State) (d : Nat) (k : LKey) : State :=
  match (s.die d).launch? k with
  | some l =>
    if l.spent && !l.quotaHit then
      beginStop (updLaunchAt s d k fun l => { l with quotaHit := true }) d k (.finish Status.QUOTA 0)
    else s
  | none => s

/-- QUOTA_EXHAUSTED (11 R363). -/
def execEQuotaExhausted (l : LKey) (s : State) : Host.Outcome State Fault Refusal :=
  execEvent (fun d s => stopSpent s d l) s

/-- PREEMPTION_REQUEST (R389): of a running launch; for a quota it is the stop of R363. -/
def execEPreemptionRequest (l : LKey) (why : PreemptBy) (s : State) : Host.Outcome State Fault Refusal :=
  execEvent (fun d s =>
    match why with
    | .quota => stopSpent s d l
    | _ =>
      match (s.die d).launch? l with
      | some x => if x.st = .running then beginStop s d l .resume else s
      | none => s) s

/-- FIRMWARE_END_LAUNCH (R382). -/
def execEFirmwareEndLaunch (l : LKey) (status cause : Byte) (s : State) : Host.Outcome State Fault Refusal :=
  execEvent (fun d s => beginStop s d l (.finish status.toNat cause.toNat)) s

/-! ## Acknowledgements (R390) -/

/-- The team has reached its granularity points: every load and atomic has returned, every queued write is
performed, and no copy is within a chunk (R390, Table 13.4). -/
def mayAck (t : Team) : Bool :=
  t.stopReq && !t.stopped && t.sq.isEmpty && t.ts.isEmpty && t.groups.all (fun g => !g.inFlight true) &&
  t.copies.all (fun k => k.err.isSome || decide (k.upTo ≤ k.done)) &&
  (match t.comp.wait with | .amo _ _ => false | _ => true)

/-- A slot at an instruction boundary: what it waits for is issued again on resumption (Table 13.4). -/
def PcSlot.unissued (p : PcSlot) : PcSlot := { p with wait := .none, walkFail := [] }

/-- A team as its context is saved: nothing waits, its caches and collector latches are empty (R390, R392). -/
def Team.settled (t : Team) : Team :=
  { t with
    stopped := true
    comp := { t.comp with wait := .none, walkFail := [], icache := [] }
    groups := t.groups.map fun g => { g with pc0 := g.pc0.unissued, pc1 := g.pc1.unissued, latch := none, stepping := none }
    l1 := [] }

/-- The lines that a core buffers partials of, parked at their home slices (03 R94), on every die. -/
def parkAll (s : State) (d c : Nat) : State :=
  let pkg := s.pkg.pkgNo.toNat
  (bufferedOf s pkg d c).foldl (fun s o => parkLine s pkg d c o) s

/-- Every resident team of the launch has acknowledged. -/
def allStopped (x : Die) (k : LKey) : Bool := x.teams.all fun e => e.2.key ≠ k || e.2.stopped

/-- The collective packet under way goes back, with its remaining hops, to the head of the queue; a payload that is not read
yet is read again. -/
def CollEng.yield (c : CollEng) (d : Nat) (k : LKey) : CollEng :=
  match c.cur with
  | some p => if p.ofLaunch d k then { c with cur := none, queue := (if p.read then p else { p with payload := [], todo := [] }) :: c.queue } else c
  | none => c

/-- The collector holds every acknowledgement: the contexts are saved and the cores freed, or the launch ends
(R389); one whose context holds uncorrectable words ends with STATUS 0x0C, each of them told to firmware (R388). -/
def stopComplete (s : State) (d : Nat) (k : LKey) : State :=
  match (s.die d).launch? k with
  | none => s
  | some l =>
    match l.why with
    | some (.finish status cause) => endLaunch s d k status cause
    | _ =>
      let held := (s.die d).teams.filter fun e => e.2.key = k
      let bad := held.flatMap (·.2.bad)
      if !bad.isEmpty then endLaunch (bad.foldl (fun s _ => reportUe s d) s) d k Code.UE 0
      else
      let s1 := (noWait s d collUnit).updDie d fun x => { x with coll := x.coll.yield d k }
      updLaunchAt (held.foldl (fun s e => dropTeam s d e.1) s1) d k fun l => { l with st := .saved, why := none, saved := held }

/-- The launches without a team that are to end and that wait for no engine any longer, ended. -/
def endIdle (s : State) (d : Nat) : State :=
  ((s.die d).launches.filter fun l => l.st = .stopping && !resident (s.die d) l.key && !collBegun s d l.key).foldl
    (fun s l => stopComplete s d l.key) s

/-- PREEMPTION_ACK: of the team of core c; where the core holds none, the launches without a team that wait for their engines are
looked at. -/
def execEPreemptionAck (c : Nat) (s : State) : Host.Outcome State Fault Refusal :=
  execEvent (fun d s =>
    match s.team? d c with
    | none => endIdle s d
    | some t =>
      if !mayAck t || collBegun s d t.key then s
      else
        let s1 := (parkAll (returnBucket s d c) d c).updTeam d c Team.settled
        let s2 := s1.updDie d fun x => { x with misses := x.misses.filter fun m => m.core ≠ c }
        if allStopped (s2.die d) t.key then stopComplete s2 d t.key else s2) s

/-! ## LAUNCH_RESUME (R392) -/

/-- A restored team: its permits are refilled matrix first, its completed phases are measured from now (12 R370, 09
R293). -/
def Team.restored (now : Nat) (t : Team) : Team :=
  { t with
    stopReq := false, stopped := false
    permits := { t.permits with first := 0, last := 0 }
    points := t.points.map fun p => { p with time := now } }

/-- A completed phase's release is measured from a resumption (09 R293). -/
def Cell.resumed (now : Nat) (k : Cell) : Cell := { k with done := k.done.map fun e => (e.1, { e.2 with time := now }) }

/-- LAUNCH_RESUME: once the rectangle is free; queues that wait for its cores lose their LOSSES (11 R356). -/
def execELaunchResume (l : LKey) (s : State) : Host.Outcome State Fault Refusal :=
  execEvent (fun d s =>
    match (s.die d).launch? l with
    | none => s
    | some x =>
      if x.st ≠ .saved || !(x.teams.all fun t => coreFree (s.die d) t.core) || rectGated (s.die d) x.pkt then s
      else
        let now := s.pkg.mclk
        let s1 := (updLaunchAt s d l fun x => { x with st := .running, saved := [] }).updDie d fun y =>
          { y with
            teams := x.saved.foldl (fun m e => m.insert e.1 (e.2.restored now)) y.teams
            cells := x.cells.foldl (fun m n => Bits.updAt m n (Cell.resumed now)) y.cells }
        (dropLosses s1 d).1) s

/-! ## Firmware and the debug agent (R382, R386, R395) -/

/-- FIRMWARE_RESUME: a stopped composer or group goes on as Table 13.3 gives; resuming the team lifts its freeze; the debug
agent sets or clears STEP of a group; a management core takes an event or has handled it (11 R364). -/
def execEFirmwareResume (c : Nat) (m : Master) (s : State) : Host.Outcome State Fault Refusal :=
  execEvent (fun d s =>
    match m with
    | .composer => s.updComp d c fun k => if k.stat = .stopped then { k with stat := .running, dbgStep := false } else k
    | .group g =>
      (match s.group? d c g with
       | some x => resumeGroup s d c g x.step
       | none => s)
    | .team => s.updTeam d c fun t => { t with frozen := false }
    | .arm g on => s.updGroup d c g fun x => { x with step := on, stepping := none }
    | .core k => s.turnCore k) s

/-- COMPOSER_DEBUG_STEP: a stopped composer executes one instruction, behind which it stops with GBRK. -/
def execEComposerDebugStep (c : Nat) (s : State) : Host.Outcome State Fault Refusal :=
  execEvent (fun d s =>
    s.updComp d c fun k => if k.stat = .stopped then { k with stat := .running, dbgStep := true } else k) s

/-! ## Gating (R387) -/

/-- No core of a cluster is in the rectangle of a launch that is not saved. -/
def clusterEmpty (x : Die) (n : Nat) : Bool :=
  x.launches.all (fun l => l.st = .saved || l.teams.all fun t => x.clusterOf t.core ≠ n) &&
  x.teams.all fun e => x.clusterOf e.1 ≠ n

/-- The crossbar of a cluster holds no request from outside. -/
def crossbarDrained (x : Die) (n : Nat) : Bool :=
  x.teams.all fun e => e.2.ts.all fun w => match w.loc with | .sp k _ => x.clusterOf k ≠ n | _ => true

/-- CLUSTER_GATE: admission to an empty cluster closes; once its crossbar is drained it is gated. -/
def execEClusterGate (n : Nat) (s : State) : Host.Outcome State Fault Refusal :=
  execEvent (fun d s =>
    s.updDie d fun x =>
      if x.gated.contains n || !clusterEmpty x n || decide (Die.clusterCount ≤ n) then x
      else if !x.closing.contains n then { x with closing := n :: x.closing }
      else if crossbarDrained x n then { x with closing := x.closing.erase n, gated := n :: x.gated }
      else x) s

/-- CLUSTER_UNGATE. -/
def execEClusterUngate (n : Nat) (s : State) : Host.Outcome State Fault Refusal :=
  execEvent (fun d s => s.updDie d fun x => { x with closing := x.closing.erase n, gated := x.gated.erase n }) s

end Sys2Proof.Machine
end

