-- ==== Sys2Proof/Machine/LaneSystem.lean ====
section
/-! DEFINITION. Lane system instructions: TFENCE, TRAP, BRK, RDS and WRS (09 R302 to R306). -/

namespace Sys2Proof.Machine

open Sys2Proof

/-- TFENCE (R303): it counts as executed, so that the group stops behind it. -/
def execLTfence (_o : VOps) (s : State) : Host.Outcome State Fault Refusal :=
  execLane {} 9 (fun ctx s =>
    if ctx.x.asf &&& ctx.x.ate = 0 then .done s
    else .stop { code := Code.ARITH, access := ctx.x.asf.toNat + 256 * ctx.x.ate.toNat } s) s

/-- TRAP (R304). -/
def execLTrap (o : VOps) (s : State) : Host.Outcome State Fault Refusal :=
  execLane {} 9 (fun _ s => .stop { code := Code.TRAP, access := o.sc.toNat } s) s

/-- BRK (R304). -/
def execLBrk (o : VOps) (s : State) : Host.Outcome State Fault Refusal :=
  execLane {} 9 (fun _ s => .stop { code := Code.BRK, access := o.sc.toNat } s) s

def slotCode : SlotState → Nat | .empty => 0 | .live => 1 | .waiting => 2
def groupCode : GState → Nat | .idle => 0 | .running => 1 | .stopped => 2

/-- The group status word (13 Table 13.7). -/
def gsw (t : Team) (g : Nat) (x : Group) : Nat :=
  g % 512 + groupCode x.st * 2 ^ 18 + x.slotF % 2 * 2 ^ 20 + Bits.ofBool x.step * 2 ^ 21 + Bits.ofBool t.frozen * 2 ^ 22 +
  slotCode x.pc0.st * 2 ^ 24 + slotCode x.pc1.st * 2 ^ 26 + x.spill.length % 512 * 2 ^ 31 + x.code % 256 * 2 ^ 40

/-- The value of a lane special register for a strand (Table 9.7). -/
def rdsValue (s : State) (ctx : LaneCtx) (n st : Nat) : Nat :=
  let x := s.die ctx.d
  match n with
  | 0x00 => ctx.g
  | 0x01 => st
  | 0x02 => (coreWord s ctx.d ctx.c).toNat % 2 ^ 32
  | 0x03 => ctx.t.rect.toNat % 2 ^ 32
  | 0x04 => s.tick
  | 0x05 => ctx.t.comp.cycle.toNat
  | 0x06 => (ctx.t.provAt (ctx.t.fbIndex ctx.x (ctx.x.slot ctx.sl).block (ctx.x.slot ctx.sl).word)).toNat
  | 0x08 => ctx.x.asf.toNat
  | 0x09 => ctx.x.ate.toNat
  | 0x0A => gsw ctx.t ctx.g ctx.x
  | 0x0B => (x.swp.getD (x.clusterOf ctx.c) 0).toNat
  | 0x0C => x.chg.toNat
  | 0x0D => x.phaseSpace.toNat % 2 ^ 32
  | _ => (x.phaseTab.getD (n - 0x10) 0).toNat

/-- RDS (R305). -/
def execLRds (o : VOps) (s : State) : Host.Outcome State Fault Refusal :=
  execLane {} 9 (fun ctx s =>
    let f := rdsValue s ctx o.sc.toNat
    ctx.done s (if Checks.rds64 o.sc.toNat then ctx.writePair (ctx.opened o) o.dst.toNat f
                else ctx.write (ctx.opened o) o.dst.toNat f)) s

/-- WRS (R305): ASF and ATE. -/
def execLWrs (o : VOps) (s : State) : Host.Outcome State Fault Refusal :=
  execLane {} 9 (fun ctx s =>
    let v : BitVec 5 := (ctx.x.operand 0 o.sa.toNat).truncate 5
    let y := ctx.opened o
    ctx.done s (if o.sc = 0x08 then { y with asf := v } else { y with ate := v })) s

end Sys2Proof.Machine
end

