-- ==== Sys2Proof/Machine/SavedContext.lean ====
section
/-! DEFINITION. The saved context of a core as bytes (13 R393): what firmware reads (`contextRead`) of a team that the model
keeps in `Launch.saved`. -/

namespace Sys2Proof.Machine

open Sys2Proof

/-- The sections of Table 13.5, in order. -/
inductive CtxSection where
  | header
  | composer
  | store
  | frames
  | groups
  | vregs
  | uregs
  | residues
  | scratchpad
  | accumulator
  | engines
  deriving DecidableEq, Repr

def ctxSections : List CtxSection :=
  [.header, .composer, .store, .frames, .groups, .vregs, .uregs, .residues, .scratchpad, .accumulator, .engines]

/-- A size rounded up to 4 KiB. -/
def page4k (n : Nat) : Nat := (n + 4095) / 4096 * 4096

/-- The spill area behind the team's scratchpad (05 R143, R146). -/
def Team.spillArea (t : Team) : Nat := page4k (t.groups.length * t.divstack)

/-- Scratchpad and spill area. -/
def Team.spAll (t : Team) : Nat := t.scratch + t.spillArea

/-- Size of a section in bytes (Table 13.5). -/
def ctxSize (t : Team) : CtxSection → Nat
  | .header => 4096
  | .composer => 4096
  | .store => 131072
  | .frames => 65536 + 32768 + 64
  | .groups => 256 * t.groups.length
  | .vregs => 128 * t.vregs * t.groups.length
  | .uregs => 256 * t.groups.length
  | .residues => 4096 * t.groups.length
  | .scratchpad => t.spAll + t.spAll / 128 + t.spAll / 2048
  | .accumulator => 1024 * t.accRows
  | .engines => 16384

/-- Where a section begins: behind the sections before it, each rounded up to 4 KiB. -/
def ctxStart (t : Team) (k : CtxSection) : Nat :=
  ((ctxSections.takeWhile fun j => j ≠ k).map fun j => page4k (ctxSize t j)).sum

/-- A PC slot's 16 bytes (Table 13.6a). -/
def slotRecord (p : PcSlot) : Nat :=
  p.block % 2 ^ 12 + p.word % 2 ^ 12 * 2 ^ 12 + p.mark % 2 ^ 12 * 2 ^ 24 + slotCode p.st * 2 ^ 38 + p.mask.toNat * 2 ^ 64

/-- A group's 256-byte record (Table 13.6). -/
def groupRecord (t : Team) (g : Nat) : Nat :=
  let x := t.groups.getD g {}
  let bytes (n at_ : Nat) (f : Nat → Nat) : Nat := (List.range n).foldl (fun m k => m + f k * 2 ^ (at_ + 8 * k)) 0
  gsw t g x + slotRecord x.pc0 * 2 ^ 64 + slotRecord x.pc1 * 2 ^ 192 + bytes 32 320 (fun st => (x.nestOf st).toNat) +
  (x.xreg 0).toNat * 2 ^ 576 + (x.xreg 1).toNat * 2 ^ 608 + (x.xreg 2).toNat * 2 ^ 640 + (x.xreg 3).toNat * 2 ^ 672 +
  x.asf.toNat * 2 ^ 704 + x.ate.toNat * 2 ^ 736 + x.feServed.toNat * 2 ^ 768 + x.frec.word * 2 ^ 1024

/-- A spill entry (05 Table 5.6). -/
def Spill.word (e : Spill) : Nat := e.mask.toNat + e.block % 2 ^ 12 * 2 ^ 32 + e.mark % 2 ^ 12 * 2 ^ 44

/-- Byte `b` of a little-endian word. -/
def byteOf (w b : Nat) : Byte := BitVec.ofNat 8 (w / 2 ^ (8 * b))

/-- Byte `b` of the spill area: entries at ascending offsets of their group's stack; behind its top nothing is said. -/
def spillByte (t : Team) (b : Nat) : Option Byte :=
  let x := t.groups.getD (b / t.divstack) {}
  (x.spill.reverse[b % t.divstack / 16]?).map fun e => byteOf e.word (b % 16)

/-- Byte `b` of the scratchpad section: data, then full/empty bits, then tags. -/
def spCtxByte (t : Team) (b : Nat) : Option Byte :=
  if b < t.scratch then some (t.sp.byte b)
  else if b < t.spAll then spillByte t (b - t.scratch)
  else if b < t.spAll + t.spAll / 128 then
    let g := 8 * (b - t.spAll)
    some (BitVec.ofNat 8 ((List.range 8).foldl (fun m k => m + Bits.ofBool (t.isFull (g + k)) * 2 ^ k) 0))
  else some ((t.tagOf (b - t.spAll - t.spAll / 128)).zeroExtend 8)

/-- Byte `b` of a section; none behind its end and in a spill area above its stacks. The header, the composer's section, the
frame states with the chunk map, and the engines' section hold what Table 13.5 names in an order it does not print: their
bytes are free values of the team saved (log 14). -/
def ctxByte (t : Team) (k : CtxSection) (b : Nat) : Option Byte :=
  if ctxSize t k ≤ b then none
  else
    match k with
    | .header => some (Config.contextByte t 0 b)
    | .composer => some (Config.contextByte t 1 b)
    | .store => some (t.store.byte b)
    | .frames =>
      if b < 65536 then some (byteOf (t.fb.get 0 (b / 8)).toNat (b % 8))
      else if b < 98304 then some (byteOf (t.prov.get 0 ((b - 65536) / 4)).toNat (b % 4))
      else some (Config.contextByte t 2 (b - 98304))
    | .groups => some (byteOf (groupRecord t (b / 256)) (b % 256))
    | .vregs =>
      let r := b / 128
      some (byteOf ((t.groups.getD (r / t.vregs) {}).vreg (r % t.vregs) (b % 128 / 4)).toNat (b % 4))
    | .uregs => some (byteOf ((t.groups.getD (b / 256) {}).wreg (b % 256 / 4)).toNat (b % 4))
    | .residues =>
      let o := b % 4096
      some (byteOf ((t.groups.getD (b / 4096) {}).residue (o % 128 / 16) (o / 128) (o % 16 / 4)).toNat (b % 4))
    | .scratchpad => spCtxByte t b
    | .accumulator => some (byteOf (t.acc.get 0 (256 * (b / 1024) + b % 1024 / 4)).toNat (b % 4))
    | .engines => some (Config.contextByte t 3 b)

/-- The byte at an offset of a saved core's context area. -/
def savedByte (t : Team) (ofs : Nat) : Option Byte :=
  (ctxSections.find? fun k => decide (ctxStart t k ≤ ofs) && decide (ofs < ctxStart t k + page4k (ctxSize t k))).bind fun k =>
    ctxByte t k (ofs - ctxStart t k)

end Sys2Proof.Machine
end

