-- ==== Sys2Proof/Machine/TransEvents.lean ====
section
/-! DEFINITION. The events of translation: walks that answer misses (01 R33, R34), TLB invalidations (R40), and the
exporter's side of peer requests (R23). -/

namespace Sys2Proof.Machine

open Sys2Proof

/-! ## Walks -/

/-- The cluster served next: the first from `walkNext` on with a miss waiting (R34). -/
def walkCluster (x : Die) : Option Nat :=
  ((List.range Die.clusterCount).map fun k => (x.walkNext + k) % Die.clusterCount).find? fun n => x.misses.any fun m => x.clusterOf m.core = n

/-- The failure of a walk told to a party that waits for it: it is kept until the party's instruction takes it. -/
def tellFailure (s : State) (d c page cause : Nat) (r : Req) : State :=
  match r with
  | .composer => s.updComp d c fun k => { k with walkFail := k.walkFail ++ [(page, cause)] }
  | .slot g sl => s.updGroup d c g fun x => x.updSlot sl fun p => { p with walkFail := p.walkFail ++ [(page, cause)] }

/-- The oldest miss of the next cluster is walked. A leaf is filled into both tiers and answers every miss of the core
that it covers (R32, R33); a failure is kept for those who wait. A walk is one step, so an invalidation finds none in
progress (R40, log 9). -/
def walkOne (d : Nat) (s : State) : State :=
  let x := s.die d
  match walkCluster x with
  | none => s
  | some n =>
    match x.misses.find? (fun m => x.clusterOf m.core = n) with
    | none => s
    | some m =>
      let va := m.page * 65536
      let r := walk x va
      let y := { (x.putPtrs r.2) with walkNext := (n + 1) % Die.clusterCount }
      match r.1 with
      | .ok e =>
        let z := (y.fillCluster m.core e).fillCore m.core e
        s.updDie d fun _ =>
          { z with misses := z.misses.filter fun k => !(k.core = m.core && e.covers (k.page * 65536)) }
      | .error cause =>
        m.who.foldl (fun s q => tellFailure s d m.core m.page cause q)
          (s.updDie d fun _ => { y with misses := y.misses.filter (fun k => k ≠ m) })

/-- TRANSLATION_WALK: the fill reaches the cluster's TLB in a cycle whose pulse passes (12 R375). -/
def execETranslationWalk (s : State) : Host.Outcome State Fault Refusal :=
  execEvent (fun d s =>
    match walkCluster (s.die d) with
    | none => s
    | some n => if clusterPulse s (s.die d) n then walkOne d s else s) s

/-! ## Invalidation (R40, Tables 1.15 and 1.16) -/

/-- The range that a value written to TLBINV_n names, first address and length; `none` for a malformed value. -/
def tlbRange (v : Nat) : Option (Nat × Nat) :=
  let size := Bits.field v 10 6
  let len := 65536 * 2 ^ size
  if Bits.field v 52 12 ≠ 0 || Bits.field v 1 9 ≠ 0 then none
  else if Bits.bit v 0 then some (0, 2 ^ 52)
  else
    let base := Bits.field v 16 36 * 65536
    if 36 < size || base % len ≠ 0 then none else some (base, len)

def TlbEntry.inRange (e : TlbEntry) (lo len : Nat) : Bool := decide (e.va < lo + len) && decide (lo < e.va + 2 ^ e.leaf.size)

/-- The part of the space below a pointer entry meets the range. -/
def PtrEntry.inRange (p : PtrEntry) (lo len : Nat) : Bool :=
  let sz := if p.level = 0 then 2 ^ 39 else 2 ^ 30
  decide (p.tag * sz < lo + len) && decide (lo < (p.tag + 1) * sz)

/-- What failed walks have left with a team's instructions for pages of the range is dropped: they are translated again. -/
def dropFails (t : Team) (lo len : Nat) : Team :=
  let keep (l : List (Nat × Nat)) : List (Nat × Nat) :=
    l.filter fun f => !(decide (f.1 * 65536 < lo + len) && decide (lo < f.1 * 65536 + 65536))
  let slot (p : PcSlot) : PcSlot := { p with walkFail := keep p.walkFail }
  { t with comp := { t.comp with walkFail := keep t.comp.walkFail }
           groups := t.groups.map fun g => { g with pc0 := slot g.pc0, pc1 := slot g.pc1 } }

/-- Every entry that overlaps the range is dropped, at once, from every TLB and from the pointer cache. -/
def tlbDrop (x : Die) (lo len : Nat) : Die :=
  let keep (l : List TlbEntry) : List TlbEntry := l.filter fun e => !e.inRange lo len
  let keepAll (m : SMap (List TlbEntry)) : SMap (List TlbEntry) :=
    (m.map fun e => (e.1, keep e.2)).filter fun e => !e.2.isEmpty
  { x with coreTlb := keepAll x.coreTlb, clusterTlb := keepAll x.clusterTlb, copyTlb := keep x.copyTlb
           collTlb := keep x.collTlb, ptrCache := x.ptrCache.filter fun p => !p.inRange lo len
           teams := x.teams.map fun e => (e.1, dropFails e.2 lo len) }

/-- A write to TLBINV_n: it starts an invalidation, or is ignored with ERR where it is malformed or one is in
progress. -/
def tlbInvWrite (x : Die) (v : Nat) : Die :=
  match x.tlbBusy, tlbRange v with
  | none, some (lo, len) => { (tlbDrop x lo len) with tlbBusy := some (lo, len) }
  | _, _ => { x with tlbErr := true }

def execETlbInvalidateRange (v : Word64) (s : State) : Host.Outcome State Fault Refusal :=
  execEvent (fun d s => if v.getLsbD 0 then s else s.updDie d fun x => tlbInvWrite x v.toNat) s

def execETlbInvalidateAll (v : Word64) (s : State) : Host.Outcome State Fault Refusal :=
  execEvent (fun d s => if v.getLsbD 0 then s.updDie d fun x => tlbInvWrite x v.toNat else s) s

/-- An access that may have been translated with a dropped entry is still on its way. -/
def accessPending (t : Team) (lo len : Nat) : Bool :=
  let hit (l : Loc) (va n : Nat) : Bool :=
    (match l with | .sp _ _ => false | _ => true) && decide (va < lo + len) && decide (lo < va + n)
  (t.sq ++ t.ts).any (fun w => hit w.loc w.va w.kind.bytes) ||
  t.groups.any fun g => g.loads.any fun o => o.units.any fun u => u.val.isNone && hit u.loc u.va u.n

/-- A location behind an import, served at die `d`. -/
def Site.serves (x : Site) (l : Loc) (d : Nat) : Bool :=
  match x, l with | .at k _ _, .peer _ _ _ => k = d | _, _ => false

/-- An access that an exporter has accepted is still to be served at a die (R24): of a core, or of the host. -/
def servingFor (s : State) (d : Nat) : Bool :=
  (s.dies.any fun x => x.teams.any fun e => (e.2.sq ++ e.2.ts).any fun w => w.site.any fun k => k.serves w.loc d) ||
  s.pkg.funcs.any fun f => f.todo.any fun u => u.site.serves u.loc d

/-- Units of a request through the window of die d's function, translated in a range, are still to be served (14 R398). -/
def windowPending (s : State) (d lo len : Nat) : Bool :=
  (s.pkg.funcs.getD (d + 1) {}).todo.any fun u => decide (u.va < lo + len) && decide (lo < u.va + u.n)

/-- An access of die d in a range that may have used a translation since dropped is still to be performed (R40). -/
def rangePending (s : State) (d lo len : Nat) : Bool :=
  (s.die d).teams.any (fun e => accessPending e.2 lo len) || windowPending s d lo len || servingFor s d

/-- TLB_INVALIDATION_COMPLETE: BUSY clears. -/
def execETlbInvalidationComplete (s : State) : Host.Outcome State Fault Refusal :=
  execEvent (fun d s =>
    let x := s.die d
    match x.tlbBusy with
    | none => s
    | some (lo, len) =>
      if rangePending s d lo len then s else s.updDie d fun x => { x with tlbBusy := none }) s

/-! ## The exporter -/

/-- The answer to a peer request of another package leaves for its requester (14 Table 14.3). -/
def sendReply (s : State) (r : PeerReq) (a : Except Nat Nat) : State :=
  s.sendFar r.pkg r.die responseVc (match a with | .ok v => .reply none v | .error k => .reply (some k) 0)

/-- Bytes that a peer request asks for. -/
def peerBytes : PeerOp → Nat
  | .read n => n
  | .write b => b.length
  | .atomic _ fmt _ _ | .cu _ fmt _ _ _ _ => elemBytes fmt

/-- A peer request performed at a location of the exporting die. A contribution enters the partial of its holder, which has a
key of its own (03 R94). -/
def performPeer (d : Nat) (r : PeerReq) (l : Loc) (ll : Nat) (s : State) : State × Except Nat Nat :=
  let written (a : State × Option Nat) : State × Except Nat Nat := (a.1, match a.2 with | none => .ok 0 | some k => .error k)
  match r.op with
  | .read n => readAt s d l n ll
  | .write b => written (writeAt s d l b.length (Bits.ofBytes b) ll)
  | .atomic op fmt x y => rmwAt s d l op.toNat fmt (elemBytes fmt) x.toNat y.toNat ll
  | .cu op fmt x hp hd unit => written (contributeBy s d hp hd unit l op.toNat fmt x.toNat ll)

/-- A peer request of another package served at the exporting die, and its answer sent (R23 to R25). -/
def servePeer (d : Nat) (r : PeerReq) (s : State) : State :=
  let e := exporterLoc (s.die d) r.exp r.gen r.off (peerBytes r.op) (peerUse r.op) r.rw
  let s1 := s.updDie d fun _ => e.1
  match e.2 with
  | .error k => sendReply s1 r (.error k)
  | .ok (l, ll) =>
    if peerUse r.op = .atomic && !r.ra then sendReply s1 r (.error Cause.PEERMISS)
    else let a := performPeer d r l ll s1; sendReply a.1 r a.2

/-- PEER_REQUEST. -/
def execEPeerRequest (r : PeerReq) (s : State) : Host.Outcome State Fault Refusal :=
  execEvent (fun d s => if r.expDie = d then servePeer d r s else s) s

end Sys2Proof.Machine
end

