-- ==== Sys2Proof/Machine/Registers.lean ====
section
/-! DEFINITION. Firmware's writes to registers: the die register block, the control-die register block, the control
pages of the queues, table memory, and the tables that firmware keeps for routing, host windows and imports. -/

namespace Sys2Proof.Machine

open Sys2Proof

/-- The fields of a value that a register holds: pairs of lowest bit and width. -/
def keepFields (v : Nat) (l : List (Nat × Nat)) : Word64 :=
  BitVec.ofNat 64 (l.map fun f => Bits.field v f.1 f.2 * 2 ^ f.1).sum

/-! ## The die register block -/

/-- PHASE_SPACE (05 Table 5.9); held back while LOWCHG is set (12 R377). -/
def writePhaseSpace (x : Die) (v : Nat) : Die :=
  let w := keepFields v [(16, 4), (0, 10)]
  if x.power.lowchg then { x with phaseSpaceFw := w } else { x with phaseSpaceFw := w, phaseSpace := w }

/-- SWP_n (12 R375, R377). -/
def writeSwp (x : Die) (n v : Nat) : Die :=
  let p := BitVec.ofNat 16 v
  if p = 0 then x
  else
    let y := { x with swpFw := x.swpFw.set n p }
    if x.power.lowchg then y else { y with swpNext := y.swpNext.insert n p }

/-- PRICE_TAB_n (12 Table 12.2). -/
def writePrices (x : Die) (n v : Nat) : Die :=
  { x with price := (List.range 4).foldl (fun l j => l.set (4 * n + j) (Bits.field v (16 * j) 16)) x.price }

/-- PERMIT_c (12 Table 12.4), in effect at the next core cycle. -/
def writePermit (x : Die) (c v : Nat) : Die :=
  { x with permitNext := x.permitNext.insert c (max 1 (Bits.field v 32 20), Bits.field v 0 16) }

/-- DPC_CFG (12 Table 12.9): a new LOWPAT or LOWSPACE is applied where LOWCHG is set (R377). -/
def writeDpc (x : Die) (v : Nat) : Die :=
  let y := { x with dpcCfg := BitVec.ofNat 64 v }
  if x.power.lowchg then y.applyLow else y

/-- One 8-byte word of SDT_n (01 Table 1.6). -/
def writeSdt (x : Die) (n j v : Nat) : Die :=
  { x with sdt := Bits.updAt x.sdt n fun e =>
      if j = 0 then { e with base := v }
      else if j = 1 then { e with limit := v }
      else if j = 2 then { e with shadow := v }
      else { e with valid := Bits.bit v 8, geom := Bits.field v 4 2, fmt := Bits.field v 0 4 } }

/-- A write at an 8-byte offset of the die register block; one that holds no writable register is ignored. -/
def writeDieReg (x : Die) (off v : Nat) : Die :=
  let k := off / 8
  if off % 8 ≠ 0 then x
  else if off = 0x2000 then { x with forced := BitVec.ofNat 32 (v / 2 ^ 32) }
  else if off = 0x3000 then writePhaseSpace x v
  else if 0x3008 ≤ off && off < 0x3030 then
    { x with phaseTab := x.phaseTab.set (k - 0x601) (BitVec.ofNat 64 (if off = 0x3028 then v % 256 else v)) }
  else if off = 0x4000 then { x with seed := if v % 2 ^ 32 = 0 then 1 else BitVec.ofNat 32 v }
  else if 0x5000 ≤ off && off < 0x5040 then writePrices x (k - 0xA00) v
  else if 0x5040 ≤ off && off < 0x5060 then writePermit x (k - 0xA08) v
  else if off = 0x5060 then writeDpc x v
  else if off = 0x5068 then { x with power := { x.power with slewmiss := Bits.field v 48 16 } }
  else if off = 0x5070 then { x with vesper := keepFields v [(12, 36), (0, 3)] }
  else if 0x5100 ≤ off && off < 0x5310 then writeSwp x (k - 0xA20) v
  else if 0x8000 ≤ off && off < 0x8800 then writeSdt x ((off - 0x8000) / 32) (k % 4) v
  else if 0x10000 ≤ off && off < 0x10800 then
    { x with commTab := x.commTab.set (k - 0x2000) (keepFields v [(12, 40), (4, 8), (2, 1), (0, 2)]) }
  else x

/-! ## The control-die register block -/

/-- A write at an offset of the block of die n: PTROOT_n, TLBINV_n and TLBSTAT_n (01 Tables 1.14 to 1.16). -/
def writeTransReg (x : Die) (off v : Nat) : Die :=
  if off = 0 then { x with ptroot := keepFields v [(16, 12), (0, 1)] }
  else if off = 8 then tlbInvWrite x v
  else if off = 0x10 && Bits.bit v 1 then { x with tlbErr := false }
  else x

def writeControlReg (s : State) (off v : Nat) : State :=
  let p := s.pkg
  if 0x1000 ≤ off && off < 0x1300 then s.updDie ((off - 0x1000) / 0x100) fun x => writeTransReg x (off % 0x100) v
  else if off = 0x6000 then { s with pkg := { p with pwr := keepFields v [(32, 12), (0, 12)] } }
  else if off = 0x6008 then { s with pkg := { p with slew := keepFields v [(32, 16), (0, 16)] } }
  else if off = 0x6028 then writeIntentCfg s v
  else if off = 0x7000 then { s with pkg := { p with tbMaster := Bits.bit v 1 } }
  else s

/-! ## The other tables -/

/-- Firmware's write to a control page: QCFG, QBASE, or QSTAT (11 Tables 11.2, 11.3). A queue that is disabled is not
eligible, so that it has no LOSSES (R356). -/
def writeQueueReg (x : Queue) (off v : Nat) : Queue :=
  if off = 0x20 then
    let k := Bits.field v 0 5
    { x with en := Bits.bit v 16, shares := Bits.field v 8 8, lsize := if 6 ≤ k ∧ k ≤ 16 then k else 6
             losses := if Bits.bit v 16 then x.losses else 0 }
  else if off = 0x28 then { x with qbase := v / 64 * 64 }
  else if off = 0x30 then { x with err := if Bits.bit v 0 then false else x.err }
  else x

/-- An import entry rewritten: its freeze is lifted (01 R25). -/
def rewriteImport (x : Die) (n : Nat) : Die :=
  match x.imports.find? n with
  | some i => { x with imports := x.imports.insert n { i with frozen := false } }
  | none => x

/-- A page of a function's host window mapped to a virtual page of its die, or, with bit 0 clear, unmapped (14 R398;
log 31). -/
def writeWindow (f : Func) (page v : Nat) : Func :=
  { f with window := if Bits.bit v 0 then f.window.insert page (v / 65536) else f.window.erase page }

/-- Firmware's access to an aligned 8-byte word of a die's HBM, a party of .SYS (04 Table 4.1): a write, or a read whose
answer stands in `busReply`, a free value where the data is uncorrectable (log 29). -/
def firmwareAccess (s : State) (d pa : Nat) (write : Bool) (v : Nat) : State :=
  if pa % 8 ≠ 0 || regionOf pa 8 ≠ .hbm then s
  else if write then (writeAt s d (.hbm pa) 8 v 0).1
  else
    let r := readAt s d (.hbm pa) 8 0
    match r.2 with
    | .ok v => { r.1 with busReply := BitVec.ofNat 64 v }
    | .error _ => let f := r.1.takeFree; { f.2 with busReply := f.1 }

/-- Firmware reads an aligned 8-byte word of the memory that holds the saved context of a core (13 R393); a byte of which the
spec says nothing is free, and so is what lies where no context is (log 14). -/
def contextRead (s : State) (d : Nat) (l : LKey) (core off : Nat) : State :=
  match ((s.die d).launch? l).bind fun k => List.find? (fun e : Nat × Team => e.1 = core) k.saved with
  | none => let f := s.takeFree; { f.2 with busReply := f.1 }
  | some e =>
    (List.range 8).foldl (fun s k =>
      match savedByte e.2 (off / 8 * 8 + k) with
      | some b => { s with busReply := s.busReply ||| BitVec.ofNat 64 (b.toNat * 2 ^ (8 * k)) }
      | none =>
        let f := s.takeFree
        { f.2 with busReply := f.2.busReply ||| BitVec.ofNat 64 (f.1.toNat % 256 * 2 ^ (8 * k)) })
      { s with busReply := 0 }

/-- REGISTER_WRITE. -/
def execERegisterWrite (b : RegBlock) (off : Nat) (v : Word64) (s : State) : Host.Outcome State Fault Refusal :=
  execEvent (fun _ s =>
    let n := v.toNat
    match b with
    | .die d => s.updDie d fun x => writeDieReg x off n
    | .control => writeControlReg s off n
    | .queue d q => s.setQueue d q (writeQueueReg (s.queue d q) off n)
    | .table d => if off % 8 = 0 && off < 2 ^ 28 then s.updDie d fun x => { x with table := x.table.write off 8 n } else s
    | .route => { s with pkg := { s.pkg with route := s.pkg.route.set 0 (off % 16384) (BitVec.ofNat 16 n) } }
    | .window fn => { s with pkg := { s.pkg with funcs := Bits.updAt s.pkg.funcs fn fun f => writeWindow f off n } }
    | .import d => s.updDie d fun x => rewriteImport x off
    | .memory d w => firmwareAccess s d off w n
    | .context d l core => contextRead s d l core off) s

end Sys2Proof.Machine
end

