-- ==== Sys2Proof/Machine/HostPort.lean ====
section
/-! DEFINITION. The PCI Express port: requests through the BARs and windows of the four functions (14 R397 to R400,
R408), Function Level Reset (R399), and the management mailbox with its commands (R401, 01 R21 to R25, R407). -/

namespace Sys2Proof.Machine

open Sys2Proof

/-! ## The mailbox -/

/-- TBSTAT (Table 14.5). -/
def tbstat (p : Pkg) : Nat := Bits.ofBool p.tbLost + Bits.ofBool p.tbMaster * 2 +
  (if p.tbMaster then 0 else p.tbHops.toNat) * 2 ^ 16 + p.tbOfs.toNat * 2 ^ 32

/-- A word of the harvest mirrors (15 R408), which hold nothing before bring-up step 4. -/
def mirrorWord (s : State) (off : Nat) : Nat :=
  let x := s.die ((off - 0x1000) / 0x400)
  let o := (off - 0x1000) % 0x400
  if o < 40 then (x.hmap.getD (o / 8) 0).toNat
  else if 0x200 ≤ o then (x.l2pt.getD ((o - 0x200) / 8) 0).toNat
  else 0

/-- The n bytes at an offset lie in registers of the mailbox (Table 14.2a), or touch the harvest mirrors, where an access that
is no aligned 8-byte load is ignored (15 R408). -/
def mailboxHas (off n : Nat) : Bool :=
  let inside (lo hi : Nat) : Bool := decide (lo ≤ off) && decide (off + n ≤ hi)
  inside 0 0x40 || inside 0x40 0x48 || inside 0x80 0x88 || inside 0x100 0x108 || inside 0x200 0x240 ||
  inside 0x300 0x308 || inside 0x4000 0x10000 ||
  (decide (off < 0x1C00) && decide (0x1000 < off + n))

/-- A host read of n bytes of the mailbox. The DOORBELL, which is written only, and a load of the harvest mirrors that is ignored
answer 0 (DESIGN CHOICE, log 46). -/
def mailboxRead (s : State) (off n : Nat) : Nat :=
  let m := s.pkg.mailbox
  let word (v lo : Nat) : Nat := Bits.field v (8 * (off - lo)) (8 * n)
  if off < 0x40 then m.req.read off n
  else if off < 0x80 then 0
  else if off < 0x100 then word (tbstat s.pkg) 0x80
  else if off < 0x200 then 0
  else if off < 0x300 then m.resp.read (off - 0x200) n
  else if off < 0x1000 then word (Bits.ofBool m.idle) 0x300
  else if off < 0x4000 then if n = 8 && off % 8 = 0 then mirrorWord s off else 0
  else m.result.read (off - 0x4000) n

/-- The response of a request: its status, and what follows it from byte 8; MBSTAT reads 1 and vector 0 is raised. -/
def respond (s : State) (status : Nat) (more : List Byte) : State :=
  let m := s.pkg.mailbox
  raiseVector 0 0
    { s with pkg := { s.pkg with mailbox :=
        { m with resp := (Mem.setByte [] 0 (BitVec.ofNat 8 status)).writeBytes 8 more, idle := true, revoking := none } } }

def respondResult (s : State) (bytes : List Byte) : State :=
  let m := s.pkg.mailbox
  respond { s with pkg := { s.pkg with mailbox := { m with result := Mem.writeBytes [] 0 bytes } } } 0 (Bits.toBytes 4 bytes.length)

/-- The command under way, from the bytes of its request as they were read when it was taken (R401). -/
def commandOf (s : State) : Nat := (s.pkg.mailbox.cmd.byte 0).toNat

/-- Bring-up step 1 has failed: function 0 reports status 2 to every command (Table 14.4). -/
def startFailed (s : State) : Bool := s.pkg.boot = 0 && s.pkg.bootHalted

/-- A host write to the mailbox: REQ, or the doorbell, which takes a request where MBSTAT reads 1 and reads all its bytes; one
of an unknown command is refused (log 31). -/
def mailboxWrite (s : State) (off : Nat) (b : List Byte) : State :=
  let m := s.pkg.mailbox
  if off < 0x40 then { s with pkg := { s.pkg with mailbox := { m with req := m.req.writeBytes off b } } }
  else if off = 0x100 && Bits.ofBytes b = 1 && m.idle then
    let s1 := { s with pkg := { s.pkg with mailbox := { m with idle := false, cmd := m.req, early := s.pkg.boot < 2 && !s.pkg.bootHalted } } }
    if startFailed s then respond s1 2 []
    else if 1 ≤ commandOf s1 && commandOf s1 ≤ 7 then s1 else respond s1 1 []
  else s

/-! ## Host requests -/

/-- Unsupported Request, with a read answered by ones. -/
def unsupported (s : State) : State := { s with busReply := BitVec.allOnes 64 }.send .unsupported

/-- The same, and the function is frozen (R399). -/
def refuse (s : State) (fn : Nat) : State :=
  unsupported { s with pkg := { s.pkg with funcs := Bits.updAt s.pkg.funcs fn fun f => { f with frozen := true } } }

/-- A read answered with its data. -/
def answerRead (s : State) (v : Nat) : State := { s with busReply := BitVec.ofNat 64 v }.send (.reply none v)

/-- The control page of a queue holds a register at the n bytes (11 Table 11.1). -/
def pageHas (o n : Nat) : Bool := decide (o + n ≤ 0x38) || (decide (0x2000 ≤ o) && decide (o + n ≤ 0x4000))

/-- The bytes of a request. -/
def hostBytes : HostOp → Nat
  | .read n => n
  | .write b => b.length
  | .unit _ => 0

/-- A request to a control page of queue q of die d. The trigger word reads zero and ignores writes (R400). -/
def pageRequest (s : State) (fn d q o : Nat) (op : HostOp) : State :=
  let n := (hostBytes op)
  if q = 1023 && 0xFFC0 ≤ o && o + n ≤ 0xFFC8 then
    match op with | .read _ => answerRead s 0 | _ => s
  else if !pageHas o n then refuse s fn
  else
    match op with
    | .read n =>
      let r := s.queueRead d q o n
      answerRead r.1 r.2.toNat
    | .write b => s.queueWrite d q o b.length (Bits.ofBytes b)
    | .unit _ => s

def updFunc (s : State) (fn : Nat) (f : Func → Func) : State := { s with pkg := { s.pkg with funcs := Bits.updAt s.pkg.funcs fn f } }

/-- A cause by which an exporter refuses a request (01 R36, step 6), which is a failed check. -/
def refusal (k : Nat) : Bool := k = Cause.REVOKED || k = Cause.PEERMISS || k = Cause.FROZEN || k = Cause.MALFORMED || k = Cause.DEVICEKIND

/-- A request through a window has failed with a cause: a failed check refuses it, another error is its answer. -/
def windowFails (s : State) (fn k : Nat) : State :=
  let s1 := updFunc s fn fun f => { f with todo := [], got := 0 }
  if refusal k then refuse s1 fn else s1.send (.reply (some k) 0)

/-- A unit of a request through a window, the last if `last`, is read or written where its site has accepted it, and the
request is answered with it. -/
def serveHostUnit (s : State) (fn : Nat) (u : HostUnit) (last : Bool) : State :=
  match u.data with
  | none =>
    let r := readAccepted s u.n u.treat u.site
    (match r.2 with
     | .error k => windowFails r.1 fn k
     | .ok v =>
       let got := (s.pkg.funcs.getD fn {}).got + v * 2 ^ (8 * u.ofs)
       if last then answerRead (updFunc r.1 fn fun f => { f with todo := [], got := 0 }) got
       else updFunc r.1 fn fun f => { f with got := got })
  | some v =>
    let r := writeAccepted s u.n v u.treat u.site
    match r.2 with
    | none => r.1
    | some k => windowFails r.1 fn k

/-- The j-th unit left of the request under way of a function. -/
def serveTodo (s : State) (fn j : Nat) : State :=
  let l := (s.pkg.funcs.getD fn {}).todo
  match l[j % max 1 l.length]? with
  | none => s
  | some u =>
    let left := l.erase u
    serveHostUnit (updFunc s fn fun f => { f with todo := left }) fn u left.isEmpty

/-- The request under way of a function is served to its end, behind which the next one stands (R398). -/
def finishTodo (s : State) (fn : Nat) : State :=
  (List.range (s.pkg.funcs.getD fn {}).todo.length).foldl (fun s _ => serveTodo s fn 0) s

/-- A range cut at aligned 8 bytes. -/
def wordsOf (va n : Nat) : List (Nat × Nat) :=
  (List.range ((va + n + 7) / 8 - va / 8)).map fun j =>
    let g := (va / 8 + j) * 8
    (max va g, min (va + n) (g + 8) - max va g)

/-- The units of a request of n bytes at va, each accepted at its site (01 R36, step 6), or the first cause that refuses one:
the request then performs nothing (R399). -/
def acceptUnits (d va : Nat) (e : TlbEntry) (data : Option (List Byte)) (l : List (Nat × Nat)) (s : State) : State × Except Nat (List HostUnit) :=
  l.foldl (fun a p =>
    match a.2 with
    | .error _ => a
    | .ok us =>
      let v := data.map fun b => Bits.field (Bits.ofBytes b) (8 * (p.1 - va)) (8 * p.2)
      let loc := e.loc p.1
      let r := match v with
        | none => siteOf a.1 d loc p.2 .read (.read p.2)
        | some v => siteOf a.1 d loc p.2 .write (.write (Bits.toBytes p.2 v))
      match r.2 with
      | .error k => (r.1, .error k)
      | .ok site =>
        let q := acceptSite r.1 site
        (q.1, match q.2 with
          | some k => .error k
          | none => .ok (us ++ [{ va := p.1, loc, site, n := p.2, ofs := p.1 - va, treat := engineLl e.leaf, data := v }])))
    (s, .ok [])

/-- n bytes at a location lie in a trigger word: of the die's function, behind the host aperture one of the package's, or one of
these that an exporter's page maps (R400). -/
def inTrigger (s : State) (d : Nat) (l : Loc) (n : Nat) : Bool :=
  let at_ (l : Loc) : Bool :=
    match l with
    | .qctl o => decide (triggerOfs ≤ o) && decide (o + n ≤ triggerOfs + 8)
    | .host b => (List.range 4).any fun fn => decide (triggerBus fn ≤ b) && decide (b + n ≤ triggerBus fn + 8)
    | _ => false
  match l with
  | .peer i ofs _ =>
    (match (s.die d).imports.find? i with
     | none => false
     | some m =>
       m.pkg = s.pkg.pkgNo.toNat &&
       (match (exporterEntry (s.die m.die) m.exp m.gen ofs n).2 with
        | .ok (va, t) => at_ (t.loc va)
        | .error _ => false))
  | l => at_ l

/-- A request of n bytes at va of a page that translates: a trigger word reads zero and ignores a write (R400); else it is
checked as a load or a store of Table 1.12, whatever its size, and its units are the aligned 8 bytes, in no order (04 Table
4.4). -/
def windowAccess (s : State) (fn d va : Nat) (e : TlbEntry) (op : HostOp) : State :=
  let n := hostBytes op
  if inTrigger s d (e.loc va) n then (match op with | .read _ => answerRead s 0 | _ => s)
  else
    match denied (s.die d) (match op with | .read _ => .load | _ => .store) 8 va e with
    | some _ => refuse s fn
    | none =>
      let r := acceptUnits d va e (match op with | .write b => some b | _ => none) (wordsOf va n) s
      match r.2 with
      | .error k => windowFails r.1 fn k
      | .ok [] => r.1
      | .ok [u] => serveHostUnit r.1 fn u true
      | .ok l => updFunc r.1 fn fun f => { f with todo := l, got := 0 }

/-- A request through the host window of die d's function (R398), behind the one before it: mapped, then translated. -/
def windowRequest (s0 : State) (fn d off : Nat) (op : HostOp) : State :=
  let s := finishTodo s0 fn
  match (s.pkg.funcs.getD fn {}).window.find? (off / 65536) with
  | none => refuse s fn
  | some page =>
    let va := page * 65536 + off % 65536
    let t := translateDie (s.die d) va
    let s1 := s.updDie d fun _ => t.1
    match t.2 with
    | .error _ => refuse s1 fn
    | .ok e => windowAccess s1 fn d va e op

/-- HOST_REQUEST: a load or store at an offset of a BAR of function `fn`; requests of one function are performed in their order
(R398). Nothing answers before bring-up step 1 has ended, and
functions 1 to 3 answer Unsupported Request until step 6 (R405). -/
def execEHostRequest (fn bar off : Nat) (op : HostOp) (s : State) : Host.Outcome State Fault Refusal :=
  execEvent (fun _ s =>
    match op with
    | .unit j => serveTodo s fn j
    | _ =>
    if (s.pkg.boot = 0 && !s.pkg.bootHalted) || decide (4 ≤ fn) then s
    else if (s.pkg.funcs.getD fn {}).frozen then unsupported s
    else if fn = 0 then
      if bar ≠ 0 || decide (65 * 65536 ≤ off) then refuse s 0
      else if 65536 ≤ off then pageRequest s 0 0 (1023 + off / 65536) (off % 65536) op
      else
        if !mailboxHas off (hostBytes op) then refuse s 0
        else
          match op with
          | .read n => answerRead s (mailboxRead s off n)
          | .write b => mailboxWrite s off b
          | .unit _ => s
    else if s.pkg.boot < 6 then unsupported s
    else if bar = 0 && off < 1024 * 65536 then pageRequest (finishTodo s fn) fn (fn - 1) (off / 65536) (off % 65536) op
    else if bar = 2 && off < 2 ^ 34 then windowRequest s fn (fn - 1) off op
    else refuse s fn) s

/-- A gang's reserved launch ended: its rectangle and cells are free and its packet completes (R399). -/
def endReserved (s : State) (d : Nat) (g : Gang) : State :=
  let s1 := startHead (s.updDie d fun x => { x with gangs := x.gangs.filter fun h => h.q ≠ g.q }) d g.q g.pkt
  let s2 := match (s1.die d).launch? { q := g.q, slot := g.slot } with
    | some l => s1.updDie d fun x => forgetLaunch x l
    | none => s1
  endPacket s2 d g.q g.slot g.pkt Status.RESET 0

/-- FUNCTION_LEVEL_RESET: of function 1, 2 or 3, it ends every launch of the die with RESET and lifts the freeze. -/
def execEFunctionLevelReset (fn : Nat) (s : State) : Host.Outcome State Fault Refusal :=
  execEvent (fun _ s =>
    if fn = 0 || decide (4 ≤ fn) then s
    else
      let d := fn - 1
      let keys := ((s.die d).launches.filter fun l => l.st ≠ .reserved).map (·.key)
      let s0 := keys.foldl (fun s k => beginStop s d k (.finish Status.RESET 0)) s
      let s1 := ((s.die d).gangs.filter (·.reserved)).foldl (fun s g => endReserved s d g) s0
      { s1 with pkg := { s1.pkg with funcs := Bits.updAt s1.pkg.funcs fn fun f => { f with frozen := false } } }) s

/-! ## Commands -/

/-- A command under way in the mailbox with the code, handled by `k`. Where the boot has halted only IDENT and ATTEST
are served: any other is not ready (Table 14.4). -/
def onCommand (code : Nat) (k : State → State) (s : State) : Host.Outcome State Fault Refusal :=
  execEvent (fun _ s =>
    if s.pkg.mailbox.idle || s.pkg.boot = 0 || commandOf s ≠ code || s.pkg.mailbox.revoking.isSome then s
    else if s.pkg.bootHalted && code ≠ 5 && code ≠ 6 then respond s 2 []
    else k s) s

/-- A command that names die d. -/
def onDie (d : Nat) (k : State → State) (s : State) : State :=
  if (s.die d).released then k s else respond s 2 []

/-- A handle (Table 1.7). -/
def handleOf (s : State) (d e : Nat) (x : Export) : Nat :=
  let v := s.pkg.pkgNo.toNat + d * 2 ^ 32 + e * 2 ^ 36 + x.gen.toNat * 2 ^ 48 + x.len * 2 ^ 64 + 2 ^ 96 +
    Bits.ofBool x.rw * 2 ^ 97 + Bits.ofBool x.ra * 2 ^ 98
  v + (Config.handleCheck (BitVec.ofNat 112 v)).toNat * 2 ^ 112

/-- EXPORT (01 R21): an aligned range of 64 KiB to 16 GiB takes the lowest free entry (log 45); the handle stands in response bytes 8 to 23 (log 31). -/
def execEExport (d : Nat) (va len : Word64) (rw ra : Bool) (s : State) : Host.Outcome State Fault Refusal :=
  onCommand 1 (onDie d fun s =>
    let x := s.die d
    let n := len.toNat / 65536
    match (List.range 4096).find? fun e => !(x.exports.get {} e).used && !(x.exports.get {} e).revoking with
    | none => respond s 1 []
    | some e =>
      if va.toNat % 65536 ≠ 0 || len.toNat % 65536 ≠ 0 || n = 0 || decide (262144 < n) || decide (2 ^ 52 < va.toNat + len.toNat) then respond s 1 []
      else
        let y : Export := { (x.exports.get {} e) with used := true, base := va.toNat, len := n, rw, ra, revoking := false }
        respond (s.updDie d fun x => { x with exports := x.exports.insert e y }) 0 (Bits.toBytes 16 (handleOf s d e y))) s

/-! ### IMPORT -/

/-- The entry of a page table at an offset made a pointer, to a new table where it is none. -/
def ensureTable (m : Mem) (free slot : Nat) : Mem × Nat × Nat :=
  let raw := m.read slot 8
  if Bits.bit raw 0 && !Bits.bit raw 3 then (m, free, raw / 256 * 256 % 2 ^ 28)
  else (m.write slot 8 (free + 1), free + 4096, free)

/-- One 64 KiB leaf written, with the tables above it (01 Tables 1.1 to 1.3). New tables follow the last byte that
table memory lists (log 31). -/
def mapPage (root : Nat) (acc : Mem × Nat) (va raw : Nat) : Mem × Nat :=
  let b := ensureTable acc.1 acc.2 (root + 8 * Bits.field va 39 13)
  let c := ensureTable b.1 b.2.1 (b.2.2 + 8 * Bits.field va 30 9)
  let d := ensureTable c.1 c.2.1 (c.2.2 + 8 * Bits.field va 21 9)
  (d.1.write (d.2.2 + 8 * Bits.field va 16 5) 8 raw, d.2.1)

/-- The first offset of table memory behind the root table and everything listed, 4 KiB aligned. -/
def tableEnd (x : Die) (root : Nat) : Nat :=
  let last := match x.table.getLast? with | some e => e.1 + 1 | none => 0
  (max (root + 65536) last + 4095) / 4096 * 4096

/-- A PEER leaf: its W bit follows the handle (01 R23). -/
def peerLeaf (imp off : Nat) (rw : Bool) : Nat :=
  1 + Bits.ofBool rw * 2 + 8 + 2 ^ 18 + off * 2 ^ 20 + imp * 2 ^ 38

/-- The PEER leaves of an import written. -/
def mapImport (x : Die) (imp : Nat) (i : Import) : Die :=
  let root := Bits.field x.ptroot.toNat 16 12 * 65536
  let va0 := 0x000F_0000_0000_0000 + i.win * 65536
  { x with table := ((List.range i.len).foldl (fun acc k => mapPage root acc (va0 + k * 65536) (peerLeaf imp k i.rw)) (x.table, tableEnd x root)).1 }

/-- The handle is good: its check code, its fixed bits, and, for an export of this package, the export's own state. An
owner in another package answers with a free value. -/
def handleGood (s : State) (h : Nat) : State × Bool :=
  let f := Bits.field h
  let form := f 99 13 = 0 && f 34 2 = 0 && f 96 1 = 1 && decide (f 32 2 < 3) && decide (1 ≤ f 64 32) && decide (f 64 32 ≤ 262144) &&
    f 112 16 = (Config.handleCheck (BitVec.ofNat 112 h)).toNat
  if !form then (s, false)
  else if f 0 32 = s.pkg.pkgNo.toNat then
    match (s.die (f 32 2)).exports.find? (f 36 12) with
    | some e => (s, e.used && e.gen.toNat = f 48 16 && e.len = f 64 32 && e.rw = Bits.bit h 97 && e.ra = Bits.bit h 98)
    | none => (s, false)
  else
    let r := s.takeFree
    (r.2, r.1.getLsbD 0)

/-- IMPORT (01 R21 to R23): the lowest free import; leaves of the range that map another import are overwritten (log 45).
The mapping is changed as R40 has firmware change it: the command goes on once no invalidation is under way and no access
to the range is, and drops what the TLBs hold of it. -/
def execEImport (d : Nat) (handle : BitVec 128) (off : Word64) (s : State) : Host.Outcome State Fault Refusal :=
  onCommand 2 (onDie d fun s =>
    let h := handle.toNat
    let r := handleGood s h
    let len := Bits.field h 64 32
    let lo := 0x000F_0000_0000_0000 + off.toNat
    match (List.range 1024).find? (fun k => ((s.die d).imports.find? k).isNone) with
    | none => respond r.1 1 []
    | some k =>
      if !r.2 || off.toNat % 65536 ≠ 0 || decide (2 ^ 48 < off.toNat + len * 65536) then respond r.1 1 []
      else if (s.die d).tlbBusy.isSome || rangePending s d lo (len * 65536) then s
      else
        let i : Import :=
          { pkg := Bits.field h 0 32, die := Bits.field h 32 2, exp := Bits.field h 36 12, gen := BitVec.ofNat 16 (Bits.field h 48 16)
            len, rw := Bits.bit h 97, ra := Bits.bit h 98, win := off.toNat / 65536, frozen := false }
        respond (r.1.updDie d fun x => tlbDrop (mapImport { x with imports := x.imports.insert k i } k i) lo (len * 65536)) 0
          (Bits.toBytes 4 k)) s

/-! ### REVOKE, FNCLEAR, DIEOFF, DIEON -/

/-- REVOKE (01 R24): the export's generation advances; the response waits for the revocation. -/
def execERevoke (d e : Nat) (s : State) : Host.Outcome State Fault Refusal :=
  onCommand 3 (onDie d fun s =>
    match (s.die d).exports.find? e with
    | some x =>
      if !x.used then respond s 1 []
      else
        let s1 := s.updDie d fun y => { y with exports := y.exports.insert e { x with used := false, gen := x.gen + 1, revoking := true } }
        { s1 with pkg := { s1.pkg with mailbox := { s1.pkg.mailbox with revoking := some (d, e) } } }
    | none => respond s 1 []) s

/-- REVOCATION_COMPLETE: once every request that the export has accepted is answered. -/
def execERevocationComplete (e : Nat) (s : State) : Host.Outcome State Fault Refusal :=
  execEvent (fun d s =>
    match (s.die d).exports.find? e with
    | some k =>
      if !k.revoking || servingFor s d then s
      else
        let s1 := s.updDie d fun x => { x with exports := x.exports.insert e { k with revoking := false } }
        if s1.pkg.mailbox.revoking = some (d, e) then respond s1 0 [] else s1
    | none => s) s

/-- FNCLEAR (R399, 01 R25). -/
def execEFnclear (fn : Option Nat) (d imp : Nat) (s : State) : Host.Outcome State Fault Refusal :=
  onCommand 4 (fun s =>
    match fn with
    | some f =>
      if 4 ≤ f then respond s 1 []
      else respond { s with pkg := { s.pkg with funcs := Bits.updAt s.pkg.funcs f fun g => { g with frozen := false } } } 0 []
    | none =>
      onDie d (fun s =>
        if ((s.die d).imports.find? imp).isNone then respond s 1 []
        else respond (s.updDie d fun x => rewriteImport x imp) 0 []) s) s

/-- DIEOFF: queues that are no longer eligible lose their LOSSES (11 R356). -/
def execEDieoff (d : Nat) (s : State) : Host.Outcome State Fault Refusal :=
  onCommand 7 (onDie d fun s => respond (dropLosses (s.updDie d fun x => { x with enabled := false }) d).1 0 []) s

/-- DIEON; a die whose HBM did not train stays disabled (log 31). -/
def execEDieon (d : Nat) (s : State) : Host.Outcome State Fault Refusal :=
  onCommand 7 (onDie d fun s =>
    if (s.die d).hbmUp then respond (s.updDie d fun x => { x with enabled := true }) 0 [] else respond s 1 []) s

/-! ### ATTEST and IDENT (R407) -/

/-- The attestation report (Table 14.4a). -/
def attestReport (s : State) (nonce : List Byte) : List Byte :=
  let digest := sha512 (nonce ++ s.pkg.digests.flatten)
  let body := digest ++ Bits.toBytes 8 Config.fusedCounter ++ nonce
  body ++ fitBytes 512 (Config.identitySign body)

/-- ATTEST: one received during bring-up step 2 is not ready. -/
def execEAttest (s : State) : Host.Outcome State Fault Refusal :=
  onCommand 5 (fun s =>
    if s.pkg.mailbox.early then respond s 2 []
    else respondResult s (attestReport s (s.pkg.mailbox.cmd.bytes 8 32))) s

/-- IDENT. -/
def execEIdent (s : State) : Host.Outcome State Fault Refusal :=
  onCommand 6 (fun s => respondResult s Config.identityChain) s

end Sys2Proof.Machine
end

