-- ==== Sys2Proof/Machine/Fabric.lean ====
section
/-! DEFINITION. The fabric and bring-up: flits of the Swiax links (14 R402, R403), links that fail and come up (10 R345),
the time base (R404), and bring-up from reset (R405, R406). -/

namespace Sys2Proof.Machine

open Sys2Proof

/-! ## Flits -/

/-- A time message: the master's TICK as the sender has it, and the distance to the master. The difference is slewed in as time
passes, in place of what is left of the correction before it; LOST clears once it is within 2 ns. The master takes none. -/
def takeTime (s : State) (master : Word64) (hops : BitVec 16) : State :=
  if s.pkg.tbMaster then s
  else
    let diff : Int := (master.toNat : Int) - (s.tick : Int)
    let near := decide (-2 ≤ diff) && decide (diff ≤ 2)
    { s with pkg := { s.pkg.endSlew with
        tbSlew := diff, tbGoal := diff, tbHops := hops, tbLast := s.tick, tbLost := s.pkg.tbLost && !near } }

/-- The collective packets of whole messages join the queue of their die (log 26). -/
def takeColl (s : State) (die : Nat) (b : List Byte) : State :=
  (Config.collMessages b).foldl (fun s m =>
    updColl s die fun c =>
      { c with queue := c.queue ++ [{ pkt := m.1, src := .watch { q := 2048, slot := 0 }, org := m.2.2.2, opkg := some m.2.2.1
                                      payload := m.2.1, read := true, arrived := true }] }) s

/-- A whole message of VC 7: an intent is counted (12 R378), a time message is taken, or answered where its sender is the farther
one from the master (R404). -/
def takeManagement (s : State) (b : List Byte) : State :=
  if Config.intentPayload b then takeIntent s (intentOf b)
  else
    match Config.timeMessage b with
    | some (_, _, true) => sendTime s
    | some (t, h, false) => takeTime s t h
    | none => s

/-- What a flit for this package that came on a link carries: the payloads of VCs 2 to 7 are gathered until they end with a whole
message, and the messages are then taken. What travels on VCs 0 and 1 happens in events of its own (log 26). -/
def takeMessage (s : State) (link : Nat) (f : Flit) : State :=
  if f.vc.toNat < 2 || 7 < f.vc.toNat then s
  else
    let b := (s.pkg.links.getD link {}).parts.get [] f.vc.toNat ++ f.payload
    if Config.messageWhole f.vc b then
      let s1 := updLink s link fun l => { l with parts := l.parts.erase f.vc.toNat }
      if f.vc = 7 then (Config.managementMessages b).foldl takeManagement s1 else takeColl s1 f.ddie.toNat b
    else updLink s link fun l => { l with parts := l.parts.insert f.vc.toNat b }

/-- What a flit acknowledges is no longer kept. -/
def Link.acked (l : Link) (ack : Byte) : Link :=
  { l with unacked := l.unacked.filter fun g => decide (128 ≤ (ack - g.flit.seq).toNat) }

/-- SWIAX_FLIT: a flit received on a link that is up. A wrong CRC or a flit out of order is not acknowledged. Its ACK
frees what it acknowledges. One for another package travels on, waits for a credit, or is returned as LINKDOWN. -/
def execESwiaxFlit (link : Nat) (f : Flit) (s : State) : Host.Outcome State Fault Refusal :=
  execEvent (fun _ s =>
    let l := s.pkg.links.getD link {}
    if !l.up || f.crc ≠ Config.crc64 (flitBytes f) then s
    else
      let s1 := updLink s link fun l => l.acked f.ack
      if f.seq ≠ l.rx + 1 then retryFlits s1
      else
        let s2 := updLink s1 link fun l => { l with rx := f.seq }
        if f.dpkg = s.pkg.pkgNo then retryFlits (takeMessage s2 link f) else queueFlit s2 f) s

/-- A Swiax link down: what it had not delivered is returned as LINKDOWN, and so are the flits that wait and have no other
link; the rest of a message that was on its way is lost. -/
def swiaxDown (s : State) (k : Nat) : State :=
  let l := s.pkg.links.getD k {}
  if !l.up then s
  else
    let s1 := updLink s k fun l => { l with up := false, unacked := [], parts := [] }
    retryFlits ((l.unacked.foldl (fun s f => returnFlit s f.flit) s1).postFw (.linkDown (.swiax k)))

/-- No acknowledgement of the flit has come within 2 µs of its last sending, at 2.1 GHz. -/
def SentFlit.late (now : Nat) (f : SentFlit) : Bool := decide (f.sent + 4200 ≤ now)

/-- FLIT_REPLAY: every flit that has not been acknowledged within 2 µs is sent again; where one has been replayed eight times, the
link is down (R402). -/
def execEFlitReplay (link : Nat) (s : State) : Host.Outcome State Fault Refusal :=
  execEvent (fun _ s =>
    let l := s.pkg.links.getD link {}
    let now := s.pkg.mclk
    let late := l.unacked.filter fun f => f.late now
    if late.isEmpty then s
    else if late.any fun f => decide (8 ≤ f.replays) then swiaxDown s link
    else
      late.foldl (fun s f => s.send (.flit link f.flit))
        (retryFlits (updLink s link fun l =>
          { l with unacked := l.unacked.map fun f => if f.late now then { f with sent := now, replays := f.replays + 1 } else f }))) s

/-- LINK_DOWN: a Swiax link has lost lock. -/
def execELinkDown (link : Nat) (s : State) : Host.Outcome State Fault Refusal :=
  execEvent (fun _ s => swiaxDown s link) s

/-! ### A die link that fails (10 R345) -/

/-- What goes from die a to die b travels over a link of the triangle. -/
def overLink (s : State) (link a b : Nat) : Bool :=
  a ≠ b && (if s.dieLinkUp a b then State.dieLink a b = link
            else State.dieLink a (3 - a - b) = link || State.dieLink (3 - a - b) b = link)

/-- An access of die d to a location crosses the link. -/
def locOver (s : State) (link d : Nat) (l : Loc) : Bool :=
  match l with
  | .peer _ _ (.mem e _) | .peer _ _ (.ctl e _) => overLink s link d e
  | _ => false

/-- Whether an access that may be on the link at its failure is there is a free value (log 6). -/
def onLink (s : State) : State × Bool :=
  let f := s.takeFree
  (f.2, f.1.getLsbD 0)

/-- Whether a unit of a load fails, as one that was crossing, or by its own service. -/
def unitCrosses (up : State) (link d c : Nat) (t : Team) (p : Party) (op : LoadOp) (s : State) (u : LUnit) :
    State × Option (Nat × Bool) :=
  if locOver up link d u.loc then
    let f := onLink s
    if f.2 then (f.1, some (Cause.LINKDOWN, false)) else unitFails d c t p op f.1 u
  else unitFails d c t p op s u

/-- A load of a group, where a unit of it was crossing. `up` is the state before the failure. -/
def crossLoad (up : State) (link d c g : Nat) (s : State) (op : LoadOp) : State :=
  match s.team? d c, s.group? d c g with
  | some t, some x =>
    (match op.left.find? fun u => locOver up link d u.loc with
     | none => s
     | some u =>
       if !x.loads.contains op then s
       else
         let f := onLink s
         if !f.2 then f.1
         else
           let r := failUnits (unitCrosses up link d c t (.group g) op) op u (Cause.LINKDOWN, false) f.1
           loadFails r.1 d c g op r.2)
  | _, _ => s

/-- A write that was crossing as its link failed was performed whole, or not at all (04 R139): which is a free value (log 6; log 45). -/
def crossPerformed (up : State) (d c : Nat) (w : Write) (s : State) : State :=
  let q := stillPerformed s
  if !q.2 then q.1
  else
    let s1 := { q.1 with pkg := { q.1.pkg with dieLinks := up.pkg.dieLinks } }
    let s2 := match w.kind with
      | .store n v => (writeAt s1 d w.loc n v w.treat).1
      | .red op n fmt x => (rmwAt s1 d w.loc op fmt n x 0 w.treat).1
      | .cu op _ fmt x => (contributeAt s1 d c w.loc op fmt x w.treat ((up.team? d c).map fun t : Team => (t.key, w.party))).1
      | _ => s1
    { s2 with pkg := { s2.pkg with dieLinks := s.pkg.dieLinks } }

/-- An access of an ATOM that no home has accepted, as one that was crossing, or asked for at its home. -/
def atomCrosses (up : State) (link d : Nat) (a : AtomCheck) (w : Write) : AtomCheck :=
  if locOver up link d w.loc then
    let f := onLink a.s
    if f.2 then { a with s := f.1, fail := a.fail.or (some (w, Cause.LINKDOWN)), mask := a.mask ||| (1 <<< w.strand : BitVec 32) }
    else atomAsk d { a with s := f.1 } w
  else atomAsk d a w

/-- A write of S, where it was crossing: an ATOM of which no access is accepted faults, with every strand that fails (01 R38),
another's party records the error (04 R139). -/
def crossWrite (up : State) (link d c : Nat) (s : State) (w : Write) : State :=
  if !locOver up link d w.loc || w.site.isSome then s
  else
    match (s.team? d c).bind fun t => t.ts.findIdx? (· = w) with
    | none => s
    | some k =>
      match w.kind, w.party with
      | .atomic _ _ _ _ _, .group g =>
        (match s.team? d c with
         | none => s
         | some t =>
           let r := ((t.ts ++ t.sq).filter (atomWrite g w.no)).foldl (atomCrosses up link d) ({ s := s } : AtomCheck)
           match r.fail with
           | some (v, k) => if r.mask.getLsbD w.strand then atomFails r.s d c g v k r.mask else { s with freeCtr := r.s.freeCtr }
           | none => { s with freeCtr := r.s.freeCtr })
      | _, _ =>
      let f := onLink s
      if !f.2 then f.1
      else
        match w.kind, w.party with
        | .atomic _ n _ _ _, .composer => amoFails (dropTs f.1 d c k) d c n w.va Cause.LINKDOWN
        | _, p => recordStoreErr (crossPerformed up d c w (dropTs f.1 d c k)) d c p Cause.LINKDOWN

/-- The composer's fetch or global load that comes next, where it was crossing: GXLATE with cause LINKDOWN (07 R210, R214). -/
def crossComposer (up : State) (link d c : Nat) (s : State) : State :=
  let fails (acc va : Nat) (a : Access) (n : Nat) (t : Team) : State :=
    let r := withEntry s d c t a n va acc fun s1 e =>
      if locOver up link d (e.loc va) then
        let f := onLink s1
        if f.2 then compCause f.1 Cause.LINKDOWN acc va else .wait { s with freeCtr := f.1.freeCtr }
      else .wait s
    match r with
    | .fault f s1 => if f.cause = Cause.LINKDOWN then takeCompFault s1 d c f else s
    | .wait s1 => { s with freeCtr := s1.freeCtr }
    | _ => s
  match s.team? d c with
  | none => s
  | some t =>
    if !compReady t then s
    else if (t.comp.icache.find? (t.comp.pc.toNat / 64)).isNone then fails fetchAccess t.comp.pc.toNat .fetch 4 t
    else
      match fetchComposer s d c t with
      | .instr (.cLd _ a z sp o) _ =>
        let va := (t.comp.reg a + o.signExtend 64).toNat
        if sp = 0 || sp = 1 || va % 2 ^ z.toNat ≠ 0 || t.lockHit false false va (2 ^ z.toNat) then s
        else fails (accessOf 0 z.toNat 0) va .load (2 ^ z.toNat) t
      | _ => s

/-- An address that an engine of die d accesses with its own translation lies over the link. -/
def vaOver (up : State) (link d : Nat) (tr : Die → Nat → Die × Except Nat TlbEntry) (va : Nat) : Bool :=
  match (tr (up.die d) va).2 with
  | .ok e => locOver up link d (e.loc va)
  | .error _ => false

/-- A copy of an engine with a piece under way that was crossing records cause 17 (R330). The piece is one of those that are left,
which a free value names (log 6). -/
def crossCopy (up : State) (link d : Nat) (e : CopyEng) (s : State) (k : CopyOp) : State :=
  let f := s.takeFree
  match k.todo[f.1.toNat % k.todo.length]? with
  | none => s
  | some p =>
    let v := copyEnv d e
    let r := k.runOf p.1
    let lo := (p.1 - r * k.rowBytes) * 8 / k.dsize
    let hi := min ((p.2 - r * k.rowBytes) * 8 / k.dsize) (k.rowLive r)
    let src := (srcGranules k r (k.rowVa r + lo * k.esize / 8) (spanBytes k.esize (hi - lo))).filter fun g => (k.srcGot.find? g.1).isNone
    if copyOver k || !((decide (lo < hi) && src.any fun g => vaOver up link d v.tr g.1) ||
        (!k.dsp && vaOver up link d v.tr (k.dst + p.1))) then s
    else
      let g := onLink f.2
      if g.2 then endCopy g.1 d e k.no Cause.LINKDOWN (k.rowVa r) else g.1

/-- A piece of the collective packet under way that was crossing ends the packet with cause 17 (R345): a granule of its payload,
or of the hop that acts. -/
def crossHop (up : State) (link d : Nat) (s : State) : State :=
  match (s.die d).coll.cur with
  | none => s
  | some p =>
    let f := s.takeFree
    match p.todo[f.1.toNat % p.todo.length]? with
    | none => s
    | some q =>
      if !(overLink up link d q.1 || vaOver up link q.1 translateColl q.2.1) then s
      else
        let g := onLink f.2
        if g.2 then endColl g.1 d p Cause.LINKDOWN (if p.read then p.done else 0xFF) else g.1

/-- What a core had on the link. -/
def crossCore (up : State) (link d : Nat) (s : State) (c : Nat) : State :=
  match s.team? d c with
  | none => s
  | some t =>
    let s1 := (List.range t.groups.length).foldl (fun s g =>
      match t.groups[g]? with | some x => x.loads.foldl (crossLoad up link d c g) s | none => s) s
    let s2 := crossComposer up link d c (t.ts.foldl (crossWrite up link d c) s1)
    t.copies.foldl (crossCopy up link d (.core c)) s2

/-- The collective packets that wait for the link are returned. -/
def crossColl (up : State) (link d : Nat) (s : State) : State :=
  updColl s d fun c => { c with queue := c.queue.map fun p =>
    if (hopsHere up d p).isEmpty && (match nextNode up d p with | some h => h.pkg = up.pkg.pkgNo.toNat && overLink up link d h.die | none => false)
    then { p with lost := true } else p }

/-- DIE_LINK_FAILURE (10 R345): a link of the triangle, or of a core die to the control die (12 R372). -/
def execEDieLinkFailure (link : Nat) (s : State) : Host.Outcome State Fault Refusal :=
  execEvent (fun _ s =>
    if s.pkg.dieLinks.getD link false then
      let s1 := { s with pkg := { s.pkg with dieLinks := s.pkg.dieLinks.set link false } }.postFw (.linkDown (.die link))
      if 3 ≤ link then s1
      else
        (List.range s.dies.length).foldl (fun s1 d =>
          crossColl s link d (crossHop s link d ((s.die d).dieCopies.foldl (crossCopy s link d .die)
            ((s.die d).teams.foldl (fun s1 e => crossCore s link d s1 e.1) s1)))) s1
    else s) s

/-- LINK_UP: a link is up; a Swiax link starts its sequence numbers again. -/
def execELinkUp (l : LinkId) (s : State) : Host.Outcome State Fault Refusal :=
  execEvent (fun _ s =>
    match l with
    | .die k => { s with pkg := { s.pkg with dieLinks := s.pkg.dieLinks.set k true } }
    | .swiax k => if s.pkg.boot < 6 then s else updLink s k fun l => if l.up then l else { up := true }) s

/-! ## The time base -/

/-- TIME_MESSAGE. -/
def execETimeMessage (master : Word64) (hops : BitVec 16) (s : State) : Host.Outcome State Fault Refusal :=
  execEvent (fun _ s => takeTime s master hops) s

/-- TIME_BASE_LOST. -/
def execETimeBaseLost (s : State) : Host.Outcome State Fault Refusal := execEvent (fun _ s => timeBaseLost s) s

/-! ## Bring-up (Table 14.4) -/

/-- The header's 512 bytes. -/
def imageHeader (i : Image) : List Byte := fitBytes 512 i.header

/-- A field of the header: 1 version, 2 anti-rollback counter, 3 length, 4 load address. Only their order is given, and how Myhagen
uses the version, the length and the address is not (log 45). -/
def imageField (i : Image) (k : Nat) : Nat :=
  Bits.ofBytes (((imageHeader i).drop (Config.headerField k).1).take (Config.headerField k).2)

/-- The magic number, the header's first four bytes. -/
def imageMagic (i : Image) : Nat := Bits.ofBytes ((imageHeader i).take 4)

/-- The digest of header and body, which the signature is over. -/
def imageDigest (i : Image) : List Byte := sha512 (imageHeader i ++ i.body)

/-- An image is accepted (R406). -/
def imageGood (i : Image) : Bool :=
  imageMagic i = 0x4F5A_4D48 && sha512 i.key = Config.fusedKeyDigest && pssVerify i.key (imageDigest i) i.signature &&
  decide (Config.fusedCounter ≤ imageField i 2)

/-- Every die changed, with its number. -/
def mapDies (s : State) (f : Nat → Die → Die) : State := { s with dies := s.dies.zipIdx.map fun e => f e.2 e.1 }

/-- The bring-up step after the `boot` steps that have completed. `answers` and `trained` say which dies answer their
release and train their HBM; in step 1, bit 0 of `answers` says whether the management core starts and the port
trains (log 35). The first interval and the first bell come at the next boundary of TICK (12 R371, R372). -/
def bringUp (images : List Image) (answers trained : BitVec 3) (s : State) : State :=
  let done (s : State) : State := { s with pkg := { s.pkg with boot := s.pkg.boot + 1 } }
  match s.pkg.boot with
  | 0 =>
    let s1 := { s with pkg := { s.pkg with mailbox := { s.pkg.mailbox with idle := true } } }
    if answers.getLsbD 0 then done s1 else { s1 with pkg := { s1.pkg with bootHalted := true } }
  | 1 =>
    let good := images.takeWhile imageGood
    let s1 := { s with pkg := { s.pkg with digests := s.pkg.digests ++ good.map imageDigest } }
    if images.all imageGood then done s1 else { s1 with pkg := { s1.pkg with bootHalted := true } }
  | 2 => done (mapDies s fun d x => { x with released := x.present && answers.getLsbD d })
  | 3 => done (mapDies s fun _ x => if x.released then { x with hmap := x.fuseHmap, l2pt := x.fuseL2pt } else x)
  | 4 => done (mapDies s fun d x => { x with hbmUp := x.released && trained.getLsbD d })
  | 5 =>
    done { (mapDies s fun _ x => { (if x.hbmUp then { x with enabled := true, queuesOpen := true, ptroot := x.ptroot ||| 1 } else x) with
        power := { x.power with interval := (s.tick + 999) / 1000 } }) with
      pkg := { s.pkg with tbLast := s.tick, lastBell := (s.tick + 99999) / 100000 } }
  | _ => s

/-- PACKAGE_RESET: the next bring-up step; once bring-up is over or has halted, a new reset of the package, which keeps
what lies outside it, its dies and their fuses. -/
def execEPackageReset (images : List Image) (answers trained : BitVec 3) (s : State) : Host.Outcome State Fault Refusal :=
  execEvent (fun _ s =>
    if s.pkg.boot < 6 && !s.pkg.bootHalted then bringUp images answers trained s
    else
      { State.reset with
        agenda := s.agenda, cur := s.cur, freeCtr := s.freeCtr, turnNo := s.turnNo, pick := s.pick, outbox := s.outbox
        pkg := { Pkg.reset with hostMem := s.pkg.hostMem }
        dies := s.dies.map fun x => { Die.reset with present := x.present, fuseHmap := x.fuseHmap, fuseL2pt := x.fuseL2pt } }) s

end Sys2Proof.Machine
end

