-- ==== Sys2Proof/Machine/LaneControl.lean ====
section
/-! DEFINITION. Lane control instructions: branches, splits, calls, the structured instructions, EXIT, YIELD and NOP
(09 R294 to R301; 05 R161 to R166). -/

namespace Sys2Proof.Machine

open Sys2Proof

namespace LaneCtx

/-- The block that the slot executes, its index and its header. -/
def block (ctx : LaneCtx) : Nat := (ctx.x.slot ctx.sl).block
def frame (ctx : LaneCtx) : Frame := ctx.t.frameOf ctx.x

/-- The slot, in the group `y`, continues at block `b`: BADTARGET for a block that the frame lacks (06 R194). -/
def goTo (ctx : LaneCtx) (s : State) (y : Group) (b : Nat) : LRes :=
  if ctx.frame.blocks ≤ b then .fault { code := Code.BADTARGET } s
  else .moved (s.updGroup ctx.d ctx.c ctx.g fun _ => y.updSlot ctx.sl fun p => p.enter b)

/-- The strand condition: (COND operand ≠ 0) xor NEG. -/
def cond (ctx : LaneCtx) (o : COps) (st : Nat) : Bool :=
  (ctx.x.operand st o.cond.toNat != 0) != (o.neg == 1)

/-- The active strands whose condition holds. -/
def taken (ctx : LaneCtx) (o : COps) : BitVec 32 :=
  ctx.strands.foldl (fun m st => if ctx.cond o st then m ||| (1 <<< st : BitVec 32) else m) 0

end LaneCtx

/-! ## Branches -/

/-- BRA, and BRX with a uniform condition (R295, R296): the whole slot moves or falls through. -/
def branchWhole (o : COps) (ctx : LaneCtx) (s : State) : LRes :=
  if ctx.cond o 0 then ctx.goTo s ctx.x o.t1.toNat else .done s

def execLBra (o : COps) (s : State) : Host.Outcome State Fault Refusal := execLane {} 9 (branchWhole o) s

/-- Entries of a group's spill stack (05 R146). -/
def Team.spillMax (t : Team) : Nat := t.divstack / 16

/-- A split at a vector BRX (05 R163 to R165): `m` is the reconvergence field of the block that holds it. -/
def split (o : COps) (ctx : LaneCtx) (s : State) (m : Nat) : LRes :=
  let p := ctx.x.slot ctx.sl
  let q := ctx.x.slot (1 - ctx.sl)
  let tk := ctx.taken o
  let b := o.t1.toNat
  if m ≤ p.block || decide (p.mark ≤ m) || decide (ctx.frame.blocks ≤ m) || decide (ctx.frame.blocks ≤ b) then
    .fault { code := Code.BADTARGET } s
  else
    let y := ctx.x.updSlot ctx.sl fun p => { p with mask := p.mask &&& ~~~tk, mark := m }
    if q.st = .empty then
      .done (s.updGroup ctx.d ctx.c ctx.g fun _ =>
        y.updSlot (1 - ctx.sl) fun _ => { mask := tk, mark := m : PcSlot }.enter b)
    else if ctx.t.spillMax ≤ ctx.x.spill.length then .fault { code := Code.SPILL } s
    else
      .done (s.updGroup ctx.d ctx.c ctx.g fun _ => { y with spill := { mark := m, block := b, mask := tk } :: y.spill })

/-- BRX (R296). -/
def execLBrx (o : COps) (s : State) : Host.Outcome State Fault Refusal :=
  execLane {} 9 (fun ctx s =>
    if 192 ≤ o.cond.toNat then branchWhole o ctx s
    else if ctx.taken o = 0 then .done s
    else if ctx.taken o = (ctx.x.slot ctx.sl).mask then ctx.goTo s ctx.x o.t1.toNat
    else split o ctx s (reconOf (ctx.t.header ctx.x ctx.block))) s

/-- CALL (R297). -/
def execLCall (o : COps) (s : State) : Host.Outcome State Fault Refusal :=
  execLane {} 9 (fun ctx s => ctx.goTo s (ctx.x.setW (o.link.toNat - 192) (o.t2.zeroExtend 32)) o.t1.toNat) s

/-- RET (R297). -/
def execLRet (o : COps) (s : State) : Host.Outcome State Fault Refusal :=
  execLane {} 9 (fun ctx s =>
    let w := (ctx.x.operand 0 o.link.toNat).toNat
    if Bits.field w 12 20 ≠ 0 then .fault { code := Code.BADTARGET } s else ctx.goTo s ctx.x w) s

/-! ## Structured instructions (05 Table 5.4) -/

/-- The counters of the slot's strands after `f`, or none where one would pass 255. -/
def stepNest (ctx : LaneCtx) (f : Nat → Nat → Nat) : Option Group :=
  let mine := (List.range 32).filter fun st => (ctx.x.slot ctx.sl).mask.getLsbD st
  if mine.any (fun st => decide (255 < f st (ctx.x.nestOf st).toNat)) then none
  else
    some { ctx.x with nest := mine.foldl (fun m st => m.set 0 st (BitVec.ofNat 8 (f st (ctx.x.nestOf st).toNat))) ctx.x.nest }

/-- The instruction's counters, then the next word; NEST where one overflows (R161). -/
def nestOnly (ctx : LaneCtx) (s : State) (f : Nat → Nat → Nat) : LRes :=
  match stepNest ctx f with
  | none => .fault { code := Code.NEST } s
  | some y => .done (s.updGroup ctx.d ctx.c ctx.g fun _ => y)

/-- The same, continuing at the skip target where no strand of the slot is left active (R162). -/
def nestSkip (ctx : LaneCtx) (s : State) (t1 : Nat) (f : Nat → Nat → Nat) : LRes :=
  match stepNest ctx f with
  | none => .fault { code := Code.NEST } s
  | some y =>
    if y.active ctx.sl = 0 then ctx.goTo s y t1 else .done (s.updGroup ctx.d ctx.c ctx.g fun _ => y)

/-- Structured instructions act whether or not a strand is active (R294). -/
def structured : LaneKind := { structural := true }

def execLIf (o : COps) (s : State) : Host.Outcome State Fault Refusal :=
  execLane structured 9 (fun ctx s =>
    nestSkip ctx s o.t1.toNat fun st n => if n = 0 then (if ctx.cond o st then 0 else 1) else n + 1) s

def execLElse (o : COps) (s : State) : Host.Outcome State Fault Refusal :=
  execLane structured 9 (fun ctx s =>
    nestSkip ctx s o.t1.toNat fun _ n => if n = 0 then 1 else if n = 1 then 0 else n) s

def execLEndif (_o : COps) (s : State) : Host.Outcome State Fault Refusal :=
  execLane structured 9 (fun ctx s => nestOnly ctx s fun _ n => n - 1) s

def execLLoop (_o : COps) (s : State) : Host.Outcome State Fault Refusal :=
  execLane structured 9 (fun ctx s => nestOnly ctx s fun _ n => if n = 0 then 0 else n + 2) s

def execLBreak (o : COps) (s : State) : Host.Outcome State Fault Refusal :=
  execLane structured 9 (fun ctx s =>
    nestOnly ctx s fun st n => if n = 0 && ctx.cond o st then o.k.toNat + 2 else n) s

def execLCont (o : COps) (s : State) : Host.Outcome State Fault Refusal :=
  execLane structured 9 (fun ctx s =>
    nestOnly ctx s fun st n => if n = 0 && ctx.cond o st then o.k.toNat + 1 else n) s

/-- ENDL: continued strands rejoin; with an active strand the loop runs again, else it is finished (R161). -/
def execLEndl (o : COps) (s : State) : Host.Outcome State Fault Refusal :=
  execLane structured 9 (fun ctx s =>
    let mine := (List.range 32).filter fun st => (ctx.x.slot ctx.sl).mask.getLsbD st
    if mine.any (fun st => decide ((ctx.x.nestOf st).toNat ≤ 1)) then
      match stepNest ctx fun _ n => if n = 1 then 0 else n with
      | none => .fault { code := Code.NEST } s
      | some y => ctx.goTo s y o.t1.toNat
    else nestOnly ctx s fun _ n => n - 2) s

/-! ## EXIT, YIELD, NOP -/

/-- EXIT (R300): the active strands leave the slot's mask, once what they have loaded is in its registers; a slot without
strands becomes empty. -/
def execLExit (_o : COps) (s : State) : Host.Outcome State Fault Refusal :=
  execLane {} 9 (fun ctx s =>
    let left := (ctx.x.slot ctx.sl).mask &&& ~~~ctx.act
    if ctx.x.loads.any (fun o => o.mask &&& ctx.act ≠ 0) || ctx.x.atom.any (fun a => a.mask &&& ctx.act ≠ 0) then .wait s
    else if left = 0 then .moved (s.updGroup ctx.d ctx.c ctx.g fun x => x.updSlot ctx.sl fun _ => {})
    else .done (s.updGroup ctx.d ctx.c ctx.g fun x => x.updSlot ctx.sl fun p => { p with mask := left })) s

/-- YIELD (R301): it has no effect but on its slot's rank at the next pass boundary (`rankAfter`). -/
def execLYield (_o : COps) (s : State) : Host.Outcome State Fault Refusal := execLane {} 9 (fun _ s => .done s) s

def execLNop (_o : COps) (s : State) : Host.Outcome State Fault Refusal := execLane {} 9 (fun _ s => .done s) s

end Sys2Proof.Machine
end

