-- ==== Sys2Proof/Machine/Special.lean ====
section
/-! DEFINITION. Special-function instructions (08 R254, Table 8.4): each result is the exact value of the function
rounded once. Values are computed in fixed point with 512 fraction bits, far beyond the distance from a rounding
boundary; a value that is not exact carries a further one bit below its last, so that one rounding decides it. -/

namespace Sys2Proof.Fl.Special

open Sys2Proof

/-- 1 in fixed point. -/
def one : Int := 2 ^ 512
def mulF (a b : Int) : Int := a * b / 2 ^ 512

/-- π with 640 fraction bits, rounded down. -/
def pi640 : Nat :=
  0x3243F6A8885A308D313198A2E03707344A4093822299F31D0082EFA98EC4E6C89452821E638D01377BE5466CF34E90C6CC0AC29B7C97C50DD3F84D5B5B54709179216D5D98979FB1BD1310BA698DFB5AC
/-- ln 2 with 640 fraction bits, rounded down. -/
def ln2of640 : Nat :=
  0xB17217F7D1CF79ABC9E3B39803F2F6AF40F343267298B62D8A0D175B8BAAFA2BE7B876206DEBAC98559552FB4AFA1B10ED2EAE35C138214427573B291169B8253E96CA16224AE8C51ACBDA11317C387E
def ln2 : Int := (ln2of640 / 2 ^ 128 : Nat)

/-! ## Series -/

/-- e^r as 1 + r/k (1 + r/(k + 1) (...)). -/
def expSer : Nat → Nat → Int → Int
  | 0, _, _ => one
  | n + 1, k, r => one + mulF r (expSer n (k + 1) r) / k

/-- 1 − r2/(k (k + 1)) (1 − ...): sin r / r from k = 2, cos r from k = 1, with r2 the square of r. -/
def trigSer : Nat → Nat → Int → Int
  | 0, _, _ => one
  | n + 1, k, r2 => one - mulF r2 (trigSer n (k + 2) r2) / (k * (k + 1))

/-- 1/k + z2/(k + 2) + ...: artanh z / z from k = 1, with z2 the square of z. -/
def atanhSer : Nat → Nat → Int → Int
  | 0, k, _ => one / k
  | n + 1, k, z2 => one / k + mulF z2 (atanhSer n (k + 2) z2)

def sinF (r : Int) : Int := mulF r (trigSer 64 2 (mulF r r))
def cosF (r : Int) : Int := trigSer 64 1 (mulF r r)

/-- e^y for y in fixed point, as E × 2^n. -/
def expF (y : Int) : Int × Int :=
  let n := y / ln2
  (expSer 110 1 (y - n * ln2), n)

/-- e^y for y at or below 0, in fixed point. -/
def expNeg (y : Int) : Int :=
  let r := expF y
  if r.2 < 0 then r.1 / 2 ^ (-r.2).toNat else r.1

/-- A finite value in fixed point. -/
def fix (m : Nat) (e : Int) : Int := if 0 ≤ e + 512 then m * 2 ^ (e + 512).toNat else m / 2 ^ (-(e + 512)).toNat

/-- A fixed-point number that is not the exact value, times 2^n. -/
def inexact (v : Int) (n : Int) : FVal := .fin (v < 0) (2 * v.natAbs + 1) (n - 513)

/-- Integer square root below 2^n. -/
def isqrt : Nat → Nat → Nat → Nat
  | 0, r, _ => r
  | n + 1, r, x => if (r + 2 ^ n) * (r + 2 ^ n) ≤ x then isqrt n (r + 2 ^ n) x else isqrt n r x

/-- An exponent made even. -/
def even (m : Nat) (e : Int) : Nat × Int := if e % 2 = 0 then (m, e) else (2 * m, e - 1)

/-! ## The functions on finite values that Table 8.4 does not list -/

def rcp (neg : Bool) (m : Nat) (e : Int) : FVal :=
  let q := 2 ^ 200 / m
  if 2 ^ 200 % m = 0 then .fin neg q (-200 - e) else .fin neg (2 * q + 1) (-201 - e)

def rsq (m : Nat) (e : Int) : FVal :=
  let x := even m e
  let q := isqrt 256 0 (2 ^ 400 / x.1)
  if q * q * x.1 = 2 ^ 400 then .fin false q (-200 - x.2 / 2) else .fin false (2 * q + 1) (-201 - x.2 / 2)

def sqrt (m : Nat) (e : Int) : FVal :=
  let x := even m e
  let q := isqrt 256 0 (x.1 * 2 ^ 200)
  if q * q = x.1 * 2 ^ 200 then .fin false q (x.2 / 2 - 100) else .fin false (2 * q + 1) (x.2 / 2 - 101)

/-- 2^x; a power beyond ± 400 rounds to infinity or to zero as 2^(± 400) does. -/
def exp2 (neg : Bool) (m : Nat) (e : Int) : FVal :=
  if 20 ≤ (Nat.log2 m : Int) + e then .fin false 1 (if neg then -400 else 400)
  else
    let x := fix m e
    let y := if neg then -x else x
    let n := y / one
    if n < -400 then .fin false 1 (-400)
    else if 400 < n then .fin false 1 400
    else if y = n * one then .fin false 1 n
    else inexact (expSer 110 1 (mulF (y - n * one) ln2)) n

/-- log2 of m × 2^e. -/
def log2 (m : Nat) (e : Int) : FVal :=
  let l := Nat.log2 m
  if m = 2 ^ l then .fin (l + e < 0) (l + e).natAbs 0
  else
    let l' := if 3 * 2 ^ l ≤ 2 * m then l + 1 else l
    let d : Int := 2 ^ l'
    let z := ((m : Int) - d) * 2 ^ 512 / (m + d)
    let ln := 2 * mulF z (atanhSer 180 1 (mulF z z))
    inexact ((l' + e) * one + ln * 2 ^ 512 / ln2) 0

/-- The remainder of x by π/2 and the quadrant, by the multiple of π/2 nearest to x. -/
def quadrant (m : Nat) (e : Int) : Int × Int :=
  let x := fix m e * 2 ^ 128
  let hp : Int := (pi640 / 2 : Nat)
  let k := (2 * x + hp) / (2 * hp)
  ((x - k * hp) / 2 ^ 128, k)

/-- The sine of quadrant k and remainder r. -/
def sinOf (r k : Int) : Int :=
  if k % 4 = 0 then sinF r else if k % 4 = 1 then cosF r else if k % 4 = 2 then -sinF r else -cosF r

def sin (neg : Bool) (m : Nat) (e : Int) : FVal :=
  let q := quadrant m e
  inexact (if neg then -sinOf q.1 q.2 else sinOf q.1 q.2) 0

def cos (m : Nat) (e : Int) : FVal :=
  let q := quadrant m e
  inexact (sinOf q.1 (q.2 + 1)) 0

/-- Whether a magnitude is at least 2^n. -/
def atLeast (n : Int) (m : Nat) (e : Int) : Bool := n ≤ (Nat.log2 m : Int) + e

def tanh (neg : Bool) (m : Nat) (e : Int) : FVal :=
  if atLeast 5 m e then .fin neg 1 0
  else
    let t := expNeg (-2 * fix m e)
    let v := (one - t) * 2 ^ 512 / (one + t)
    inexact (if neg then -v else v) 0

def sigm (neg : Bool) (m : Nat) (e : Int) : FVal :=
  if atLeast 8 m e then (if neg then .fin false 1 (-400) else .fin false 1 0)
  else
    let t := expNeg (-fix m e)
    inexact ((if neg then t else one) * 2 ^ 512 / (one + t)) 0

/-! ## Special inputs (Table 8.4) -/

inductive Op where
  | rcp | rsq | sqrt | exp2 | log2 | sin | cos | tanh | sigm
  deriving DecidableEq, Repr

/-- The value of the function with the flags that its special inputs raise. -/
def value : Op → FVal → FVal × Flags
  | _, .nan => (.nan, 0)
  | .rcp, .inf a => (.fin a 0 0, 0)
  | .rcp, .fin a m e => if m = 0 then (.inf a, DZ) else (rcp a m e, 0)
  | .rsq, .inf a => if a then (.nan, NV) else (.fin false 0 0, 0)
  | .rsq, .fin a m e => if m = 0 then (.inf a, DZ) else if a then (.nan, NV) else (rsq m e, 0)
  | .sqrt, .inf a => if a then (.nan, NV) else (.inf false, 0)
  | .sqrt, .fin a m e => if m = 0 then (.fin a 0 0, 0) else if a then (.nan, NV) else (sqrt m e, 0)
  | .exp2, .inf a => (if a then .fin false 0 0 else .inf false, 0)
  | .exp2, .fin a m e => if m = 0 then (.fin false 1 0, 0) else (exp2 a m e, 0)
  | .log2, .inf a => if a then (.nan, NV) else (.inf false, 0)
  | .log2, .fin a m e => if m = 0 then (.inf true, DZ) else if a then (.nan, NV) else (log2 m e, 0)
  | .sin, .inf _ => (.nan, NV)
  | .sin, .fin a m e => if m = 0 then (.fin a 0 0, 0) else (sin a m e, 0)
  | .cos, .inf _ => (.nan, NV)
  | .cos, .fin _ m e => if m = 0 then (.fin false 1 0, 0) else (cos m e, 0)
  | .tanh, .inf a => (.fin a 1 0, 0)
  | .tanh, .fin a m e => if m = 0 then (.fin a 0 0, 0) else (tanh a m e, 0)
  | .sigm, .inf a => (if a then .fin false 0 0 else .fin false 1 0, 0)
  | .sigm, .fin a m e => if m = 0 then (.fin false 1 (-1), 0) else (sigm a m e, 0)

/-- The result on one element: the F32 result in the mode, and for a 16-bit format that result rounded to nearest even.
FSQRT raises the IEEE flags, the others overflow alone beside those of their special inputs. -/
def result (op : Op) (f : FF) (mode : RMode) (fz : Bool) (x : Nat) : FRes :=
  let v := value op (decodeFz f fz x)
  let a := pack f32 mode false fz v.1
  let b := if f = f32 then a else
    let b := pack f .rn false fz (decode f32 a.w)
    { b with fl := a.fl ||| b.fl }
  { b with fl := v.2 ||| (if op = .sqrt then b.fl else b.fl &&& OF) }

end Sys2Proof.Fl.Special

namespace Sys2Proof.Machine

open Sys2Proof Fl

/-- A special-function instruction, charged entry 10 to the special-function permit. -/
def execSpecial (op : Fl.Special.Op) (o : VOps) (s : State) : Host.Outcome State Fault Refusal :=
  execLane { cls := .sfu } 10 (fltEffect o fun a _ _ => Fl.Special.result op (fltFmt o) (modeOf o) (Checks.fz o) a) s

def execLFrcp (o : VOps) (s : State) := execSpecial .rcp o s
def execLFrsq (o : VOps) (s : State) := execSpecial .rsq o s
def execLFsqrt (o : VOps) (s : State) := execSpecial .sqrt o s
def execLFexp2 (o : VOps) (s : State) := execSpecial .exp2 o s
def execLFlog2 (o : VOps) (s : State) := execSpecial .log2 o s
def execLFsin (o : VOps) (s : State) := execSpecial .sin o s
def execLFcos (o : VOps) (s : State) := execSpecial .cos o s
def execLFtanh (o : VOps) (s : State) := execSpecial .tanh o s
def execLFsigm (o : VOps) (s : State) := execSpecial .sigm o s

end Sys2Proof.Machine
end

