-- ==== Sys2Proof/Machine/Dispatch.lean ====
section
/-! DEFINITION. The dispatch of an instruction or event to its meaning. -/

namespace Sys2Proof.Machine

open Sys2Proof

def exec (i : Instr) (s : State) : Host.Outcome State Fault Refusal :=
  match i with
  | .cAdd d a b => Sys2Proof.Machine.execCAdd d a b s
  | .cSub d a b => Sys2Proof.Machine.execCSub d a b s
  | .cMul d a b => Sys2Proof.Machine.execCMul d a b s
  | .cMulh d a b => Sys2Proof.Machine.execCMulh d a b s
  | .cDivu d a b => Sys2Proof.Machine.execCDivu d a b s
  | .cRemu d a b => Sys2Proof.Machine.execCRemu d a b s
  | .cAnd d a b => Sys2Proof.Machine.execCAnd d a b s
  | .cOr d a b => Sys2Proof.Machine.execCOr d a b s
  | .cXor d a b => Sys2Proof.Machine.execCXor d a b s
  | .cShl d a b => Sys2Proof.Machine.execCShl d a b s
  | .cShr d a b => Sys2Proof.Machine.execCShr d a b s
  | .cSra d a b => Sys2Proof.Machine.execCSra d a b s
  | .cSlt d a b => Sys2Proof.Machine.execCSlt d a b s
  | .cSltu d a b => Sys2Proof.Machine.execCSltu d a b s
  | .cMin d a b => Sys2Proof.Machine.execCMin d a b s
  | .cMax d a b => Sys2Proof.Machine.execCMax d a b s
  | .cAddi d a i1 => Sys2Proof.Machine.execCAddi d a i1 s
  | .cAndi d a i1 => Sys2Proof.Machine.execCAndi d a i1 s
  | .cOri d a i1 => Sys2Proof.Machine.execCOri d a i1 s
  | .cXori d a i1 => Sys2Proof.Machine.execCXori d a i1 s
  | .cShli d a n => Sys2Proof.Machine.execCShli d a n s
  | .cShri d a n => Sys2Proof.Machine.execCShri d a n s
  | .cSrai d a n => Sys2Proof.Machine.execCSrai d a n s
  | .cSlti d a i1 => Sys2Proof.Machine.execCSlti d a i1 s
  | .cLui d i1 => Sys2Proof.Machine.execCLui d i1 s
  | .cInsf d a l p => Sys2Proof.Machine.execCInsf d a l p s
  | .cExtf d a l p => Sys2Proof.Machine.execCExtf d a l p s
  | .cLd d a z s1 o => Sys2Proof.Machine.execCLd d a z s1 o s
  | .cSt d a z s1 o => Sys2Proof.Machine.execCSt d a z s1 o s
  | .cAmo d a b o s1 z r c => Sys2Proof.Machine.execCAmo d a b o s1 z r c s
  | .cFence k c => Sys2Proof.Machine.execCFence k c s
  | .cBeq a b o => Sys2Proof.Machine.execCBeq a b o s
  | .cBne a b o => Sys2Proof.Machine.execCBne a b o s
  | .cBlt a b o => Sys2Proof.Machine.execCBlt a b o s
  | .cBge a b o => Sys2Proof.Machine.execCBge a b o s
  | .cBltu a b o => Sys2Proof.Machine.execCBltu a b o s
  | .cBgeu a b o => Sys2Proof.Machine.execCBgeu a b o s
  | .cJal d o => Sys2Proof.Machine.execCJal d o s
  | .cJalr d a i1 => Sys2Proof.Machine.execCJalr d a i1 s
  | .cEvwait d => Sys2Proof.Machine.execCEvwait d s
  | .cEret => Sys2Proof.Machine.execCEret s
  | .cBrkc i1 => Sys2Proof.Machine.execCBrkc i1 s
  | .cDone => Sys2Proof.Machine.execCDone s
  | .cEmit a => Sys2Proof.Machine.execCEmit a s
  | .cEmitt a b c => Sys2Proof.Machine.execCEmitt a b c s
  | .cEmitb a b => Sys2Proof.Machine.execCEmitb a b s
  | .cEmitr a b c => Sys2Proof.Machine.execCEmitr a b c s
  | .cEmith a => Sys2Proof.Machine.execCEmith a s
  | .cSeal d => Sys2Proof.Machine.execCSeal d s
  | .cRun a b => Sys2Proof.Machine.execCRun a b s
  | .cWaitf a b => Sys2Proof.Machine.execCWaitf a b s
  | .cFree a => Sys2Proof.Machine.execCFree a s
  | .cGctlStop a => Sys2Proof.Machine.execCGctlStop a s
  | .cGctlResume a => Sys2Proof.Machine.execCGctlResume a s
  | .cGctlStep a => Sys2Proof.Machine.execCGctlStep a s
  | .cGctlKill a => Sys2Proof.Machine.execCGctlKill a s
  | .cWfetch d => Sys2Proof.Machine.execCWfetch d s
  | .cMkshp d a => Sys2Proof.Machine.execCMkshp d a s
  | .cLtrig => Sys2Proof.Machine.execCLtrig s
  | .cDepwait => Sys2Proof.Machine.execCDepwait s
  | .cMfs d s1 => Sys2Proof.Machine.execCMfs d s1 s
  | .cMts a s1 => Sys2Proof.Machine.execCMts a s1 s
  | .lIadd o => Sys2Proof.Machine.execLIadd o s
  | .lIsub o => Sys2Proof.Machine.execLIsub o s
  | .lImul o => Sys2Proof.Machine.execLImul o s
  | .lImulh o => Sys2Proof.Machine.execLImulh o s
  | .lImad o => Sys2Proof.Machine.execLImad o s
  | .lImin o => Sys2Proof.Machine.execLImin o s
  | .lImax o => Sys2Proof.Machine.execLImax o s
  | .lIabs o => Sys2Proof.Machine.execLIabs o s
  | .lIdot4 o => Sys2Proof.Machine.execLIdot4 o s
  | .lAnd o => Sys2Proof.Machine.execLAnd o s
  | .lOr o => Sys2Proof.Machine.execLOr o s
  | .lXor o => Sys2Proof.Machine.execLXor o s
  | .lAndn o => Sys2Proof.Machine.execLAndn o s
  | .lNot o => Sys2Proof.Machine.execLNot o s
  | .lShl o => Sys2Proof.Machine.execLShl o s
  | .lShr o => Sys2Proof.Machine.execLShr o s
  | .lSha o => Sys2Proof.Machine.execLSha o s
  | .lRotl o => Sys2Proof.Machine.execLRotl o s
  | .lPopc o => Sys2Proof.Machine.execLPopc o s
  | .lClz o => Sys2Proof.Machine.execLClz o s
  | .lBrev o => Sys2Proof.Machine.execLBrev o s
  | .lBfe o => Sys2Proof.Machine.execLBfe o s
  | .lBfi o => Sys2Proof.Machine.execLBfi o s
  | .lIcmp o => Sys2Proof.Machine.execLIcmp o s
  | .lSel o => Sys2Proof.Machine.execLSel o s
  | .lWform op o => Sys2Proof.Machine.execLWform op o s
  | .lFadd o => Sys2Proof.Machine.execLFadd o s
  | .lFsub o => Sys2Proof.Machine.execLFsub o s
  | .lFmul o => Sys2Proof.Machine.execLFmul o s
  | .lFfma o => Sys2Proof.Machine.execLFfma o s
  | .lFmin o => Sys2Proof.Machine.execLFmin o s
  | .lFmax o => Sys2Proof.Machine.execLFmax o s
  | .lFcmp o => Sys2Proof.Machine.execLFcmp o s
  | .lFclass o => Sys2Proof.Machine.execLFclass o s
  | .lFscale o => Sys2Proof.Machine.execLFscale o s
  | .lFrnd o => Sys2Proof.Machine.execLFrnd o s
  | .lFrcp o => Sys2Proof.Machine.execLFrcp o s
  | .lFrsq o => Sys2Proof.Machine.execLFrsq o s
  | .lFsqrt o => Sys2Proof.Machine.execLFsqrt o s
  | .lFexp2 o => Sys2Proof.Machine.execLFexp2 o s
  | .lFlog2 o => Sys2Proof.Machine.execLFlog2 o s
  | .lFsin o => Sys2Proof.Machine.execLFsin o s
  | .lFcos o => Sys2Proof.Machine.execLFcos o s
  | .lFtanh o => Sys2Proof.Machine.execLFtanh o s
  | .lFsigm o => Sys2Proof.Machine.execLFsigm o s
  | .lCvt o => Sys2Proof.Machine.execLCvt o s
  | .lCvtn o => Sys2Proof.Machine.execLCvtn o s
  | .lCvtw o => Sys2Proof.Machine.execLCvtw o s
  | .lDq o => Sys2Proof.Machine.execLDq o s
  | .lQz o => Sys2Proof.Machine.execLQz o s
  | .lEfclr o => Sys2Proof.Machine.execLEfclr o s
  | .lEfmov o => Sys2Proof.Machine.execLEfmov o s
  | .lMov o => Sys2Proof.Machine.execLMov o s
  | .lMovi o => Sys2Proof.Machine.execLMovi o s
  | .lWmov o => Sys2Proof.Machine.execLWmov o s
  | .lPrmt o => Sys2Proof.Machine.execLPrmt o s
  | .lShfl o => Sys2Proof.Machine.execLShfl o s
  | .lVote o => Sys2Proof.Machine.execLVote o s
  | .lGred o => Sys2Proof.Machine.execLGred o s
  | .lXset o => Sys2Proof.Machine.execLXset o s
  | .lXadd o => Sys2Proof.Machine.execLXadd o s
  | .lXld o => Sys2Proof.Machine.execLXld o s
  | .lXst o => Sys2Proof.Machine.execLXst o s
  | .lLd n o => Sys2Proof.Machine.execLLd n o s
  | .lSt n o => Sys2Proof.Machine.execLSt n o s
  | .lLds n o => Sys2Proof.Machine.execLLds n o s
  | .lSts n o => Sys2Proof.Machine.execLSts n o s
  | .lFeopSetf o => Sys2Proof.Machine.execLFeopSetf o s
  | .lFeopSete o => Sys2Proof.Machine.execLFeopSete o s
  | .lFeopRdf o => Sys2Proof.Machine.execLFeopRdf o s
  | .lAtom o => Sys2Proof.Machine.execLAtom o s
  | .lRed o => Sys2Proof.Machine.execLRed o s
  | .lRedCu o => Sys2Proof.Machine.execLRedCu o s
  | .lPref o => Sys2Proof.Machine.execLPref o s
  | .lFence o => Sys2Proof.Machine.execLFence o s
  | .lSync o => Sys2Proof.Machine.execLSync o s
  | .lRvinit o => Sys2Proof.Machine.execLRvinit o s
  | .lArrive o => Sys2Proof.Machine.execLArrive o s
  | .lWait o => Sys2Proof.Machine.execLWait o s
  | .lRarrive o => Sys2Proof.Machine.execLRarrive o s
  | .lSpana o => Sys2Proof.Machine.execLSpana o s
  | .lSpanw o => Sys2Proof.Machine.execLSpanw o s
  | .lBra o => Sys2Proof.Machine.execLBra o s
  | .lBrx o => Sys2Proof.Machine.execLBrx o s
  | .lCall o => Sys2Proof.Machine.execLCall o s
  | .lRet o => Sys2Proof.Machine.execLRet o s
  | .lIf o => Sys2Proof.Machine.execLIf o s
  | .lElse o => Sys2Proof.Machine.execLElse o s
  | .lEndif o => Sys2Proof.Machine.execLEndif o s
  | .lLoop o => Sys2Proof.Machine.execLLoop o s
  | .lBreak o => Sys2Proof.Machine.execLBreak o s
  | .lCont o => Sys2Proof.Machine.execLCont o s
  | .lEndl o => Sys2Proof.Machine.execLEndl o s
  | .lExit o => Sys2Proof.Machine.execLExit o s
  | .lYield o => Sys2Proof.Machine.execLYield o s
  | .lNop o => Sys2Proof.Machine.execLNop o s
  | .lTfence o => Sys2Proof.Machine.execLTfence o s
  | .lTrap o => Sys2Proof.Machine.execLTrap o s
  | .lBrk o => Sys2Proof.Machine.execLBrk o s
  | .lRds o => Sys2Proof.Machine.execLRds o s
  | .lWrs o => Sys2Proof.Machine.execLWrs o s
  | .lMma o => Sys2Proof.Machine.execLMma o s
  | .lMloop o => Sys2Proof.Machine.execLMloop o s
  | .lMbatch o => Sys2Proof.Machine.execLMbatch o s
  | .lMwait o => Sys2Proof.Machine.execLMwait o s
  | .lAclr o => Sys2Proof.Machine.execLAclr o s
  | .lAld o => Sys2Proof.Machine.execLAld o s
  | .lAst o => Sys2Proof.Machine.execLAst o s
  | .lScfeed o => Sys2Proof.Machine.execLScfeed o s
  | .lCpy o => Sys2Proof.Machine.execLCpy o s
  | .lCwait o => Sys2Proof.Machine.execLCwait o s
  | .lColl o => Sys2Proof.Machine.execLColl o s
  | .lCtrig o => Sys2Proof.Machine.execLCtrig o s
  | .lCdisarm o => Sys2Proof.Machine.execLCdisarm o s
  | .eRendezvousRelease c g slot => Sys2Proof.Machine.execERendezvousRelease c g slot s
  | .eSpanRelease c g slot => Sys2Proof.Machine.execESpanRelease c g slot s
  | .eFeGranuleServe c g slot granule => Sys2Proof.Machine.execEFeGranuleServe c g slot granule s
  | .eLoadReturn c g => Sys2Proof.Machine.execELoadReturn c g s
  | .eStorePerformed c st => Sys2Proof.Machine.execEStorePerformed c st s
  | .eHomeAgentAccess c k => Sys2Proof.Machine.execEHomeAgentAccess c k s
  | .eTranslationWalk => Sys2Proof.Machine.execETranslationWalk s
  | .eTlbInvalidateRange v => Sys2Proof.Machine.execETlbInvalidateRange v s
  | .eTlbInvalidateAll v => Sys2Proof.Machine.execETlbInvalidateAll v s
  | .eTlbInvalidationComplete => Sys2Proof.Machine.execETlbInvalidationComplete s
  | .ePeerRequest r => Sys2Proof.Machine.execEPeerRequest r s
  | .eRevocationComplete e => Sys2Proof.Machine.execERevocationComplete e s
  | .eMatrixStep c => Sys2Proof.Machine.execEMatrixStep c s
  | .eMatrixAction c => Sys2Proof.Machine.execEMatrixAction c s
  | .eCopyChunk e k => Sys2Proof.Machine.execECopyChunk e k s
  | .eCopyCompletion e k => Sys2Proof.Machine.execECopyCompletion e k s
  | .eCollectiveChunkSelect => Sys2Proof.Machine.execECollectiveChunkSelect s
  | .eHopFwd => Sys2Proof.Machine.execEHopFwd s
  | .eHopRedaddF32 => Sys2Proof.Machine.execEHopRedaddF32 s
  | .eHopRedaddBf16 => Sys2Proof.Machine.execEHopRedaddBf16 s
  | .eHopMin => Sys2Proof.Machine.execEHopMin s
  | .eHopMax => Sys2Proof.Machine.execEHopMax s
  | .eHopDeposit => Sys2Proof.Machine.execEHopDeposit s
  | .eHopMcast => Sys2Proof.Machine.execEHopMcast s
  | .eHopSignal => Sys2Proof.Machine.execEHopSignal s
  | .eCollectiveCompletion => Sys2Proof.Machine.execECollectiveCompletion s
  | .eHawkerFetchServe => Sys2Proof.Machine.execEHawkerFetchServe s
  | .eClaim q => Sys2Proof.Machine.execEClaim q s
  | .eCommit q data => Sys2Proof.Machine.execECommit q data s
  | .eDispatchDraw => Sys2Proof.Machine.execEDispatchDraw s
  | .eLaunch q => Sys2Proof.Machine.execELaunch q s
  | .eTemplateImageLoad l => Sys2Proof.Machine.execETemplateImageLoad l s
  | .eTeamStart c l => Sys2Proof.Machine.execETeamStart c l s
  | .eTeamRetire c => Sys2Proof.Machine.execETeamRetire c s
  | .eCopy q => Sys2Proof.Machine.execECopy q s
  | .eWaitdep q => Sys2Proof.Machine.execEWaitdep q s
  | .eWaitdepPoll q => Sys2Proof.Machine.execEWaitdepPoll q s
  | .eSignal q => Sys2Proof.Machine.execESignal q s
  | .eGang q => Sys2Proof.Machine.execEGang q s
  | .eGangReady q m => Sys2Proof.Machine.execEGangReady q m s
  | .eGangGo q => Sys2Proof.Machine.execEGangGo q s
  | .eGangStart q => Sys2Proof.Machine.execEGangStart q s
  | .eCollective q => Sys2Proof.Machine.execECollective q s
  | .eNopPacket q => Sys2Proof.Machine.execENopPacket q s
  | .eWatchItemRetry => Sys2Proof.Machine.execEWatchItemRetry s
  | .eQuotaExhausted l => Sys2Proof.Machine.execEQuotaExhausted l s
  | .ePermitRefill c => Sys2Proof.Machine.execEPermitRefill c s
  | .eDieInterval => Sys2Proof.Machine.execEDieInterval s
  | .eBucketInstallment => Sys2Proof.Machine.execEBucketInstallment s
  | .ePackageBell => Sys2Proof.Machine.execEPackageBell s
  | .eGrantArrival => Sys2Proof.Machine.execEGrantArrival s
  | .eFloorTimeout => Sys2Proof.Machine.execEFloorTimeout s
  | .eIntentMessage m => Sys2Proof.Machine.execEIntentMessage m s
  | .eIntentDecision => Sys2Proof.Machine.execEIntentDecision s
  | .ePreemptionRequest l why => Sys2Proof.Machine.execEPreemptionRequest l why s
  | .ePreemptionAck c => Sys2Proof.Machine.execEPreemptionAck c s
  | .eLaunchResume l => Sys2Proof.Machine.execELaunchResume l s
  | .eFirmwareResume c m => Sys2Proof.Machine.execEFirmwareResume c m s
  | .eFirmwareEndLaunch l status cause => Sys2Proof.Machine.execEFirmwareEndLaunch l status cause s
  | .eComposerDebugStep c => Sys2Proof.Machine.execEComposerDebugStep c s
  | .eClusterGate n => Sys2Proof.Machine.execEClusterGate n s
  | .eClusterUngate n => Sys2Proof.Machine.execEClusterUngate n s
  | .eHostRequest fn bar off op => Sys2Proof.Machine.execEHostRequest fn bar off op s
  | .eFunctionLevelReset fn => Sys2Proof.Machine.execEFunctionLevelReset fn s
  | .eExport d va len rw ra => Sys2Proof.Machine.execEExport d va len rw ra s
  | .eImport d handle off => Sys2Proof.Machine.execEImport d handle off s
  | .eRevoke d e => Sys2Proof.Machine.execERevoke d e s
  | .eFnclear fn d imp => Sys2Proof.Machine.execEFnclear fn d imp s
  | .eAttest => Sys2Proof.Machine.execEAttest s
  | .eIdent => Sys2Proof.Machine.execEIdent s
  | .eDieoff d => Sys2Proof.Machine.execEDieoff d s
  | .eDieon d => Sys2Proof.Machine.execEDieon d s
  | .eSwiaxFlit link f => Sys2Proof.Machine.execESwiaxFlit link f s
  | .eFlitReplay link => Sys2Proof.Machine.execEFlitReplay link s
  | .eLinkDown link => Sys2Proof.Machine.execELinkDown link s
  | .eDieLinkFailure link => Sys2Proof.Machine.execEDieLinkFailure link s
  | .eTimeMessage master hops => Sys2Proof.Machine.execETimeMessage master hops s
  | .eTimeBaseLost => Sys2Proof.Machine.execETimeBaseLost s
  | .ePackageReset images answers trained => Sys2Proof.Machine.execEPackageReset images answers trained s
  | .eRegisterWrite b off v => Sys2Proof.Machine.execERegisterWrite b off v s
  | .eLinkUp l => Sys2Proof.Machine.execELinkUp l s
  | .eApertureRequestUnanswered c p => Sys2Proof.Machine.execEApertureRequestUnanswered c p s
  | .xAbsentComposerOpcode w => Sys2Proof.Machine.execXAbsentComposerOpcode w s
  | .xUnallocatedLaneOpcode w => Sys2Proof.Machine.execXUnallocatedLaneOpcode w s

end Sys2Proof.Machine
end

