-- ==== Sys2Proof/Machine/Issue.lean ====
section
/-! DEFINITION. Issue on a lane: the scoreboard of a group (05 R148, 08 R245, 10 R313), and which of the slot-PCs of a lane
issues at a pass boundary (05 R149, R174, 09 R301). A turn of a PC slot is a boundary of its lane (log 1). -/

namespace Sys2Proof.Machine

open Sys2Proof

/-! ## The scoreboard -/

/-- Registers that the loads and atomics in flight of a group will write (05 R148). -/
def pendingRegs (x : Group) : List Nat :=
  let run (i : Instr) (o : MOps) : List Nat := (List.range (Checks.mRun i)).map (o.data.toNat + ·)
  let slot (p : PcSlot) : List Nat :=
    match p.wait with
    | .atom o => run (.lAtom o) o
    | .fe n o _ => run (.lLds n o) o
    | _ => []
  x.loads.flatMap (fun op => run op.i (loadOps op.i)) ++ (x.atom.map fun a => run (.lAtom a.o) a.o).toList.flatten ++
  slot x.pc0 ++ slot x.pc1

/-- Registers that the queued steps of a group have still to read: the A registers of every MMA and MLOOP step that has not
started, and v(ASC) (08 R245, 10 R313). -/
def heldRegs (t : Team) (g : Nat) : List Nat :=
  (t.matq.filter fun a => a.g = g && isChain a.i).flatMap fun a =>
    let o := xops a.i
    ((List.range (chainLen a.i - a.j)).flatMap fun j =>
      (List.range 16).map (o.ra.toNat + 16 * Checks.aadv o * (a.j + j) + ·)) ++
    (if Fmt.isAsym o.fmt then [Bits.field a.edge 20 8] else [])

/-- Registers that an instruction of a group writes as it executes: an XST counts with its whole window (08 R268). -/
def resultRegs (x : Group) (i : Instr) : List Nat :=
  laneWrites i ++
  (match i with
   | .lXst o => let v := x.xreg (o.sc.toNat % 4); (List.range (xCount v)).map (xBase v + ·)
   | _ => [])

/-- Registers that an instruction of a group writes at any time. -/
def destRegs (x : Group) (i : Instr) : List Nat :=
  resultRegs x i ++
  (match i with
   | .lLd _ o | .lLds _ o | .lAtom o | .lFeopRdf o => (List.range (Checks.mRun i)).map (o.data.toNat + ·)
   | _ => [])

/-- An instruction of a slot reads one of the registers. -/
def readsAny (x : Group) (sl : Nat) (i : Instr) (regs : List Nat) : Bool :=
  (List.range 32).any fun st => (x.active sl).getLsbD st && (laneReads x (x.active sl) i st).any fun e => regs.contains e.1

/-- The scoreboard of group `g` holds an instruction back: it reads or writes a register that a load or an atomic in flight
will write, or writes one that a queued step has still to read. -/
def scoreboard (t : Team) (g : Nat) (x : Group) (sl : Nat) (i : Instr) : Bool :=
  let pend := pendingRegs x
  let held := heldRegs t g
  (!pend.isEmpty && ((destRegs x i).any pend.contains || readsAny x sl i pend)) ||
  (!held.isEmpty && (destRegs x i).any held.contains)

/-! ## One slot -/

/-- A PC slot that may issue executes its next instruction, behind the scoreboard; else nothing happens. -/
def runSlot (s : State) (d c g sl : Nat) : Host.Outcome State Fault Refusal :=
  match s.team? d c, s.group? d c g with
  | some t, some x =>
    if !laneReady t x sl then .next s
    else
      match fetchLane { s with cur := .lane d c g sl } d c g sl t x with
      | .instr i s' =>
        if scoreboard t g x sl i then .next s else
        (match exec i s' with
         | .next s'' => .next (replacedWords t x d c g sl i s'')
         | o => o)
      | .wait s' => .next s'
      | .stop s' => .next s'
  | _, _ => .next s

/-- A turn of a slot of group `g` has issued an instruction: the core has counted it, or the group has stopped with a fault. -/
def hasIssued (d c g : Nat) (s s' : State) : Bool :=
  decide ((s.team? d c).map (·.issues) ≠ (s'.team? d c).map (·.issues)) ||
  decide ((s.group? d c g).map (·.st) ≠ (s'.group? d c g).map (·.st))

/-- The slot's next instruction has its operands, its permit and its resources: its turn would issue it (R149). -/
def wouldIssue (s : State) (d c : Nat) (e : Nat × Nat) : Bool :=
  match runSlot s d c e.1 e.2 with
  | .next s' => hasIssued d c e.1 s s'
  | _ => true

/-! ## The slots of a lane -/

/-- The slot-PCs of the lane of group `g`, group and PC slot, in the order of R149's ties. -/
def laneSlots (t : Team) (g : Nat) : List (Nat × Nat) :=
  ((List.range t.groups.length).filter fun h => laneOf h = laneOf g).flatMap fun h => [(h, 0), (h, 1)]

/-- The rank of a slot-PC: when it became ready, in thirds of a pass. -/
def rankOf (t : Team) (e : Nat × Nat) : Nat := match t.groups[e.1]? with | some x => (x.slot e.2).since | none => 0

/-- Ready by boundary `p`: at its beginning, or a third behind it where its last instruction was YIELD. -/
def maybeReady (t : Team) (p : Nat) (e : Nat × Nat) : Bool :=
  (match t.groups[e.1]? with | some x => laneReady t x e.2 | none => false) && decide (rankOf t e ≤ 3 * p + 1)

/-- The slot-PC became ready earlier; ties go to the lower slot, then to PC slot 0. -/
def goesBefore (t : Team) (a b : Nat × Nat) : Bool :=
  decide (rankOf t a < rankOf t b) ||
  (rankOf t a = rankOf t b && (decide (a.1 < b.1) || (a.1 = b.1 && decide (a.2 < b.2))))

/-- Boundary `p` of a lane passes: a slot-PC that is not ready at it becomes ready at the next one at the earliest. -/
def passBoundary (s : State) (d c g p : Nat) (ready : List (Nat × Nat)) : State :=
  s.updTeam d c fun t =>
    (laneSlots t g).foldl (fun u e =>
      if ready.contains e then u
      else { u with groups := Bits.updAt u.groups e.1 fun x => x.updSlot e.2 fun q => { q with since := max q.since (3 * (p + 1)) } })
      { t with passNo := t.passNo.set 0 (laneOf g) p }

/-- The next instruction of a slot, as far as there is one. -/
def nextInstr (t : Team) (x : Group) (sl : Nat) : Option Instr :=
  if (x.slot sl).st ≠ .live || ranOff t x sl then none else (decodeLane t.vregs (laneWord t x sl)).toOption

def isYield (i : Instr) : Bool := match i with | .lYield _ => true | _ => false

/-- When a slot of the group is ready after instruction `i` of slot `sl`, issued at boundary `p`: it keeps its rank if it has
not moved; else it is ready at the next boundary, behind the others there where `i` is its YIELD, and past it where its next
instruction reads a result of `i` (R148, R149). -/
def rankAfter (t : Team) (x y : Group) (sl p : Nat) (i : Option Instr) (k : Nat) : Nat :=
  let reads := match i, nextInstr t y k with
    | some i, some j => readsAny y k j (resultRegs x i)
    | _, _ => false
  if reads then 3 * (p + 1) + 2
  else if k = sl then 3 * (p + 1) + (if i.any isYield then 1 else 0)
  else if ((y.slot k).st, (y.slot k).mask, (y.slot k).mark, (y.slot k).block, (y.slot k).word) =
      ((x.slot k).st, (x.slot k).mask, (x.slot k).mark, (x.slot k).block, (x.slot k).word) then (x.slot k).since
  else 3 * (p + 1)

/-- The slots of group `x` of team `t` ranked anew behind an instruction of slot `sl`. -/
def rankGroup (t : Team) (x : Group) (d c g sl p : Nat) (s : State) : State :=
  match s.team? d c with
  | none => s
  | some u =>
    s.updGroup d c g fun y =>
      { y with pc0 := { y.pc0 with since := rankAfter u x y sl p (nextInstr t x sl) 0 }
               pc1 := { y.pc1 with since := rankAfter u x y sl p (nextInstr t x sl) 1 } }

/-- Slot-PCs of the lane beside (g, sl) that could be ready at boundary `p`. -/
def rivals (t : Team) (g sl p : Nat) : List (Nat × Nat) := (laneSlots t g).filter fun e => e ≠ (g, sl) && maybeReady t p e

/-- A turn of a PC slot at a boundary of its lane: it issues if it is ready and no ready slot-PC of the lane goes before it
(R149), else it passes. A slot whose instruction lacks its translation, its tokens or another resource has asked for it, whoever
issues (01 R33, 12 R372). -/
def laneTurn (s : State) (d c g sl : Nat) : Host.Outcome State Fault Refusal :=
  match s.team? d c, s.group? d c g with
  | some t, some x =>
    let p := t.passNo.get 0 (laneOf g) + 1
    let others := (rivals t g sl p).filter (wouldIssue s d c)
    let behind := others.any (goesBefore t · (g, sl))
    let s1 := passBoundary s d c g p ((g, sl) :: others)
    if !maybeReady t p (g, sl) then .next (passBoundary s d c g p others)
    else
      (match runSlot s1 d c g sl with
       | .next s2 =>
         .next (if !hasIssued d c g s1 s2 then passBoundary s2 d c g p others
                else if behind then s1 else rankGroup t x d c g sl p s2)
       | o => if behind then .next s1 else o)
  | _, _ => .next s

end Sys2Proof.Machine
end

