-- ==== Sys2Proof/Machine/Time.lean ====
section
/-! DEFINITION. Time: what happens as cycles of the master clock pass, to the clocked state of every core and die and to the clocked
controllers at the boundaries of TICK (12 R371, R372, R375, R379, 14 R404). -/

namespace Sys2Proof.Machine

open Sys2Proof

/-- Pulse patterns written during a frame of 16 pulses take effect at its end (12 R375). -/
def Die.nextFrame (x : Die) : Die :=
  if x.swpNext.isEmpty then x
  else { x with swp := x.swpNext.foldl (fun l e => l.set e.1 e.2) x.swp, swpNext := [] }

/-- Permit parameters written before take effect (12 R370). -/
def Die.nextPermits (x : Die) : Die :=
  if x.permitNext.isEmpty then x
  else
    { x with permitCap := x.permitNext.foldl (fun l e => l.set e.1 e.2.1) x.permitCap
             permitRate := x.permitNext.foldl (fun l e => l.set e.1 e.2.2) x.permitRate, permitNext := [] }

/-- The part of a correction of TICK slewed in over n cycles: at most 1 ns in each µs (14 R404). -/
def slewed (p : Pkg) (n : Nat) : Int :=
  let k : Int := (((p.mclk + n) / 2100 - p.mclk / 2100 : Nat) : Int)
  max (-k) (min k p.tbSlew)

/-- TICK's correction goes on over n cycles; OFS takes it once it is whole (14 Table 14.5). -/
def Pkg.pass (p : Pkg) (n : Nat) : Pkg :=
  let q := { p with mclk := p.mclk + n, tickOfs := p.tickOfs + slewed p n, tbSlew := p.tbSlew - slewed p n }
  if q.tbSlew = 0 then q.endSlew else q

/-- Master-clock cycles pass: CYCLE counts them for every team that is not stopped (07 Table 7.9). -/
def passCycles (s : State) (n : Nat) : State :=
  { s with
    pkg := s.pkg.pass n
    dies := s.dies.map fun x0 =>
      let x1 := if n = 0 then x0 else x0.nextPermits
      let x := if (s.pkg.mclk + n) / 16 = s.pkg.mclk / 16 then x1 else x1.nextFrame
      { x with teams := x.teams.map fun e =>
          (e.1, if e.2.stopped then e.2
                else { e.2 with comp := { e.2.comp with cycle := e.2.comp.cycle + BitVec.ofNat 64 n } }) } }

/-! ## The boundaries of TICK -/

/-- A 100 ns tenth begins on a die: a new interval where one begins, then the installments (12 R371). -/
def dieTenth (s : State) (d : Nat) : State :=
  if (s.die d).released then floorTimeout d (bucketInstallment d (dieInterval d s)) else s

/-- A 100 ns tenth of TICK begins, once bring-up is over: the clocked controllers act. -/
def tenthBegins (s : State) : State :=
  if s.pkg.boot < 6 then s
  else timeOut (timeBaseLost (intentDecision (packageBell ((List.range s.dies.length).foldl dieTenth s))))

/-- The refill of the current cycle, for every core whose cluster its pulse reaches (12 R370, R375). -/
def refillCores (s : State) : State :=
  (List.range s.dies.length).foldl (fun s d => (s.die d).teams.foldl (fun s e => coreCycle s d e.1) s) s

/-- One cycle of the master clock ends, its permits refilled; where the next begins a tenth, the controllers act. -/
def passOne (s : State) : State :=
  let t := passCycles (refillCores s) 1
  if t.tick / 100 = s.tick / 100 then t else tenthBegins t

/-- `n` cycles of the master clock pass. -/
def passTime (s : State) : Nat → State
  | 0 => s
  | n + 1 => passTime (passOne s) n

end Sys2Proof.Machine
end

