-- ==== Sys2Proof/Machine/Step.lean ====
section
/-! DEFINITION. One step of the machine: the next turn is taken, and the party it names executes the instruction at its
program counter, or the service it names does its work. -/

namespace Sys2Proof.Machine

open Sys2Proof

/-- A turn of a composer: a composer that is absent or not ready passes, and so does one whose cluster the pulse does not
reach (12 R375). -/
def stepComposer (s : State) (d c : Nat) : Host.Outcome State Fault Refusal :=
  match s.team? d c with
  | none => .next s
  | some t =>
    if !compReady t || !pulsePasses s (s.die d) c then .next s
    else
      match fetchComposer s d c t with
      | .instr i s' => exec i s'
      | .wait s' => .next s'
      | .stop s' => .next s'

/-- A turn of a PC slot, behind the refill of the core cycle (12 R370): a core that holds no team passes, and so does one
whose cluster the pulse does not reach (R375). -/
def stepLane (s0 : State) (d c g sl : Nat) : Host.Outcome State Fault Refusal :=
  let s := coreCycle s0 d c
  if !pulsePasses s (s.die d) c then .next s else laneTurn s d c g sl

/-- A turn executed. -/
def runTurn (t : Turn) (s : State) : Host.Outcome State Fault Refusal :=
  match t with
  | .composer d c => stepComposer { s with cur := .composer d c } d c
  | .lane d c g sl => stepLane { s with cur := .lane d c g sl } d c g sl
  | .service d i => exec i { s with cur := .service d }
  | .choice d i j => exec i { s with cur := .service d, pick := j }
  | .clock n => .next (passTime s n)

/-- One step: the next turn, executed. -/
def step (s : State) : Host.Outcome State Fault Refusal := runTurn (nextTurn s).1 (nextTurn s).2

/-- `s` with an instruction of 32 bits where the composer of core 0 of die 0 fetches next, or one of 64 bits where
PC slot 0 of a group there issues next (log 7). -/
def State.withFetchWord (s : State) (nbits w : Nat) : State :=
  if nbits = 32 then placeComposer s w else placeLane s w

end Sys2Proof.Machine
end

