-- ==== Sys2Proof/Safety.lean ====
section
/-! DEFINITION. What every step keeps: the package has its three core dies, every memory of the machine (HBM, table
memory, composer stores, scratchpads, template images, host memory and the mailbox) is in the one canonical form, so
that equal memories are equal data, and every team has its 16 frames, 16 batches and 24 rendezvous points. -/

namespace Sys2Proof.Machine

open Sys2Proof

/-- The composer store and the scratchpad are canonical; there are 16 frames (05 R153), 16 batches (10 R315) and 24
rendezvous points (05 R168). -/
def Team.memWf (t : Team) : Bool :=
  Mem.wf t.store && Mem.wf t.sp && t.frames.length = 16 && t.batches.length = 16 && t.points.length = 24

/-- The template image and the teams saved at a pre-emption are canonical. -/
def Launch.memWf (l : Launch) : Bool := Mem.wf l.image && l.saved.all (fun e => e.2.memWf)

/-- Every memory of a die is canonical. -/
def Die.memWf (x : Die) : Bool :=
  Mem.wf x.hbm && Mem.wf x.table && x.teams.all (fun e => e.2.memWf) && x.launches.all Launch.memWf

/-- Host memory and the mailbox memories are canonical. -/
def Pkg.memWf (p : Pkg) : Bool :=
  Mem.wf p.hostMem && Mem.wf p.mailbox.req && Mem.wf p.mailbox.resp && Mem.wf p.mailbox.result

/-- The invariant of the machine. -/
structure State.Inv (s : State) : Prop where
  dies  : s.dies.length = 3
  die   : ∀ x ∈ s.dies, x.memWf = true
  pkg   : s.pkg.memWf = true

end Sys2Proof.Machine
end

