-- ==== Sys2Proof/WellFormed.lean ====
section
/-! DEFINITION. Which terms of `Instr` are instructions that some word encodes: the sub-field rules of 06 R180 for a
composer word, the checks of 06 R197 for a lane word of a team with 192 vector registers, and an absent or
unallocated opcode for the two rows that stand for a word which is no instruction. No word encodes an event. -/

namespace Sys2Proof.WellFormed

/-- The major opcodes of 06 Table 6.2. -/
def majors : List Nat :=
  [0x00, 0x01, 0x02, 0x03, 0x04, 0x05, 0x06, 0x07, 0x08, 0x09, 0x0A, 0x0B, 0x10, 0x11, 0x12, 0x13, 0x20, 0x21, 0x22,
   0x23, 0x24, 0x25, 0x26, 0x27, 0x28, 0x29, 0x2A, 0x2B, 0x30, 0x31, 0x32, 0x33, 0x34, 0x35, 0x36, 0x37, 0x38, 0x39,
   0x3A, 0x3B, 0x3C, 0x3D, 0x3E, 0x3F]

/-- The ALU function codes of 06 Table 6.3. -/
def aluCodes : List Nat :=
  [0x000, 0x001, 0x002, 0x003, 0x004, 0x005, 0x008, 0x009, 0x00A, 0x010, 0x011, 0x012, 0x018, 0x019, 0x01A, 0x01B]

/-- A word whose major opcode, or ALU function code, is absent (06 R180). -/
def absentComposer (w : Word32) : Bool :=
  let op := (w.extractLsb' 26 6).toNat
  !majors.contains op || (op = 0 && !aluCodes.contains (w.extractLsb' 0 11).toNat)

/-- The unallocated lane opcodes of 06 Table 6.5. -/
def unallocated (op : Nat) : Bool :=
  (decide (0x19 ≤ op) && decide (op ≤ 0x1F)) || (decide (0x39 ≤ op) && decide (op ≤ 0x3F)) ||
  (decide (0x4A ≤ op) && decide (op ≤ 0x4F)) || (decide (0x59 ≤ op) && decide (op ≤ 0x6F)) ||
  (decide (0x77 ≤ op) && decide (op ≤ 0x7F)) || op = 0x87 || (decide (0x8C ≤ op) && decide (op ≤ 0x8F)) ||
  op = 0x93 || op = 0x97 || op = 0x9B || op = 0x9F || (decide (0xA6 ≤ op) && decide (op ≤ 0xAF)) ||
  (decide (0xB7 ≤ op) && decide (op ≤ 0xBF)) || op = 0xCE || op = 0xCF ||
  (decide (0xD8 ≤ op) && decide (op ≤ 0xDF)) || (decide (0xE5 ≤ op) && decide (op ≤ 0xE7)) ||
  (decide (0xED ≤ op) && decide (op ≤ 0xEF)) || (decide (0xF1 ≤ op) && decide (op ≤ 0xFF))

/-- A lane instruction: one of the four formats of operand records, or MOVI. -/
def isLane (i : Instr) : Bool :=
  (Checks.vUse i).isSome || (Checks.mOps i).isSome || (Checks.cOps i).isSome || (Checks.xUse i).isSome ||
  (match i with | .lMovi _ => true | _ => false)

/-- A composer instruction of Table 6.2. -/
def isComposer : Instr → Bool
  | .cAdd _ _ _ | .cSub _ _ _ | .cMul _ _ _ | .cMulh _ _ _ | .cDivu _ _ _ | .cRemu _ _ _ | .cAnd _ _ _
  | .cOr _ _ _ | .cXor _ _ _ | .cShl _ _ _ | .cShr _ _ _ | .cSra _ _ _ | .cSlt _ _ _ | .cSltu _ _ _
  | .cMin _ _ _ | .cMax _ _ _ | .cAddi _ _ _ | .cAndi _ _ _ | .cOri _ _ _ | .cXori _ _ _ | .cShli _ _ _
  | .cShri _ _ _ | .cSrai _ _ _ | .cSlti _ _ _ | .cLui _ _ | .cInsf _ _ _ _ | .cExtf _ _ _ _
  | .cLd _ _ _ _ _ | .cSt _ _ _ _ _ | .cAmo _ _ _ _ _ _ _ _ | .cFence _ _ | .cBeq _ _ _ | .cBne _ _ _
  | .cBlt _ _ _ | .cBge _ _ _ | .cBltu _ _ _ | .cBgeu _ _ _ | .cJal _ _ | .cJalr _ _ _ | .cEvwait _ | .cEret
  | .cBrkc _ | .cDone | .cEmit _ | .cEmitt _ _ _ | .cEmitb _ _ | .cEmitr _ _ _ | .cEmith _ | .cSeal _
  | .cRun _ _ | .cWaitf _ _ | .cFree _ | .cGctlStop _ | .cGctlResume _ | .cGctlStep _ | .cGctlKill _
  | .cWfetch _ | .cMkshp _ _ | .cLtrig | .cDepwait | .cMfs _ _ | .cMts _ _ => true
  | _ => false

end Sys2Proof.WellFormed

namespace Sys2Proof

/-- The instruction is what some word encodes. -/
def wellFormed (i : Instr) : Bool :=
  if WellFormed.isComposer i then Checks.composer i
  else if WellFormed.isLane i then (Checks.lane 192 i).isNone
  else
    match i with
    | .xAbsentComposerOpcode w => WellFormed.absentComposer w
    | .xUnallocatedLaneOpcode w => WellFormed.unallocated (w.extractLsb' 56 8).toNat
    | _ => false

end Sys2Proof
end

