-- ==== Sys2Proof/Certificates/Slice0/Obligations.lean ====
section
/-! DEFINITION. The statements about the model, and the words they are stated in. -/

open Sys2Proof.Machine

namespace Sys2Proof.Machine

open Sys2Proof

/-! ## Words of the statements about composer instructions -/

/-- The composer of core `c` of die `d` acts and may execute, and the debug agent does not step it; `t` is its team. -/
structure CompAt (s : State) (d c : Nat) (t : Team) : Prop where
  cur   : s.cur = .composer d c
  team  : s.team? d c = some t
  ready : compReady t = true
  free  : t.comp.dbgStep = false

/-- The composer has completed an instruction: it stands at `pc`, and `f` is what the instruction did to it. -/
def compAfter (s : State) (d c : Nat) (pc : Word64) (f : Composer → Composer) : Host.Outcome State Fault Refusal :=
  .next (s.updComp d c fun k => { f k with pc := pc, walkFail := [] })

/-! ## Words of the statements about lane instructions -/

/-- PC slot `sl` of group `g` of core `c` of die `d` acts and may issue an instruction that is charged `price` to
`cls`. -/
structure LaneAt (s : State) (d c g sl : Nat) (t : Team) (x : Group) (cls : PClass) (price : Nat) : Prop where
  cur   : s.cur = .lane d c g sl
  team  : s.team? d c = some t
  group : s.group? d c g = some x
  ready : laneReady t x sl = true
  paid  : mayStart s d c cls price = true

/-- The same, and every access of the group is bound. -/
structure LaneQuiet (s : State) (d c g sl : Nat) (t : Team) (x : Group) (cls : PClass) (price : Nat) : Prop
    extends LaneAt s d c g sl t x cls price where
  quiet : x.unbound = false

/-- A state without what the issue of a lane instruction may change beside the instruction's own effect: its group,
the frames and the events that a group's end leaves, the count of the instructions that the core has issued, the tokens charged, the firmware events posted with the record of a
fault that goes there and the count of the uncorrectable words that such a record meets. Two states with
the same value hold the same memories, the same other groups, the same registers of every composer, the same
accumulators, engines, queues and exception records outside the group. -/
def aside (d c g : Nat) (s : State) : State :=
  { (s.updDie d fun x =>
      { x with
        power := { x.power with waited := [], demand := 0 }
        faultSlots := [], ueCount := 0
        launches := x.launches.map fun l => { l with energy := 0 }
        teams :=
          match x.teams.find? c with
          | some t =>
            x.teams.insert c
              { t with
                permits := {}, frozen := false, frames := [], issues := 0, comp := { t.comp with evq := [] }
                groups := Bits.updAt t.groups g fun _ => {} }
          | none => x.teams }) with
    pkg := { s.pkg with events := [], held := [] } }

/-- What a register instruction leaves of its group: loads and barriers in flight, matrix and collective bookkeeping,
the enabled traps. -/
structure GroupKept (x y : Group) : Prop where
  loads    : y.loads = x.loads
  atom     : y.atom = x.atom
  heldFrom : y.heldFrom = x.heldFrom
  spans    : y.spans = x.spans
  storeErr : y.storeErr = x.storeErr
  feServed : y.feServed = x.feServed
  pend     : y.pend = x.pend
  ate      : y.ate = x.ate

/-- The instruction completes: `exec` answers a next state in which everything outside the group is as before, and the
group is one that `post` holds of. -/
def Completes (s : State) (i : Instr) (d c g : Nat) (x : Group) (post : Group → Prop) : Prop :=
  ∃ s' y, exec i s = .next s' ∧ s'.group? d c g = some y ∧ aside d c g s' = aside d c g s ∧ GroupKept x y ∧ post y

/-- Of all vector and uniform registers only `dst` changes: a vector register receives `f st` in every active strand,
a uniform register the value of the lowest active strand; w63 discards the write. -/
structure Wrote (x y : Group) (act : BitVec 32) (dst : Nat) (f : Nat → Word32) : Prop where
  vec : ∀ r st, r < 192 → st < 32 → y.vreg r st = if r = dst ∧ act.getLsbD st = true then f st else x.vreg r st
  uni : ∀ n, n < 64 → y.wreg n = if 192 + n = dst ∧ n ≠ 63 ∧ act ≠ 0 then f (lowest act) else x.wreg n

/-- The same for the pair of registers `dst` and `dst + 1`, which receives a 64-bit value. -/
structure WrotePair (x y : Group) (act : BitVec 32) (dst : Nat) (f : Nat → Nat) : Prop where
  vec : ∀ r st, r < 192 → st < 32 → y.vreg r st =
    if r = dst ∧ act.getLsbD st = true then BitVec.ofNat 32 (f st)
    else if r = dst + 1 ∧ act.getLsbD st = true then BitVec.ofNat 32 (f st / 2 ^ 32) else x.vreg r st
  uni : ∀ n, n < 64 → y.wreg n =
    if 192 + n = dst ∧ n ≠ 63 ∧ act ≠ 0 then BitVec.ofNat 32 (f (lowest act))
    else if 192 + n = dst + 1 ∧ n ≠ 63 ∧ act ≠ 0 then BitVec.ofNat 32 (f (lowest act) / 2 ^ 32) else x.wreg n

/-- Index registers, residues and flags are unchanged. -/
structure SidesKept (x y : Group) : Prop where
  index : y.x = x.x
  resid : y.e = x.e
  flags : y.asf = x.asf

end Sys2Proof.Machine

namespace Sys2Proof.Machine

/-- The composer has completed an instruction that changed its team to one that `post` holds of, and nothing else. -/
def TeamAfter (s : State) (i : Instr) (d c : Nat) (t : Team) (post : Team → Prop) : Prop :=
  ∃ u, exec i s = .next (s.updTeam d c fun _ => u) ∧ u.comp.pc = t.comp.pc + 4 ∧ post u

/-- The same of an instruction that changes more than its team. -/
def CompAfter (s : State) (i : Instr) (d c : Nat) (t : Team) (post : State → Team → Prop) : Prop :=
  ∃ s' u, exec i s = .next s' ∧ s'.team? d c = some u ∧ u.comp.pc = t.comp.pc + 4 ∧ post s' u

/-- The composer's registers, its special registers and its status are unchanged, but for its PC and its event queue. -/
def CompKept (t u : Team) : Prop :=
  u.comp = { t.comp with pc := u.comp.pc, walkFail := [], evq := u.comp.evq }

/-- The loads in flight are the same, but that they may be barred from installing further lines in the L1 (03 R83). -/
structure LoadsBarred (l l' : List LoadOp) : Prop where
  same : (l'.map fun o => { o with noInstall := [] }) = l.map fun o => { o with noInstall := [] }
  more : ∀ (k : Nat) (a b : LoadOp), l[k]? = some a → l'[k]? = some b → ∀ n ∈ a.noInstall, n ∈ b.noInstall

/-- In a map of words one word written, every other word as before. -/
def WordPut {α : Type} (m m' : Sys2Proof.SMap α) (zero : α) (k : Nat) (w : α) : Prop :=
  ∀ j, Sys2Proof.SMap.get zero m' j = if j = k then w else Sys2Proof.SMap.get zero m j

/-- One word appended to the open frame `o` of `t`: it stands in the frame's last chunk, or in the lowest free chunk
where the last one is full, with its provenance, and `begins` tells whether it begins a block. -/
structure Appended (t : Team) (o : OpenFrame) (w : Word64) (begins : Bool) (u : Team) : Prop where
  chunk : ∃ c, (if o.words % 64 = 0 then t.freeChunks.head? = some c ∧
        u.opened = some { chunks := o.chunks ++ [c], words := o.words + 1, opened := true,
                          starts := if begins then o.starts ++ [o.words] else o.starts }
      else c = o.chunks.getD (o.words / 64) 0 ∧
        u.opened = some { o with words := o.words + 1, opened := true,
                                 starts := if begins then o.starts ++ [o.words] else o.starts }) ∧
      WordPut t.fb u.fb 0 (64 * (if o.words % 64 = 0 then (o.chunks ++ [c]).getD (o.words / 64) 0 else c) + o.words % 64) w ∧
      WordPut t.prov u.prov 0 (64 * (if o.words % 64 = 0 then (o.chunks ++ [c]).getD (o.words / 64) 0 else c) + o.words % 64) (provOf t)
  frames : u.frames = t.frames
  groups : u.groups = t.groups
  store  : u.store = t.store
  sp     : u.sp = t.sp

/-- Index of the header of the last block of the open frame `o`, and the words of that block. -/
def openHeader (o : OpenFrame) : Nat :=
  64 * o.chunks.getD (o.starts.getLast?.getD 0 / 64) 0 + o.starts.getLast?.getD 0 % 64
def openLen (o : OpenFrame) : Nat := o.words - o.starts.getLast?.getD 0

/-- `t` once the open block of its open frame `o` is closed: LEN of that block's header is the number of its words, every other
word of the frame buffer as before. Where no block is open it is `t`. -/
def closedTeam (t : Team) (o : OpenFrame) : Team :=
  if o.opened then
    { t with
      fb := Sys2Proof.SMap.set 0 t.fb (openHeader o)
        (BitVec.ofNat 64 (Sys2Proof.Bits.setField (Sys2Proof.SMap.get 0 t.fb (openHeader o)).toNat 44 12 (openLen o)))
      opened := some { o with opened := false } }
  else t

/-- `o` is the open frame of `t`, or the empty one where none is open. -/
def OpenIs (t : Team) (o : OpenFrame) : Prop := t.opened = some o ∨ (t.opened = none ∧ o = {})

/-- A stopped group that runs again where nothing is to be merged. -/
structure Resumable (x : Group) : Prop where
  st    : x.st = .stopped
  pc0   : x.pc0.st ≠ .waiting
  pc1   : x.pc1.st ≠ .waiting
  spill : x.spill = []
  sync  : x.syncBroken = none

end Sys2Proof.Machine

namespace Sys2Proof.Machine

/-- The context in which a lane instruction acts. -/
def ctxOf (d c g sl : Nat) (t : Team) (x : Group) : LaneCtx := { d, c, g, sl, t, x, act := x.active sl }

/-- The step of a lane instruction whose effect leads to `s'` and that moves its slot to the next word. -/
def laneDone (s s' : State) (d c g sl : Nat) (cls : PClass) (price : Nat) : Host.Outcome State Fault Refusal :=
  .next (finishLane (advanceSlot (started s' d c g sl cls price) d c g sl) d c g (laneRecord s d c g sl { code := 0 }))

/-- Every byte of HBM, of host memory, and of the scratchpad and composer store of every team reads as before. -/
structure MemKept (s s' : State) : Prop where
  hbm  : ∀ d a, (s'.die d).hbm.byte a = (s.die d).hbm.byte a
  host : ∀ a, s'.pkg.hostMem.byte a = s.pkg.hostMem.byte a
  team : ∀ d c t, s.team? d c = some t → ∃ u, s'.team? d c = some u ∧
    (∀ a, u.sp.byte a = t.sp.byte a) ∧ ∀ a, u.store.byte a = t.store.byte a

end Sys2Proof.Machine

namespace Sys2Proof.Machine

/-- The step of a lane instruction whose effect leads to `s'` and has placed its slot itself. -/
def laneMoved (s s' : State) (d c g sl : Nat) (cls : PClass) (price : Nat) : Host.Outcome State Fault Refusal :=
  .next (finishLane (started s' d c g sl cls price) d c g (laneRecord s d c g sl { code := 0 }))

/-- The step of a lane instruction that is issued in the state `s'`, as the core's instruction of number `no`, and completed by an
event: its slot waits for `w`. -/
def laneHeld (s' : State) (d c g sl : Nat) (cls : PClass) (price : Nat) (w : Wait) (no : Nat) : Host.Outcome State Fault Refusal :=
  .next (started (s'.updGroup d c g fun x => x.updSlot sl fun p => { p with wait := w, no := no }) d c g sl cls price)

/-- The step of a lane instruction that faults in the state `s'`: its slot waits for tokens no longer. -/
def laneFaults (s' : State) (d c g sl : Nat) (f : FaultInfo) : Host.Outcome State Fault Refusal :=
  .next (takeLaneFault (noWait s' d (slotUnit c g sl)) d c g sl f)

/-- Every active strand has passed the checks of its access, in state `r.s`, and no range lock forbids one. -/
structure Passed {α : Type} (r : Found α) (lock : α → Option (Nat × FaultInfo)) : Prop where
  hit  : r.miss = false
  fine : r.bads = []
  free : ∀ p ∈ r.oks, lock p = none

/-- The instruction of the slot faults for the failing strands `l`, found in state `s1`: the record names the lowest of them, MASK
holds all of them; nothing is queued or put in flight, and no register changes. -/
structure StrandFault (s : State) (i : Sys2Proof.Instr) (d c g sl : Nat) (t : Team) (x : Group) (s1 : State)
    (l : List (Nat × FaultInfo)) : Prop where
  step   : exec i s = laneFaults s1 d c g sl (worst l)
  mask   : ∀ k, k < 32 → (worst l).mask.getLsbD k = l.any fun e => decide (e.1 = k)
  lowest : ∀ st f r, l = (st, f) :: r → (worst l).code = f.code ∧ (worst l).cause = f.cause ∧ (worst l).access = f.access ∧
    (worst l).va = f.va ∧ ∀ e ∈ r, st ≤ e.1
  group  : ∃ y, (takeLaneFault (noWait s1 d (slotUnit c g sl)) d c g sl (worst l)).group? d c g = some y ∧ y.st = .stopped ∧ y.loads = x.loads ∧ y.v = x.v ∧ y.w = x.w
  queue  : ∃ u, (takeLaneFault (noWait s1 d (slotUnit c g sl)) d c g sl (worst l)).team? d c = some u ∧ u.sq = t.sq ∧ u.ts = t.ts

/-- The instruction faults where the checks of its strands, `r`, find a failure, and else where the range locks forbid one. -/
def ChecksFault {α : Type} (s : State) (i : Sys2Proof.Instr) (d c g sl : Nat) (t : Team) (x : Group) (r : Found α)
    (lock : α → Option (Nat × FaultInfo)) : Prop :=
  r.miss = false →
    (r.bads ≠ [] → StrandFault s i d c g sl t x r.s r.bads) ∧
    (r.bads = [] → r.oks.filterMap lock ≠ [] → StrandFault s i d c g sl t x r.s (r.oks.filterMap lock))

end Sys2Proof.Machine

/-- R208, R209: the value of every composer integer instruction; the equation of states is also its frame. -/
def Obligations.ComposerIntegerResults : Prop :=
  ∀ (s : Sys2Proof.Machine.State) (d c : Nat) (t : Sys2Proof.Machine.Team) (rd a b : BitVec 5) (i : BitVec 16)
    (n l p : BitVec 6), CompAt s d c t →
    let x := t.comp.reg a
    let y := t.comp.reg b
    let z := y.toNat % 256
    let res (v : Sys2Proof.Word64) := compAfter s d c (t.comp.pc + 4) fun k => k.setReg rd v
    let truthOf (q : Bool) : Sys2Proof.Word64 := if q then 1 else 0
    exec (.cAdd rd a b) s = res (x + y) ∧
    exec (.cSub rd a b) s = res (x - y) ∧
    exec (.cMul rd a b) s = res (x * y) ∧
    exec (.cMulh rd a b) s = res (BitVec.ofInt 64 (x.toInt * y.toInt / 2 ^ 64)) ∧
    exec (.cDivu rd a b) s = res (if y = 0 then 0xFFFF_FFFF_FFFF_FFFF else BitVec.ofNat 64 (x.toNat / y.toNat)) ∧
    exec (.cRemu rd a b) s = res (if y = 0 then x else BitVec.ofNat 64 (x.toNat % y.toNat)) ∧
    exec (.cAnd rd a b) s = res (x &&& y) ∧
    exec (.cOr rd a b) s = res (x ||| y) ∧
    exec (.cXor rd a b) s = res (x ^^^ y) ∧
    exec (.cShl rd a b) s = res (if 64 ≤ z then 0 else x <<< z) ∧
    exec (.cShr rd a b) s = res (if 64 ≤ z then 0 else x >>> z) ∧
    exec (.cSra rd a b) s = res (if 64 ≤ z then (if x.msb then BitVec.allOnes 64 else 0) else x.sshiftRight z) ∧
    exec (.cSlt rd a b) s = res (truthOf (decide (x.toInt < y.toInt))) ∧
    exec (.cSltu rd a b) s = res (truthOf (decide (x.toNat < y.toNat))) ∧
    exec (.cMin rd a b) s = res (if x.toInt ≤ y.toInt then x else y) ∧
    exec (.cMax rd a b) s = res (if x.toInt ≤ y.toInt then y else x) ∧
    exec (.cAddi rd a i) s = res (x + i.signExtend 64) ∧
    exec (.cAndi rd a i) s = res (x &&& i.zeroExtend 64) ∧
    exec (.cOri rd a i) s = res (x ||| i.zeroExtend 64) ∧
    exec (.cXori rd a i) s = res (x ^^^ i.zeroExtend 64) ∧
    exec (.cShli rd a n) s = res (x <<< n.toNat) ∧
    exec (.cShri rd a n) s = res (x >>> n.toNat) ∧
    exec (.cSrai rd a n) s = res (x.sshiftRight n.toNat) ∧
    exec (.cSlti rd a i) s = res (truthOf (decide (x.toInt < i.toInt))) ∧
    exec (.cLui rd i) s = res (i.signExtend 64 <<< 16) ∧
    exec (.cExtf rd a l p) s = res (BitVec.ofNat 64 (x.toNat / 2 ^ p.toNat % 2 ^ (l.toNat + 1))) ∧
    (p.toNat + l.toNat + 1 ≤ 64 →
      ∃ v, exec (.cInsf rd a l p) s = res v ∧
        ∀ k, k < 64 → v.getLsbD k =
          if p.toNat ≤ k ∧ k < p.toNat + l.toNat + 1 then x.getLsbD (k - p.toNat) else (t.comp.reg rd).getLsbD k)

/-- R214, R178: branches compare and jump; JAL and JALR write the return address. -/
def Obligations.ComposerBranchTargets : Prop :=
  ∀ (s : Sys2Proof.Machine.State) (d c : Nat) (t : Sys2Proof.Machine.Team) (rd a b : BitVec 5) (o : BitVec 16)
    (j : BitVec 21), CompAt s d c t →
    let x := t.comp.reg a
    let y := t.comp.reg b
    let pc := t.comp.pc
    let br (q : Bool) := compAfter s d c (if q then pc + 4 * o.signExtend 64 else pc + 4) id
    let link (k : Sys2Proof.Machine.Composer) := k.setReg rd (pc + 4)
    let target := x + o.signExtend 64
    exec (.cBeq a b o) s = br (x == y) ∧
    exec (.cBne a b o) s = br (x != y) ∧
    exec (.cBlt a b o) s = br (decide (x.toInt < y.toInt)) ∧
    exec (.cBge a b o) s = br (decide (y.toInt ≤ x.toInt)) ∧
    exec (.cBltu a b o) s = br (decide (x.toNat < y.toNat)) ∧
    exec (.cBgeu a b o) s = br (decide (y.toNat ≤ x.toNat)) ∧
    exec (.cJal rd j) s = compAfter s d c (pc + 4 * j.signExtend 64) link ∧
    exec (.cJalr rd a o) s =
      if target.toNat % 4 = 0 then compAfter s d c target link
      else .next (takeCompFault s d c { code := Code.GMISALIGN, access := 0x29, va := target.toNat })

/-- R388, R210, R211 in the spaces .CS and .SP, for every size, register and offset; R210's order of GMISALIGN in every space. Rests on the
model's own choices of logs 8 (a scratchpad load waits for another party's store of S to its bytes), 18 (a misaligned access that is
not canonical faults GMISALIGN) and 41. -/
def Obligations.ComposerStoreAccess : Prop :=
  ∀ (s : Sys2Proof.Machine.State) (d c : Nat) (t : Sys2Proof.Machine.Team) (rd a : BitVec 5) (z : BitVec 2)
    (o : BitVec 12), CompAt s d c t →
    let n := 2 ^ z.toNat
    let va := (t.comp.reg a + o.signExtend 64).toNat
    let lg := 16 * z.toNat
    let v := (t.comp.reg rd).toNat % 256 ^ n
    let loaded (w : Nat) := compAfter s d c (t.comp.pc + 4) fun k => k.setReg rd (BitVec.ofNat 64 w)
    let uncorrectable (access : Nat) := Host.Outcome.next (φ := Sys2Proof.Machine.Fault) (ρ := Sys2Proof.Machine.Refusal)
      (takeCompFault (reportUe s d) d c { code := Code.GUE, access := access, va := va })
    (va % n ≠ 0 → ∀ sp, exec (.cLd rd a z sp o) s =
        .next (takeCompFault s d c
          { code := Code.GMISALIGN, access := lg + 256 * (if sp = 0 then 3 else if sp = 1 then 1 else 0), va := va }) ∧
      exec (.cSt rd a z sp o) s =
        .next (takeCompFault s d c
          { code := Code.GMISALIGN, access := 1 + lg + 256 * (if sp = 0 then 3 else if sp = 1 then 1 else 0), va := va })) ∧
    (va % n = 0 → 0x20000 ≤ va →
      exec (.cLd rd a z 0 o) s = .next (takeCompFault s d c { code := Code.GXLATE, cause := Cause.OUTSIDE, access := lg + 768, va := va }) ∧
      exec (.cSt rd a z 0 o) s = .next (takeCompFault s d c { code := Code.GXLATE, cause := Cause.OUTSIDE, access := 1 + lg + 768, va := va })) ∧
    (va % n = 0 → va < 0x20000 →
      (t.badStore va n = false → exec (.cLd rd a z 0 o) s = loaded (t.store.read va n)) ∧
      (t.badStore va n = true → exec (.cLd rd a z 0 o) s = uncorrectable (lg + 768)) ∧
      ∃ m : Sys2Proof.Mem,
        exec (.cSt rd a z 0 o) s =
          .next (s.updTeam d c fun u =>
            { u with store := m, bad := t.bad.filter (fun r => !r.wholeStore va n),
                     comp := { u.comp with pc := t.comp.pc + 4, walkFail := [] } }) ∧
        m.read va n = v ∧ ∀ b, (b < va ∨ va + n ≤ b) → m.byte b = t.store.byte b) ∧
    (va % n = 0 → t.scratch ≤ va →
      exec (.cLd rd a z 1 o) s = .next (takeCompFault s d c { code := Code.GXLATE, cause := Cause.OUTSIDE, access := lg + 256, va := va }) ∧
      exec (.cSt rd a z 1 o) s = .next (takeCompFault s d c { code := Code.GXLATE, cause := Cause.OUTSIDE, access := 1 + lg + 256, va := va })) ∧
    (va % n = 0 → va < t.scratch →
      (t.lockHit true false va n = false →
        (t.unsettled .composer 0 (.sp c va) n = true → exec (.cLd rd a z 1 o) s = .next s) ∧
        (t.unsettled .composer 0 (.sp c va) n = false → t.badSp va n = false →
          exec (.cLd rd a z 1 o) s = loaded (t.seen .composer 0 (.sp c va) n (t.sp.read va n))) ∧
        (t.unsettled .composer 0 (.sp c va) n = false → t.badSp va n = true → exec (.cLd rd a z 1 o) s = uncorrectable (lg + 256))) ∧
      (t.lockHit true true va n = false →
        exec (.cSt rd a z 1 o) s =
          .next ((pushWrite s d c { party := .composer, loc := .sp c va, kind := .store n v, va := va }).updComp d c
            fun k => { k with pc := t.comp.pc + 4, walkFail := [] })))


/-- R210 in the space .G: the load reads the located bytes, the store is queued, a failed translation faults. Rests on the model's own choices of logs 16, 18. -/
def Obligations.ComposerGlobalAccess : Prop :=
  ∀ (s : Sys2Proof.Machine.State) (d c : Nat) (t : Sys2Proof.Machine.Team) (rd a : BitVec 5) (z : BitVec 2)
    (o : BitVec 12), CompAt s d c t →
    let n := 2 ^ z.toNat
    let va := (t.comp.reg a + o.signExtend 64).toNat
    let done (s1 : Sys2Proof.Machine.State) (f : Sys2Proof.Machine.Composer → Sys2Proof.Machine.Composer) :=
      Host.Outcome.next (φ := Sys2Proof.Machine.Fault) (ρ := Sys2Proof.Machine.Refusal) (compStepped (s1.updComp d c fun k => { f k with pc := t.comp.pc + 4, walkFail := [] }) d c)
    va % n = 0 →
    ∀ x, (∀ e, translate (s.die d) c .composer t.comp.walkFail va = (x, .ok e) →
        let s1 := s.updDie d fun _ => x
        let l := locAt s1 d e va
        (denied x .load n va e = none → t.lockHit false false va n = false → loadHeld s1 d c t .composer 0 l n = false →
          ∀ s2 v, readAt s1 d l n (pageLl e.leaf) = (s2, .ok v) →
            exec (.cLd rd a z 2 o) s =
              done s2 fun k => k.setReg rd (BitVec.ofNat 64 (if l.isControl then v else t.seen .composer 0 l n v))) ∧
        (denied x .store n va e = none → t.lockHit false true va n = false →
          (l.isCommit = true → t.comp.storeErr = none ∧ t.peerPending .composer = false) →
          exec (.cSt rd a z 2 o) s =
            done (pushWrite s1 d c
              { party := .composer, loc := l, kind := .store n ((t.comp.reg rd).toNat % 256 ^ n), va := va,
                rel := if l.isCommit then some 5 else none, treat := pageLl e.leaf }) id)) ∧
      (∀ e cause, translate (s.die d) c .composer t.comp.walkFail va = (x, .ok e) →
        (denied x .load n va e = some cause →
          exec (.cLd rd a z 2 o) s = .next (takeCompFault (s.updDie d fun _ => x) d c
            { code := Code.GPROT, cause := cause, access := 16 * z.toNat, va := va })) ∧
        (denied x .store n va e = some cause →
          exec (.cSt rd a z 2 o) s = .next (takeCompFault (s.updDie d fun _ => x) d c
            { code := Code.GPROT, cause := cause, access := 1 + 16 * z.toNat, va := va }))) ∧
      (∀ cause, translate (s.die d) c .composer t.comp.walkFail va = (x, .fail cause) →
        cause ≠ Cause.NOWRITE → cause ≠ Cause.NOEXEC → cause ≠ Cause.DEVICEKIND → cause ≠ Cause.UE →
        exec (.cLd rd a z 2 o) s = .next (takeCompFault (s.updDie d fun _ => x) d c
          { code := Code.GXLATE, cause := cause, access := 16 * z.toNat, va := va }) ∧
        exec (.cSt rd a z 2 o) s = .next (takeCompFault (s.updDie d fun _ => x) d c
          { code := Code.GXLATE, cause := cause, access := 1 + 16 * z.toNat, va := va }))

/-- R212, R213, 04 R112 to R114, R139; R388 for an uncorrectable word. Rests on the model's own choices of logs 12, 19. -/
def Obligations.ComposerAtomicAndFence : Prop :=
  ∀ (s : Sys2Proof.Machine.State) (d c : Nat) (t : Sys2Proof.Machine.Team) (rd a b : BitVec 5) (op r k : BitVec 2)
    (z : BitVec 2) (sc : BitVec 3), CompAt s d c t →
    let n := 2 ^ z.toNat
    let va := (t.comp.reg a).toNat
    let x := (t.comp.reg b).toNat % 256 ^ n
    let y := (t.comp.reg rd).toNat % 256 ^ n
    let old := t.sp.read va n
    let new := if op = 0 then (old + x) % 256 ^ n else if op = 1 then x
      else if op = 2 then (if old = y then x else old) else old ||| x
    let wide := decide (2 ≤ sc.toNat)
    let settled : Prop := 3 ≤ sc.toNat → t.comp.storeErr = none ∧ t.peerPending .composer = false
    ((3 ≤ sc.toNat → t.comp.storeErr = none) → (k ≠ 0 → 3 ≤ sc.toNat → t.peerPending .composer = false) →
      (k = 3 → sc.toNat = 1 → t.queued .composer = []) → (k = 3 → 2 ≤ sc.toNat → t.drained .composer = true) →
      (k = 3 → 3 ≤ sc.toNat → clusterHome (s.die d) c = true) →
      ∃ u : Sys2Proof.Machine.Team, exec (.cFence k sc) s = .next (s.updTeam d c fun _ => u) ∧
        u.comp = { t.comp with pc := t.comp.pc + 4, walkFail := [] } ∧ u.sp = t.sp ∧ u.store = t.store ∧
        u.groups.length = t.groups.length ∧ u.ts = t.ts ∧ u.l1 = (if k ≠ 1 ∧ wide = true then [] else t.l1) ∧
        u.sq = if k ≠ 0 ∧ wide = true then t.sq ++ [fenceItem .composer sc.toNat] else t.sq) ∧
    (2 ≤ z.toNat → va % n = 0 → va < t.scratch → t.lockHit true true va n = false →
      (r.getLsbD 1 = true → settled) → spAmoReady (s.die d) t c va n (if r.getLsbD 1 = true then sc.toNat else 0) = true →
      (t.badSp va n = true → ∃ acc, exec (.cAmo rd a b op 1 z r sc) s =
        .next (takeCompFault (reportUe s d) d c { code := Code.GUE, access := acc, va := va })) ∧
      (t.badSp va n = false →
        ∃ u : Sys2Proof.Machine.Team, exec (.cAmo rd a b op 1 z r sc) s = .next (s.updTeam d c fun _ => u) ∧
          u.sp.read va n = new ∧ (∀ q, (q < va ∨ va + n ≤ q) → u.sp.byte q = t.sp.byte q) ∧
          u.comp = { t.comp.setReg rd (BitVec.ofNat 64 old) with pc := t.comp.pc + 4, walkFail := [] } ∧
          u.store = t.store ∧ u.groups.length = t.groups.length ∧ u.sq = t.sq ∧ u.ts = t.ts ∧
          u.l1 = if r.getLsbD 0 = true ∧ wide = true then [] else t.l1)) ∧
    (2 ≤ z.toNat → va % n = 0 → ∀ e x1, translate (s.die d) c .composer t.comp.walkFail va = (x1, .ok e) →
      denied x1 .atomic n va e = none → t.lockHit false true va n = false → (r.getLsbD 1 = true → settled) →
      exec (.cAmo rd a b op 0 z r sc) s =
        .next ((pushWrite (s.updDie d fun _ => x1) d c
            { party := .composer, loc := locAt (s.updDie d fun _ => x1) d e va,
              kind := .atomic (if op = 0 then 0 else if op = 1 then 6 else if op = 2 then 7 else 4) n
                (if n = 8 then Sys2Proof.Fmt.N64 else Sys2Proof.Fmt.N32) x y,
              va := va, rel := if r.getLsbD 1 then some sc.toNat else none, treat := pageLl e.leaf }).updComp d c fun q =>
          { q with wait := .amo rd (r.getLsbD 0 && wide) })) ∧
    (2 ≤ z.toNat → va % n ≠ 0 → ∀ sp, ∃ acc, exec (.cAmo rd a b op sp z r sc) s =
        .next (takeCompFault s d c { code := Code.GMISALIGN, access := acc, va := va }))

/-- R215 to R220, R152: the words that the emission instructions append. Rests on the model's own choices of log 23. -/
def Obligations.EmissionAppendsWords : Prop :=
  ∀ (s : Sys2Proof.Machine.State) (d c : Nat) (t : Sys2Proof.Machine.Team) (o : Sys2Proof.Machine.OpenFrame)
    (a b g : BitVec 5), CompAt s d c t → OpenIs t o → o.words < 4096 →
    (o.words % 64 = 0 → t.freeChunks ≠ []) →
    (o.opened = true → isHeader (t.comp.reg a) = false →
      TeamAfter s (.cEmit a) d c t fun u => Appended t o (t.comp.reg a) false u ∧ CompKept t u) ∧
    (let ofs := (t.comp.reg a).toNat
     let w := BitVec.ofNat 64 (t.store.read ofs 8)
     let x := t.store.read (ofs + 8) 8
     let p := patchOf x
     ofs % 16 = 0 → ofs < 0x20000 →
      (t.badStore ofs 16 = true → exec (.cEmitt a b g) s =
        .next (takeCompFault (reportUe s d) d c { code := Code.GUE, access := templateAccess, va := ofs })) ∧
     (t.badStore ofs 16 = false → o.opened = true → isHeader w = false → patchOk x = true →
     isHeader (patchField (patchField (rebase t.comp.bbase w) (t.comp.reg b) p.l1 p.w1) (t.comp.reg g) p.l2 p.w2) = false →
      TeamAfter s (.cEmitt a b g) d c t fun u =>
        Appended t o (patchField (patchField (rebase t.comp.bbase w) (t.comp.reg b) p.l1 p.w1) (t.comp.reg g) p.l2 p.w2) false u ∧
        CompKept t u)) ∧
    (t.comp.reg g = 0 → t.comp.pend = none → TeamAfter s (.cEmitr a b g) d c t fun u => u.opened = t.opened ∧ CompKept t u) ∧
    (∀ i, i < (t.comp.reg g).toNat → (i = 0 → t.comp.pend = none) → (i ≠ 0 → t.comp.pend = some { i := i }) →
      let w := t.comp.reg a + BitVec.ofNat 64 i * t.comp.reg b
      o.opened = true → isHeader w = false →
      ∃ u, exec (.cEmitr a b g) s = .next (s.updTeam d c fun _ => u) ∧ Appended t o w false u ∧
        u.comp = (if i + 1 = (t.comp.reg g).toNat then { t.comp with pend := none, pc := t.comp.pc + 4, walkFail := [] }
          else { t.comp with pend := some { i := i + 1 } })) ∧
    (let h := t.comp.reg a
     headerOk h = true → h.extractLsb' 44 12 = 0 → h.extractLsb' 0 12 = 0 →
      ((o.opened = true → 2 ≤ openLen o) →
        TeamAfter s (.cEmith a) d c t fun u =>
          Appended (closedTeam t o) { o with opened := false } (h ||| BitVec.ofNat 64 o.starts.length) true u ∧ CompKept t u) ∧
      (o.opened = true → openLen o ≤ 1 →
        exec (.cEmith a) s = .next (takeCompFault s d c { code := Code.FRAMING })))

/-- R222, R223. Rests on the model's own choices of log 23. -/
def Obligations.TemplateBlocksAndSeal : Prop :=
  ∀ (s : Sys2Proof.Machine.State) (d c : Nat) (t : Sys2Proof.Machine.Team) (o : Sys2Proof.Machine.OpenFrame)
    (rd a b : BitVec 5), CompAt s d c t → OpenIs t o →
    let room := o.words < 4096 ∧ (o.words % 64 = 0 → t.freeChunks ≠ [])
    (let ofs := (t.comp.reg a).toNat
     let m := (t.comp.reg b).toNat
     let h := BitVec.ofNat 64 (t.store.read ofs 8)
     let n := if Sys2Proof.Bits.field h.toNat 44 12 = 0 then 4096 else Sys2Proof.Bits.field h.toNat 44 12
     room → (o.opened = true → 2 ≤ openLen o) → t.comp.pend = none → ofs % 16 = 0 → ofs < 0x20000 → 1 ≤ m → m ≤ 4096 →
     t.badStore ofs 16 = false → headerOk h = true →
     n ≠ 1 → (Sys2Proof.Bits.field h.toNat 0 12 + t.comp.bbase.toNat) % 4096 = o.starts.length →
      ∃ u, exec (.cEmitb a b) s = .next (s.updTeam d c fun _ => u) ∧
        Appended (closedTeam t o) { o with opened := false }
          (BitVec.ofNat 64 (Sys2Proof.Bits.setField (rebase t.comp.bbase h).toNat 0 12 o.starts.length)) true u ∧
        u.comp = { t.comp with pend := some { i := 1, ofs := ofs + 16, blocks := m - 1, left := n - 1 } }) ∧
    (o.opened = true → openLen o ≤ 1 → t.opened = some o →
      exec (.cSeal rd) s = .next (takeCompFault s d c { code := Code.FRAMING }) ∧
      (t.comp.pend = none → (t.comp.reg a).toNat % 16 = 0 → 1 ≤ (t.comp.reg b).toNat → (t.comp.reg b).toNat ≤ 4096 →
        exec (.cEmitb a b) s = .next (takeCompFault s d c { code := Code.FRAMING }))) ∧
    (∀ p, t.comp.pend = some p → p.left = 0 → p.blocks ≠ 0 → p.ofs + 16 ≤ 0x20000 → t.badStore p.ofs 16 = false →
      let h := BitVec.ofNat 64 (t.store.read p.ofs 8)
      let n := if Sys2Proof.Bits.field h.toNat 44 12 = 0 then 4096 else Sys2Proof.Bits.field h.toNat 44 12
      room → o.opened = false → headerOk h = true → n ≠ 1 →
      (Sys2Proof.Bits.field h.toNat 0 12 + t.comp.bbase.toNat) % 4096 = o.starts.length →
      ∃ u, exec (.cEmitb a b) s = .next (s.updTeam d c fun _ => u) ∧
        Appended t o (BitVec.ofNat 64 (Sys2Proof.Bits.setField (rebase t.comp.bbase h).toNat 0 12 o.starts.length)) true u ∧
        u.comp = { t.comp with pend := some { i := p.i + 1, ofs := p.ofs + 16, blocks := p.blocks - 1, left := n - 1 } }) ∧
    (∀ p, t.comp.pend = some p → 1 < p.left → room → p.ofs + 16 ≤ 0x20000 → t.badStore p.ofs 16 = false → o.opened = true →
      let w := BitVec.ofNat 64 (t.store.read p.ofs 8)
      isHeader w = false → isHeader (rebase t.comp.bbase w) = false →
      ∃ u, exec (.cEmitb a b) s = .next (s.updTeam d c fun _ => u) ∧ Appended t o (rebase t.comp.bbase w) false u ∧
        u.comp = { t.comp with pend := some { i := p.i + 1, ofs := p.ofs + 16, blocks := p.blocks, left := p.left - 1 } }) ∧
    (∀ p, t.comp.pend = some p → p.ofs + 16 ≤ 0x20000 → t.badStore p.ofs 16 = true →
      exec (.cEmitb a b) s = .next (takeCompFault (reportUe s d) d c
        { code := Code.GUE, access := templateAccess, va := p.ofs, woff := p.i })) ∧
    (∀ p, t.comp.pend = some p → p.left = 1 → room → p.ofs + 16 ≤ 0x20000 → t.badStore p.ofs 16 = false →
      o.opened = true →
      let w := BitVec.ofNat 64 (t.store.read p.ofs 8)
      isHeader w = false → isHeader (rebase t.comp.bbase w) = false →
      ∃ u, exec (.cEmitb a b) s = .next (s.updTeam d c fun _ => u) ∧
        (∃ v, Appended t o (rebase t.comp.bbase w) false v ∧ u.fb = v.fb ∧ u.prov = v.prov ∧
          u.opened = v.opened.map fun x => { x with opened := false }) ∧
        u.comp = (if p.blocks = 0 then { t.comp with pend := none, pc := t.comp.pc + 4, walkFail := [] }
          else { t.comp with pend := some { i := p.i + 1, ofs := p.ofs + 16, blocks := p.blocks, left := 0 } })) ∧
    (∀ k, t.opened = some o → (o.opened = true → 2 ≤ openLen o) → t.freeFrame = some k → k < t.frames.length →
      TeamAfter s (.cSeal rd) d c t fun u =>
        u.frames[k]? = some { st := .sealed, gen := t.comp.fgen, chunks := o.chunks, words := o.words, starts := o.starts } ∧
        (∀ j, j ≠ k → u.frames[j]? = t.frames[j]?) ∧ u.opened = none ∧ u.fb = (closedTeam t o).fb ∧ u.prov = t.prov ∧
        u.comp = { t.comp.setReg rd (BitVec.ofNat 64 k) with fgen := t.comp.fgen + 1, pc := t.comp.pc + 4, walkFail := [] })

/-- R215, R218: where EMIT emits and where it faults. -/
def Obligations.EmissionFaults : Prop :=
  ∀ (s : Sys2Proof.Machine.State) (d c : Nat) (t : Sys2Proof.Machine.Team) (a b g : BitVec 5), CompAt s d c t →
    let stopped (access va cause code : Nat) := Host.Outcome.next (φ := Sys2Proof.Machine.Fault) (ρ := Sys2Proof.Machine.Refusal)
      (takeCompFault s d c { code, cause, access, va })
    ((t.opened = none ∨ (∃ o, t.opened = some o ∧ o.opened = false) ∨ isHeader (t.comp.reg a) = true) →
      exec (.cEmit a) s = stopped 0 0 0 Code.FRAMING) ∧
    (∀ o, t.opened = some o → o.opened = true → isHeader (t.comp.reg a) = false → o.words < 4096 →
      (o.words % 64 = 0 → t.freeChunks ≠ []) →
      TeamAfter s (.cEmit a) d c t fun u => Appended t o (t.comp.reg a) false u) ∧
    ((t.comp.reg a).toNat % 16 ≠ 0 →
      exec (.cEmitt a b g) s = stopped templateAccess (t.comp.reg a).toNat 0 Code.GMISALIGN) ∧
    ((t.comp.reg a).toNat % 16 = 0 → 0x20000 ≤ (t.comp.reg a).toNat →
      exec (.cEmitt a b g) s = stopped templateAccess (t.comp.reg a).toNat Cause.OUTSIDE Code.GXLATE) ∧
    (t.comp.pend = none → t.opened = none ∨ (∃ o, t.opened = some o ∧ o.opened = false) → t.comp.reg g ≠ 0 →
      ∃ u, exec (.cEmitr a b g) s = .next u ∧ ∃ t', u.team? d c = some t' ∧ t'.comp.stat = .stopped ∧
        t'.comp.frec.code = Code.FRAMING ∧ t'.comp.frec.woff = 0)


/-- R225: RUN. -/
def Obligations.RunStartsTheRange : Prop :=
  ∀ (s : Sys2Proof.Machine.State) (d c : Nat) (t : Sys2Proof.Machine.Team) (a b : BitVec 5), CompAt s d c t →
    b.toNat ≤ 24 →
    let w := t.comp.reg a
    let fid := Sys2Proof.Bits.field w.toNat 32 4
    let entry := Sys2Proof.Bits.field w.toNat 48 12
    let first := Sys2Proof.Bits.field w.toNat 0 9
    let count := Sys2Proof.Bits.field w.toNat 16 9
    let f := t.frames.getD fid {}
    let wordOk := count ≠ 0 ∧ first + count ≤ t.groups.length ∧ Sys2Proof.Bits.field w.toNat 9 7 = 0 ∧
      Sys2Proof.Bits.field w.toNat 25 7 = 0 ∧ Sys2Proof.Bits.field w.toNat 36 12 = 0 ∧ Sys2Proof.Bits.field w.toNat 60 4 = 0
    let frameOk := (f.st = .sealed ∨ f.st = .running) ∧ entry < f.blocks
    (¬ (wordOk ∧ frameOk) → exec (.cRun a b) s = .next (takeCompFault s d c { code := Code.FRAMING })) ∧
    (wordOk → frameOk → (∃ k x, k < count ∧ t.groups[first + k]? = some x ∧ x.st = .running) →
      exec (.cRun a b) s = .next s) ∧
    (wordOk → frameOk → (∀ (k : Nat) (x : Sys2Proof.Machine.Group), k < count → t.groups[first + k]? = some x → x.st ≠ .running) →
      (∃ k x, k < count ∧ t.groups[first + k]? = some x ∧ x.st = .stopped) →
      exec (.cRun a b) s = .next (takeCompFault s d c { code := Code.FRAMING })) ∧
    (wordOk → frameOk → (∀ (k : Nat) (x : Sys2Proof.Machine.Group), k < count → t.groups[first + k]? = some x → x.st = .idle) →
      TeamAfter s (.cRun a b) d c t fun u =>
        u.comp = { t.comp with pc := t.comp.pc + 4, walkFail := [] } ∧
        (∀ (k : Nat) (x : Sys2Proof.Machine.Group), k < count → t.groups[first + k]? = some x → ∃ y : Sys2Proof.Machine.Group, u.groups[first + k]? = some y ∧
          y.st = .running ∧ y.frame = some fid ∧ y.code = 0 ∧ y.spill = [] ∧ y.nest = [] ∧ y.latch = none ∧
          y.pc0 = { st := .live, mask := BitVec.allOnes 32, mark := 0xFFF, block := entry, word := 1, since := y.pc0.since } ∧
          y.pc1 = {} ∧ y.v = x.v ∧ y.x = x.x ∧ y.e = x.e ∧ y.asf = x.asf ∧ y.ate = x.ate ∧
          (∀ j, j < 8 → y.wreg (48 + j) = (t.comp.reg (BitVec.ofNat 5 (b.toNat + j))).truncate 32) ∧
          (∀ j, j < 48 ∨ 56 ≤ j → y.wreg j = x.wreg j)) ∧
        (∀ (k : Nat) (x : Sys2Proof.Machine.Group), (k < first ∨ first + count ≤ k) → t.groups[k]? = some x →
          ∃ y : Sys2Proof.Machine.Group, u.groups[k]? = some y ∧ y = { x with loads := y.loads } ∧ LoadsBarred x.loads y.loads) ∧
        u.frames[fid]? = some { f with st := .running } ∧
        (∀ k, k ≠ fid → u.frames[k]? = t.frames[k]?))

/-- R227, and R226 of WAITF. -/
def Obligations.FramesWaitedForAndFreed : Prop :=
  ∀ (s : Sys2Proof.Machine.State) (d c : Nat) (t : Sys2Proof.Machine.Team) (a b : BitVec 5), CompAt s d c t →
    let f := (t.comp.reg a).toNat
    let fr := t.frames.getD f {}
    let framing := Host.Outcome.next (φ := Sys2Proof.Machine.Fault) (ρ := Sys2Proof.Machine.Refusal)
      (takeCompFault s d c { code := Code.FRAMING })
    (15 < f ∨ fr.st = .free → exec (.cFree a) s = framing) ∧
    (f ≤ 15 → fr.st ≠ .free →
      TeamAfter s (.cFree a) d c t fun u => CompKept t u ∧
        u.frames[f]? = some (match fr.st with
          | .sealed => { gen := fr.gen }
          | .running => { fr with st := .releasing }
          | _ => fr) ∧
        (∀ k, k ≠ f → u.frames[k]? = t.frames[k]?) ∧ u.groups = t.groups) ∧
    (15 < f ∨ plainRangeOk t (t.comp.reg b) = false → exec (.cWaitf a b) s = framing) ∧
    (f ≤ 15 → plainRangeOk t (t.comp.reg b) = true →
      ((rangeGroups t (t.comp.reg b)).all (fun x => x.frame ≠ some f) = true →
        TeamAfter s (.cWaitf a b) d c t fun u => CompKept t u ∧ u.frames = t.frames ∧
          ∀ (k : Nat) (x : Sys2Proof.Machine.Group), t.groups[k]? = some x → ∃ y : Sys2Proof.Machine.Group, u.groups[k]? = some y ∧ y = { x with loads := y.loads } ∧ LoadsBarred x.loads y.loads) ∧
      ((rangeGroups t (t.comp.reg b)).all (fun x => x.frame ≠ some f) = false →
        (t.comp.evq ≠ [] → exec (.cWaitf a b) s = compAfter s d c (t.comp.pc + 4) id) ∧
        (t.comp.evq = [] → exec (.cWaitf a b) s = .next s)))

/-- R228, R229, R232. Rests on the model's own choices of logs 8 (what a fault holds back, and a full/empty load that STOP and KILL
give up) and 23. -/
def Obligations.GroupsControlled : Prop :=
  ∀ (s : Sys2Proof.Machine.State) (d c : Nat) (t : Sys2Proof.Machine.Team) (a : BitVec 5), CompAt s d c t →
    let w := t.comp.reg a
    let first := Sys2Proof.Bits.field w.toNat 0 9
    let count := Sys2Proof.Bits.field w.toNat 16 9
    let framing := Host.Outcome.next (φ := Sys2Proof.Machine.Fault) (ρ := Sys2Proof.Machine.Refusal)
      (takeCompFault s d c { code := Code.FRAMING })
    (plainRangeOk t w = false → exec (.cGctlStop a) s = framing ∧ exec (.cGctlResume a) s = framing ∧
      exec (.cGctlStep a) s = framing ∧ exec (.cGctlKill a) s = framing) ∧
    (plainRangeOk t w = true → (rangeGroups t w).all (fun x => !x.inFlight false && !x.arriving) = true →
      CompAfter s (.cGctlStop a) d c t (fun _ u => CompKept t u ∧ ∀ (k : Nat) (x : Sys2Proof.Machine.Group), t.groups[k]? = some x →
        ∃ y : Sys2Proof.Machine.Group, u.groups[k]? = some y ∧
          (if first ≤ k ∧ k < first + count ∧ x.st = .running then
            y.st = .stopped ∧ y.code = 0 ∧ y.v = x.v ∧ y.w = x.w ∧ y.frame = x.frame else y = x)) ∧
      CompAfter s (.cGctlKill a) d c t (fun _ u => u.comp.g = t.comp.g ∧ ∀ (k : Nat) (x : Sys2Proof.Machine.Group), t.groups[k]? = some x →
        ∃ y : Sys2Proof.Machine.Group, u.groups[k]? = some y ∧
          (if first ≤ k ∧ k < first + count ∧ x.st ≠ .idle then
            y.st = .idle ∧ y.frame = none ∧ y.v = x.v ∧ y.w = x.w ∧ ∀ r, .fault k r ∉ u.comp.evq ∧ .step k r ∉ u.comp.evq
          else y = x))) ∧
    (plainRangeOk t w = true →
      let post (stepped : Bool) (_ : Sys2Proof.Machine.State) (u : Sys2Proof.Machine.Team) :=
        u.comp.g = t.comp.g ∧ ∀ (k : Nat) (x : Sys2Proof.Machine.Group), t.groups[k]? = some x → ∃ y : Sys2Proof.Machine.Group, u.groups[k]? = some y ∧
          (if first ≤ k ∧ k < first + count then
            (Resumable x → y = { x with st := .running, step := stepped, heldFrom := none }) ∧ (x.st ≠ .stopped → y = x) else y = x)
      CompAfter s (.cGctlResume a) d c t (post false) ∧ CompAfter s (.cGctlStep a) d c t (post true)) ∧
    CompAfter s .cEret d c t (fun _ u => u.comp.g = t.comp.g ∧ ∀ (k : Nat) (x : Sys2Proof.Machine.Group), t.groups[k]? = some x →
      ∃ y : Sys2Proof.Machine.Group, u.groups[k]? = some y ∧
        (if k = t.comp.evgrp.toNat then
          (Resumable x → y = { x with st := .running, step := false, heldFrom := none }) ∧ (x.st ≠ .stopped → y = x) else y = x))

/-- R231, R238, R239. Rests on the model's own choices of log 23. -/
def Obligations.EventsAndEnds : Prop :=
  ∀ (s : Sys2Proof.Machine.State) (d c : Nat) (t : Sys2Proof.Machine.Team) (rd : BitVec 5) (i : BitVec 16),
    CompAt s d c t →
    (∀ g kind rest r, (t.comp.evq = .fault g r :: rest ∧ kind = 2 ∨ t.comp.evq = .step g r :: rest ∧ kind = 3) →
      TeamAfter s (.cEvwait rd) d c t fun u =>
        u.comp = { t.comp.setReg rd (BitVec.ofNat 64 (kind + r.fid % 16 * 2 ^ 4 + r.group % 512 * 2 ^ 16 +
            r.code % 256 * 2 ^ 32 + r.slot % 2 * 2 ^ 40)) with
          evq := rest, evgrp := BitVec.ofNat 9 g, pc := t.comp.pc + 4, walkFail := [] } ∧
        u.store.read (64 * Sys2Proof.Bits.field t.comp.evctl.toNat 6 11) 64 = r.word % 256 ^ 64 ∧
        ∀ q, (q < 64 * Sys2Proof.Bits.field t.comp.evctl.toNat 6 11 ∨ 64 * Sys2Proof.Bits.field t.comp.evctl.toNat 6 11 + 64 ≤ q) →
          u.store.byte q = t.store.byte q) ∧
    (∀ f n rest, t.comp.evq = .frame f n :: rest →
      exec (.cEvwait rd) s = compAfter s d c (t.comp.pc + 4) fun k =>
        { k.setReg rd (BitVec.ofNat 64 (1 + f % 16 * 2 ^ 4 + n % 256 * 2 ^ 8)) with evq := rest }) ∧
    (t.comp.evq = [] → (∀ x ∈ t.groups, x.st ≠ .running) →
      (t.comp.evctl.getLsbD 0 = false ∨ ∀ f ∈ t.frames, f.st ≠ .running) →
      exec (.cEvwait rd) s = compAfter s d c (t.comp.pc + 4) fun k => k.setReg rd 0) ∧
    (t.comp.evq = [] → (∃ x ∈ t.groups, x.st = .running) → exec (.cEvwait rd) s = .next s) ∧
    CompAfter s (.cBrkc i) d c t (fun s' u => u.comp.stat = .stopped ∧ u.comp.g = t.comp.g ∧
      u.comp.frec = compRecord s d c { code := Code.GBRK, access := i.toNat } ∧ u.comp.frec.cpc = t.comp.pc.toNat ∧
      u.groups = t.groups ∧ (s'.die d).faultSlots.find? c = some u.comp.frec ∧
      (s.pkg.events.length < 1024 → .fault d c t.key.q u.comp.frec ∈ s'.pkg.events)) ∧
    exec .cDone s = compAfter s d c (t.comp.pc + 4) fun k => { k with stat := .done }

/-- R233 to R236. Rests on the model's own choices of logs 12, 36, 41. -/
def Obligations.WorkShapesAndDependences : Prop :=
  ∀ (s : Sys2Proof.Machine.State) (d c : Nat) (t : Sys2Proof.Machine.Team) (rd a : BitVec 5), CompAt s d c t →
    let slot := (t.comp.reg a).toNat % 64
    let ofs := (t.comp.reg a).toNat - slot
    (usesList s d t = false ∨ (rd ≠ 0 ∧ rd.toNat ≤ 29) →
      exec (.cWfetch rd) s = .next (s.updComp d c fun k => { k with wait := .fetch rd (s.pkg.mclk + 96) })) ∧
    (usesList s d t = true → (rd = 0 ∨ 29 < rd.toNat) →
      exec (.cWfetch rd) s = .next (takeCompFault s d c { code := Code.GILLOP })) ∧
    (ofs + 64 ≤ 0x20000 → t.badStore ofs 64 = true → exec (.cMkshp rd a) s =
      .next (takeCompFault (reportUe s d) d c { code := Code.GUE, access := 864, va := ofs })) ∧
    (ofs + 64 ≤ 0x20000 → t.badStore ofs 64 = false → ∀ h, shapeOf (t.store.read ofs 64) = some h →
      TeamAfter s (.cMkshp rd a) d c t fun u =>
        u.comp = { t.comp.setReg rd (BitVec.ofNat 64 slot) with pc := t.comp.pc + 4, walkFail := [] } ∧
        (∀ k, u.shapes.find? k = if k = slot then some h else t.shapes.find? k) ∧
        u.store = t.store ∧ u.groups = t.groups) ∧
    (ofs + 64 ≤ 0x20000 → t.badStore ofs 64 = false → shapeOf (t.store.read ofs 64) = none →
      exec (.cMkshp rd a) s = .next (takeCompFault s d c { code := Code.SHAPEDEF })) ∧
    (0x20000 < ofs + 64 → exec (.cMkshp rd a) s =
      .next (takeCompFault s d c { code := Code.GXLATE, cause := Cause.OUTSIDE, access := 864, va := ofs })) ∧
    ((t.ltrigSent = false → t.comp.storeErr = none) →
      TeamAfter s .cLtrig d c t fun u => CompKept t u ∧ u.ltrigSent = true ∧ u.groups = t.groups ∧
        u.sq = if t.ltrigSent then t.sq
          else t.sq ++ [{ party := .composer, loc := .hbm 0, kind := .ltrig, rel := some 3 }]) ∧
    ((s.die d).launch? t.key = none ∨ (∃ l, (s.die d).launch? t.key = some l ∧ Pkt.depv l.pkt = false) →
      TeamAfter s .cDepwait d c t fun u => CompKept t u ∧ u.l1 = [] ∧ u.sp = t.sp ∧ u.store = t.store)

/-- R237, Table 7.9. -/
def Obligations.ComposerSpecialRegisters : Prop :=
  ∀ (s : Sys2Proof.Machine.State) (d c : Nat) (t : Sys2Proof.Machine.Team) (rd a : BitVec 5) (n : BitVec 12),
    CompAt s d c t →
    let x := t.comp.reg a
    let k := n.toNat
    let die := s.die d
    let reads : Option Sys2Proof.Word64 :=
      if k = 0x000 then some (BitVec.ofNat 64 (c % 256 + die.physOf c * 2 ^ 8 + d % 4 * 2 ^ 18))
      else if k = 0x001 then some t.rect
      else if k = 0x002 then some t.cfg
      else if k = 0x003 then some (BitVec.ofNat 64 s.tick)
      else if k = 0x004 then some t.comp.cycle
      else if k = 0x010 then some (t.comp.bbase.zeroExtend 64)
      else if k = 0x011 then some (t.comp.fgen.zeroExtend 64)
      else if k = 0x012 then some (fstat t)
      else if k = 0x020 then some t.comp.fvec
      else if k = 0x021 then some t.comp.evctl
      else if k = 0x022 then some (t.comp.evgrp.zeroExtend 64)
      else if k = 0x023 then some (BitVec.ofNat 64 t.comp.evq.length)
      else if k = 0x030 then some ((die.swp.getD (die.clusterOf c) 0).zeroExtend 64)
      else if k = 0x031 then some die.chg
      else none
    (exec (.cMfs rd n) s = match reads with
      | some v => compAfter s d c (t.comp.pc + 4) fun q => q.setReg rd v
      | none => .next (takeCompFault s d c { code := Code.GILLOP })) ∧
    (exec (.cMts a n) s =
      if k = 0x010 then compAfter s d c (t.comp.pc + 4) fun q => { q with bbase := x.truncate 12 }
      else if k = 0x020 then compAfter s d c (t.comp.pc + 4) fun q => { q with fvec := x &&& 0x1F_FFFE }
      else if k = 0x021 then compAfter s d c (t.comp.pc + 4) fun q => { q with evctl := x &&& 0x1_FFC1 }
      else if k = 0x022 then compAfter s d c (t.comp.pc + 4) fun q => { q with evgrp := x.truncate 9 }
      else .next (takeCompFault s d c { code := Code.GILLOP }))


/-- R246 to R251, R241, R242: all 25 integer instructions and their .W forms. -/
def Obligations.LaneIntegerResults : Prop :=
  ∀ (s : Sys2Proof.Machine.State) (d c g sl : Nat) (t : Sys2Proof.Machine.Team) (x : Sys2Proof.Machine.Group)
    (o : Sys2Proof.VOps) (op : Sys2Proof.IntOp),
    let base : Sys2Proof.Instr := match op with
      | .iadd => .lIadd o | .isub => .lIsub o | .imul => .lImul o | .imulh => .lImulh o | .imad => .lImad o
      | .imin => .lImin o | .imax => .lImax o | .iabs => .lIabs o | .idot4 => .lIdot4 o | .and => .lAnd o
      | .or => .lOr o | .xor => .lXor o | .andn => .lAndn o | .not => .lNot o | .shl => .lShl o | .shr => .lShr o
      | .sha => .lSha o | .rotl => .lRotl o | .popc => .lPopc o | .clz => .lClz o | .brev => .lBrev o
      | .bfe => .lBfe o | .bfi => .lBfi o | .icmp => .lIcmp o | .sel => .lSel o
    let post (y : Sys2Proof.Machine.Group) : Prop :=
      SidesKept x y ∧
      if Sys2Proof.Fmt.is64 o.fmt = true ∧ op ≠ .icmp then
        WrotePair x y (x.active sl) o.dst.toNat (intResult op o x)
      else Wrote x y (x.active sl) o.dst.toNat fun st => BitVec.ofNat 32 (intResult op o x st)
    let w := Sys2Proof.Fmt.elemBits o.fmt
    let el := intElem op (Sys2Proof.Fmt.isSigned o.fmt) (o.qual.getLsbD 4) o.sc.toNat w
    let a (st : Nat) := (x.operand st o.sa.toNat).toNat
    let k (st : Nat) := (x.operand st o.sc.toNat).toNat
    (LaneAt s d c g sl t x .vector ((s.die d).priceOf 0) → Completes s base d c g x post) ∧
    (LaneAt s d c g sl t x .vector ((s.die d).priceOf 1) → Completes s (.lWform op o) d c g x post) ∧
    (Sys2Proof.Fmt.is64 o.fmt = false → (w = 8 ∨ w = 16 ∨ w = 32) → op ≠ .idot4 → ∀ st p, p < 32 / w →
      elem (intResult op o x st) w p = el (elem (a st) w p) (elem (x.srcB o st) w p) (elem (k st) w p) % 2 ^ w) ∧
    (Sys2Proof.Fmt.is64 o.fmt = false → op = .idot4 → ∀ st, intResult op o x st =
      idot4 (Sys2Proof.Fmt.isSigned o.fmt) (o.qual.getLsbD 4) (a st) (x.srcB o st) (k st)) ∧
    (Sys2Proof.Fmt.is64 o.fmt = true → op ≠ .idot4 → ∀ st,
      let r := el (x.operandPair st o.sa.toNat)
        (if op = .shl ∨ op = .shr ∨ op = .sha then x.srcB o st else x.srcBPair o st) 0
      intResult op o x st = if op = .icmp then r % 2 ^ 32 else r)

/-- R246, R248 to R250: what each instruction does to one element. -/
def Obligations.IntegerElementRules : Prop :=
  ∀ (sg sat : Bool) (sc w a b c : Nat), (w = 8 ∨ w = 16 ∨ w = 32 ∨ w = 64) → a < 2 ^ w → b < 2 ^ w → c < 2 ^ w →
    let val (v : Nat) : Int := if sg = true ∧ 2 ^ (w - 1) ≤ v then (v : Int) - 2 ^ w else v
    let lo : Int := if sg then -2 ^ (w - 1) else 0
    let hi : Int := if sg then 2 ^ (w - 1) - 1 else 2 ^ w - 1
    let out (z : Int) : Nat := ((if sat then max lo (min hi z) else z) % 2 ^ w).toNat
    intElem .iadd sg sat sc w a b c = out (val a + val b) ∧
    intElem .isub sg sat sc w a b c = out (val a - val b) ∧
    intElem .imul sg sat sc w a b c = out (val a * val b) ∧
    intElem .imad sg sat sc w a b c = out (val a * val b + val c) ∧
    intElem .iabs sg sat sc w a b c = out (val a).natAbs ∧
    val (intElem .imin sg sat sc w a b c) = min (val a) (val b) ∧
    val (intElem .imax sg sat sc w a b c) = max (val a) (val b) ∧
    (∀ j, (intElem .and sg sat sc w a b c).testBit j = (a.testBit j && b.testBit j) ∧
      (intElem .or sg sat sc w a b c).testBit j = (a.testBit j || b.testBit j) ∧
      (intElem .xor sg sat sc w a b c).testBit j = (a.testBit j ^^ b.testBit j) ∧
      (intElem .andn sg sat sc w a b c).testBit j = (a.testBit j && !b.testBit j) ∧
      (intElem .not sg sat sc w a b c).testBit j = (decide (j < w) && !a.testBit j)) ∧
    (let holds : Prop := (sc = 0 ∧ val a = val b) ∨ (sc = 1 ∧ val a ≠ val b) ∨ (sc = 2 ∧ val a < val b) ∨
        (sc = 3 ∧ val a ≤ val b) ∨ (sc = 4 ∧ val b < val a) ∨ (sc = 5 ∧ val b ≤ val a)
     sc ≤ 5 → (holds → intElem .icmp sg sat sc w a b c = 2 ^ w - 1) ∧ (¬ holds → intElem .icmp sg sat sc w a b c = 0)) ∧
    (intElem .sel sg sat sc w a b c = if c = 0 then b else a) ∧
    (w = 32 →
      let pos := b % 256
      let len := b / 256 % 256
      let m := min len (32 - pos)
      let r := intElem .clz sg sat sc 32 a b c
      intElem .imulh sg sat sc 32 a b c = (val a * val b / 2 ^ 32 % 2 ^ 32).toNat ∧
      intElem .popc sg sat sc 32 a b c = ((List.range 32).filter fun j => a.testBit j).length ∧
      (r ≤ 32 ∧ a < 2 ^ (32 - r) ∧ (r < 32 → 2 ^ (31 - r) ≤ a)) ∧
      (∀ j, (intElem .brev sg sat sc 32 a b c).testBit j = (decide (j < 32) && a.testBit (31 - j))) ∧
      (len = 0 ∨ 32 ≤ pos → intElem .bfe sg sat sc 32 a b c = 0) ∧
      (len ≠ 0 → pos < 32 → intElem .bfe sg sat sc 32 a b c =
        let v := a / 2 ^ pos % 2 ^ m
        if sg = true ∧ v.testBit (m - 1) = true then v + 2 ^ 32 - 2 ^ m else v) ∧
      (∀ j, (intElem .bfi sg sat sc 32 a b c).testBit j =
        if pos ≤ j ∧ j < pos + m then a.testBit (j - pos) else c.testBit j)) ∧
    (∀ p q r : Nat, p < 2 ^ 32 → q < 2 ^ 32 → r < 2 ^ 32 →
      let s8 (v k : Nat) : Int := if sg = true ∧ 128 ≤ v / 256 ^ k % 256 then (v / 256 ^ k % 256 : Nat) - 256 else (v / 256 ^ k % 256 : Nat)
      let s32 : Int := if sg = true ∧ 2 ^ 31 ≤ r then (r : Int) - 2 ^ 32 else r
      let z := s32 + s8 p 0 * s8 q 0 + s8 p 1 * s8 q 1 + s8 p 2 * s8 q 2 + s8 p 3 * s8 q 3
      let lo32 : Int := if sg then -2 ^ 31 else 0
      let hi32 : Int := if sg then 2 ^ 31 - 1 else 2 ^ 32 - 1
      idot4 sg sat p q r = ((if sat then max lo32 (min hi32 z) else z) % 2 ^ 32).toNat)

/-- R247. -/
def Obligations.ShiftCountRules : Prop :=
  ∀ (x : Sys2Proof.Machine.Group) (o : Sys2Proof.VOps) (st : Nat),
    let w := Sys2Proof.Fmt.elemBits o.fmt
    let sgn (n v : Nat) : Int := if 2 ^ (n - 1) ≤ v then (v : Int) - 2 ^ n else v
    let shl (n v k : Nat) : Nat := if n ≤ k then 0 else v * 2 ^ k % 2 ^ n
    let shr (n v k : Nat) : Nat := if n ≤ k then 0 else v / 2 ^ k
    let sha (n v k : Nat) : Nat :=
      if n ≤ k then (if 2 ^ (n - 1) ≤ v then 2 ^ n - 1 else 0) else (sgn n v / 2 ^ k % 2 ^ n).toNat
    (w = 8 ∨ w = 16 ∨ w = 32 → Sys2Proof.Fmt.is64 o.fmt = false → ∀ p, p < 32 / w →
      let a := elem (x.operand st o.sa.toNat).toNat w p
      let k := elem (x.srcB o st) w p % 256
      elem (intResult .shl o x st) w p = shl w a k ∧ elem (intResult .shr o x st) w p = shr w a k ∧
      elem (intResult .sha o x st) w p = sha w a k ∧
      (w = 32 → ∀ j, j < 32 → (elem (intResult .rotl o x st) w p).testBit ((j + k) % 32) = a.testBit j)) ∧
    (w = 64 → Sys2Proof.Fmt.is64 o.fmt = true →
      let a := x.operandPair st o.sa.toNat
      let k := x.srcB o st % 256
      intResult .shl o x st = shl 64 a k ∧ intResult .shr o x st = shr 64 a k ∧ intResult .sha o x st = sha 64 a k)

/-- R252 to R254. Rests on the model's own choices of logs 20, 32. -/
def Obligations.LaneFloatResults : Prop :=
  ∀ (s : Sys2Proof.Machine.State) (d c g sl : Nat) (t : Sys2Proof.Machine.Team) (x : Sys2Proof.Machine.Group)
    (o : Sys2Proof.VOps),
    let ff := fltFmt o
    let m := modeOf o
    let fz := Sys2Proof.Checks.fz o
    let w := fltWidth o
    let a (st p : Nat) := elem (x.operand st o.sa.toNat).toNat w p
    let b (st p : Nat) := elem (x.srcB o st) w p
    let k (st p : Nat) := elem (x.operand st o.sc.toNat).toNat w p
    let raised (r : Nat → Sys2Proof.Fl.FRes) : BitVec 5 :=
      ((List.range 32).filter fun st => (x.active sl).getLsbD st).foldl (fun fl st => fl ||| (r st).fl) 0
    let post (f : Nat → Nat → Sys2Proof.Fl.FRes) (y : Sys2Proof.Machine.Group) : Prop :=
      Wrote x y (x.active sl) o.dst.toNat (fun st => BitVec.ofNat 32 (perElem o (f st)).w) ∧
      y.asf = x.asf ||| raised (fun st => perElem o (f st)) ∧ y.x = x.x ∧ y.e = x.e
    (LaneAt s d c g sl t x .vector ((s.die d).priceOf (fltEntry o)) →
      Completes s (.lFadd o) d c g x (post fun st p => Sys2Proof.Machine.Fl32.add ff m fz (a st p) (b st p)) ∧
      Completes s (.lFsub o) d c g x (post fun st p => Sys2Proof.Machine.Fl32.sub ff m fz (a st p) (b st p)) ∧
      Completes s (.lFmul o) d c g x (post fun st p => Sys2Proof.Machine.Fl32.mul ff m fz (a st p) (b st p)) ∧
      Completes s (.lFmin o) d c g x (post fun st p => { w := (Sys2Proof.Fl.minMax ff false fz (a st p) (b st p)).w }) ∧
      Completes s (.lFmax o) d c g x (post fun st p => { w := (Sys2Proof.Fl.minMax ff true fz (a st p) (b st p)).w }) ∧
      Completes s (.lFcmp o) d c g x (post fun st p =>
        { w := if (Sys2Proof.Machine.Fl32.compare ff fz (a st p) (b st p) o.sc.toNat).1 then 2 ^ w - 1 else 0
          fl := (Sys2Proof.Machine.Fl32.compare ff fz (a st p) (b st p) o.sc.toNat).2 }) ∧
      Completes s (.lFclass o) d c g x (post fun st p => { w := Sys2Proof.Machine.Fl32.classify ff (a st p) }) ∧
      Completes s (.lFscale o) d c g x (post fun st p =>
        Sys2Proof.Machine.Fl32.scale ff m fz (a st p) (Sys2Proof.Bits.signed (x.srcB o st) 32)) ∧
      Completes s (.lFrnd o) d c g x (post fun st p => Sys2Proof.Machine.Fl32.round ff m fz (a st p))) ∧
    (LaneAt s d c g sl t x .vector ((s.die d).priceOf (fmaEntry o)) →
      Completes s (.lFfma o) d c g x (post fun st p => Sys2Proof.Machine.Fl32.fma ff m fz (a st p) (b st p) (k st p))) ∧
    (LaneAt s d c g sl t x .sfu ((s.die d).priceOf 10) →
      let fn (op : Sys2Proof.Fl.Special.Op) := post fun st p => Sys2Proof.Fl.Special.result op ff m fz (a st p)
      Completes s (.lFrcp o) d c g x (fn .rcp) ∧ Completes s (.lFrsq o) d c g x (fn .rsq) ∧
      Completes s (.lFsqrt o) d c g x (fn .sqrt) ∧ Completes s (.lFexp2 o) d c g x (fn .exp2) ∧
      Completes s (.lFlog2 o) d c g x (fn .log2) ∧ Completes s (.lFsin o) d c g x (fn .sin) ∧
      Completes s (.lFcos o) d c g x (fn .cos) ∧ Completes s (.lFtanh o) d c g x (fn .tanh) ∧
      Completes s (.lFsigm o) d c g x (fn .sigm))

/-- R255 to R260. Rests on the model's own choices of log 13. -/
def Obligations.LaneConversionResults : Prop :=
  ∀ (s : Sys2Proof.Machine.State) (d c g sl : Nat) (t : Sys2Proof.Machine.Team) (x : Sys2Proof.Machine.Group)
    (o : Sys2Proof.VOps), LaneAt s d c g sl t x .vector ((s.die d).priceOf 6) → residueBusy t g = false →
    let act := x.active sl
    let strands := (List.range 32).filter fun st => act.getLsbD st
    let op (st r : Nat) := (x.operand st (o.sa.toNat + r)).toNat
    let sf := Sys2Proof.Checks.srcFmt o
    let w := Sys2Proof.Fmt.elemBits o.fmt
    let k := Sys2Proof.Fmt.perContainer o.fmt
    let n := (o.sc.extractLsb' 0 3).toNat
    let raised (r : Nat → Sys2Proof.Fl.FRes) : BitVec 5 := strands.foldl (fun fl st => fl ||| (r st).fl) 0
    let cvt (st : Nat) := cvtElem o (elem (op st 0) (Sys2Proof.Fmt.elemBits sf) (o.sc.extractLsb' 6 2).toNat)
    let cvtw (st : Nat) := cvtwValue o (if Sys2Proof.Fmt.is64 sf then x.operandPair st o.sa.toNat else op st 0)
    let packed (r : Nat → Sys2Proof.Fl.FRes) : Sys2Proof.Fl.FRes :=
      { w := packElems w k fun p => (r p).w, fl := (List.range k).foldl (fun fl p => fl ||| (r p).fl) 0 }
    let cvtn (st : Nat) := packed fun p => cvtnElem o (op st p)
    let qz (st : Nat) := packed fun p => quantCode (Sys2Proof.Fmt.isA4 o.fmt) (modeOf o) (x.srcB o st) (op st p)
    let ef (st p : Nat) := Sys2Proof.Fl.errorFeedback (Sys2Proof.Fl.ffOf o.fmt) (Sys2Proof.Checks.sat o) (op st p) (x.residue n st p).toNat
    let flags (r : Nat → Sys2Proof.Fl.FRes) (y : Sys2Proof.Machine.Group) : Prop := y.asf = x.asf ||| raised r ∧ y.x = x.x ∧ y.e = x.e
    Completes s (.lCvt o) d c g x (fun y => Wrote x y act o.dst.toNat (fun st => BitVec.ofNat 32 (cvt st).w) ∧ flags cvt y) ∧
    Completes s (.lCvtw o) d c g x (fun y => flags cvtw y ∧
      if Sys2Proof.Fmt.is64 o.fmt = true then WrotePair x y act o.dst.toNat (fun st => (cvtw st).w)
      else Wrote x y act o.dst.toNat (fun st => BitVec.ofNat 32 (cvtw st).w)) ∧
    (Sys2Proof.Checks.ef o = false → Completes s (.lCvtn o) d c g x (fun y =>
      Wrote x y act o.dst.toNat (fun st => BitVec.ofNat 32 (cvtn st).w) ∧ flags cvtn y)) ∧
    (Sys2Proof.Checks.ef o = true → o.dst.toNat < 192 → k ≤ 4 → Completes s (.lCvtn o) d c g x (fun y =>
      Wrote x y act o.dst.toNat (fun st => BitVec.ofNat 32 (packElems w k fun p => (ef st p).1)) ∧
      (∀ m st p, m < 8 → st < 32 → p < 4 → y.residue m st p =
        if m = n ∧ act.getLsbD st = true ∧ p < k then BitVec.ofNat 32 (ef st p).2.1 else x.residue m st p) ∧
      y.asf = x.asf ||| strands.foldl (fun fl st => (List.range k).foldl (fun fl p => fl ||| (ef st p).2.2) fl) 0)) ∧
    Completes s (.lQz o) d c g x (fun y => Wrote x y act o.dst.toNat (fun st => BitVec.ofNat 32 (qz st).w) ∧ flags qz y) ∧
    (o.dst.toNat + Sys2Proof.Checks.dqRegs o ≤ 192 → Completes s (.lDq o) d c g x (fun y => SidesKept x y ∧ y.w = x.w ∧
      ∀ r st, r < 192 → st < 32 → y.vreg r st =
        if o.dst.toNat ≤ r ∧ r < o.dst.toNat + Sys2Proof.Checks.dqRegs o ∧ act.getLsbD st = true then
          BitVec.ofNat 32 (packElems w (if o.fmt = Sys2Proof.Fmt.F32 then 1 else 2) fun p =>
            decodeCode o.fmt sf
              (elem (op st 0) (Sys2Proof.Fmt.elemBits sf)
                ((r - o.dst.toNat) * (if o.fmt = Sys2Proof.Fmt.F32 then 1 else 2) + p)) (x.srcB o st))
        else x.vreg r st)) ∧
    Completes s (.lEfclr o) d c g x (fun y => y.v = x.v ∧ y.w = x.w ∧ y.asf = x.asf ∧ y.x = x.x ∧
      ∀ m st p, m < 8 → st < 32 → p < 4 → y.residue m st p =
        if m = n ∧ act.getLsbD st = true then 0 else x.residue m st p) ∧
    Completes s (.lEfmov o) d c g x (fun y => y.w = x.w ∧ y.asf = x.asf ∧ y.x = x.x ∧
      (∀ m st p, m < 8 → st < 32 → p < 4 → y.residue m st p =
        if o.sc.getLsbD 6 = true ∧ m = n ∧ act.getLsbD st = true then x.operand st (o.sa.toNat + p) else x.residue m st p) ∧
      (o.dst.toNat + 4 ≤ 192 ∨ o.sc.getLsbD 6 = true → ∀ r st, r < 192 → st < 32 → y.vreg r st =
        if o.sc.getLsbD 6 = false ∧ o.dst.toNat ≤ r ∧ r < o.dst.toNat + 4 ∧ act.getLsbD st = true then
          x.residue n st (r - o.dst.toNat)
        else x.vreg r st))

/-- R261 to R265. -/
def Obligations.LaneMoveResults : Prop :=
  ∀ (s : Sys2Proof.Machine.State) (d c g sl : Nat) (t : Sys2Proof.Machine.Team) (x : Sys2Proof.Machine.Group)
    (o : Sys2Proof.VOps) (i : Sys2Proof.IOps),
    let act := x.active sl
    let a (st : Nat) := x.operand st o.sa.toNat
    let cc (st : Nat) := x.operand st o.sc.toNat
    let m := x.operand 0 o.sb.toNat
    let members (st : Nat) : List Nat := if m.getLsbD st then (List.range 32).filter fun u => m.getLsbD u else [st]
    let gred (st : Nat) := gredOver o.sc.toNat o.fmt (fun u => (a u).toNat) (members st)
    (LaneAt s d c g sl t x .vector ((s.die d).priceOf 7) →
      Completes s (.lMov o) d c g x (fun y => SidesKept x y ∧
        Wrote x y act o.dst.toNat fun st => BitVec.ofNat 32 (x.srcB o st)) ∧
      Completes s (.lMovi i) d c g x (fun y => SidesKept x y ∧ Wrote x y act i.dst.toNat fun _ => i.imm) ∧
      Completes s (.lWmov o) d c g x (fun y => SidesKept x y ∧ y.v = x.v ∧
        (192 ≤ o.dst.toNat → ∀ n, n < 64 → y.wreg n =
          if 192 + n = o.dst.toNat ∧ n ≠ 63 ∧ act ≠ 0 then a (o.sc.toNat % 32) else x.wreg n)) ∧
      Completes s (.lPrmt o) d c g x (fun y => SidesKept x y ∧
        Wrote x y act o.dst.toNat fun st => BitVec.ofNat 32 (packElems 8 4 fun k =>
          prmtByte ((a st).toNat + x.srcB o st * 2 ^ 32) (elem (cc st).toNat 8 k)))) ∧
    (LaneAt s d c g sl t x .vector ((s.die d).priceOf 8) →
      Completes s (.lShfl o) d c g x (fun y => SidesKept x y ∧
        Wrote x y act o.dst.toNat fun st => a (if m.getLsbD ((cc st).toNat % 32) then (cc st).toNat % 32 else st)) ∧
      Completes s (.lVote o) d c g x (fun y => SidesKept x y ∧
        Wrote x y act o.dst.toNat fun st => BitVec.ofNat 32 (voteOver o.sc.toNat (members st) fun u => a u ≠ 0)) ∧
      Completes s (.lGred o) d c g x (fun y =>
        Wrote x y act o.dst.toNat (fun st => BitVec.ofNat 32 (gred st).w) ∧ y.x = x.x ∧ y.e = x.e ∧
        y.asf = x.asf ||| ((List.range 32).filter fun st => act.getLsbD st).foldl (fun fl st => fl ||| (gred st).fl) 0))

/-- R266 to R268. -/
def Obligations.IndexRegisterRules : Prop :=
  ∀ (s : Sys2Proof.Machine.State) (d c g sl : Nat) (t : Sys2Proof.Machine.Team) (x : Sys2Proof.Machine.Group)
    (o : Sys2Proof.VOps), LaneAt s d c g sl t x .vector ((s.die d).priceOf 7) → x.active sl ≠ 0 →
    let act := x.active sl
    let n := o.sc.toNat % 4
    let v := x.operand 0 o.sa.toNat
    let reg := x.xreg n
    let z := (xOff reg : Int) + v.toInt
    let pos (st : Nat) := xOff reg + (x.operand st o.sa.toNat).toNat
    let inside := ∀ st, st < 32 → act.getLsbD st = true → pos st < xCount reg
    let faults (i : Sys2Proof.Instr) (mask : BitVec 32 → Prop) : Prop :=
      ∃ k, mask k ∧ exec i s = laneFaults s d c g sl { code := Code.IDXBOUND, mask := k }
    let good (w : Sys2Proof.Word32) : Prop := w.toNat / 2 ^ 24 = 0 ∧ xCount w ≠ 0 ∧ xBase w + xCount w ≤ t.vregs ∧ xOff w < xCount w
    (good v → Completes s (.lXset o) d c g x fun y => y.v = x.v ∧ y.w = x.w ∧ y.e = x.e ∧ y.asf = x.asf ∧
      ∀ k, k < 4 → y.xreg k = if k = n then v else x.xreg k) ∧
    (¬ good v → faults (.lXset o) fun k => k = 0) ∧
    (0 ≤ z → z < xCount reg → Completes s (.lXadd o) d c g x fun y => y.v = x.v ∧ y.w = x.w ∧ y.e = x.e ∧ y.asf = x.asf ∧
      ∀ k, k < 4 → y.xreg k =
        if k = n then BitVec.ofNat 32 (Sys2Proof.Bits.setField reg.toNat 16 8 z.toNat) else x.xreg k) ∧
    (z < 0 ∨ (xCount reg : Int) ≤ z → faults (.lXadd o) fun k => k = 0) ∧
    (inside → Completes s (.lXld o) d c g x fun y => SidesKept x y ∧
      Wrote x y act o.dst.toNat fun st => x.vreg (xBase reg + pos st) st) ∧
    (inside → Completes s (.lXst o) d c g x fun y => SidesKept x y ∧ y.w = x.w ∧
      ∀ r st, r < 192 → st < 32 → y.vreg r st =
        if act.getLsbD st = true ∧ r = xBase reg + pos st then BitVec.ofNat 32 (x.srcB o st) else x.vreg r st) ∧
    (¬ inside → faults (.lXld o) (fun k => ∀ st, st < 32 → k.getLsbD st = (act.getLsbD st && decide (xCount reg ≤ pos st))) ∧
      faults (.lXst o) fun k => ∀ st, st < 32 → k.getLsbD st = (act.getLsbD st && decide (xCount reg ≤ pos st)))


/-- R271, R272, R276, R277: loads. Rests on the model's own choices of logs 8, 12, 15, 24, 45. -/
def Obligations.LaneLoadsIssue : Prop :=
  ∀ (s : Sys2Proof.Machine.State) (d c g sl : Nat) (t : Sys2Proof.Machine.Team) (x : Sys2Proof.Machine.Group)
    (n : Sys2Proof.Cnt) (o : Sys2Proof.MOps), x.active sl ≠ 0 →
    let ctx := ctxOf d c g sl t x
    let m := Sys2Proof.Fmt.container o.szf * Sys2Proof.Checks.Cnt.num n
    let glob := memPrice (fun x st => x.eaGlobal o 20 st) ctx s
    let spad := memPrice (fun x st => x.eaScratch o st) ctx s
    let flight (i : Sys2Proof.Instr) (s1 : Sys2Proof.Machine.State) (ps : List LoadPlan) :=
      s1.updGroup d c g fun y => { y with loads := y.loads ++ [
        { i, slot := sl, mask := x.active sl, units := ps.flatMap (·.units),
          decs := ps.foldl (fun m p => match p.dec with | some q => m.insert p.st q | none => m) [], no := t.issues }] }
    let plain (b : Nat) (p : SpPlan) : LoadPlan :=
      { st := p.st, units := [{ strand := p.st, part := 0, loc := .sp p.core p.ofs, va := p.ofs, n := b }] }
    (LaneAt s d c g sl t x .memory glob →
      let r := checkAll ctx s (planLoad ctx o (Sys2Proof.Checks.Cnt.num n))
      Passed r (lockedUnit t (accessOf 0 (Sys2Proof.Bits.log2 m) 0)) →
      exec (.lLd n o) s = laneHeld (flight (.lLd n o) r.s r.oks) d c g sl .memory glob .load t.issues) ∧
    (LaneAt s d c g sl t x .memory spad →
      let r := checkAll ctx s (planSp ctx m 0 o)
      (Sys2Proof.Checks.mPol o = 0 → Passed r (lockedSp ctx s false m 0) →
        exec (.lLds n o) s = laneHeld (flight (.lLds n o) r.s (r.oks.map (plain m))) d c g sl .memory spad .load t.issues) ∧
      (Sys2Proof.Checks.mPol o ≠ 0 → Passed r (fun _ => none) →
        exec (.lLds n o) s = laneHeld r.s d c g sl .memory spad
          (.fe n o ((r.oks.filter fun p => !x.feServed.getLsbD p.st).map fun p =>
            { strand := p.st, core := p.core, ofs := p.ofs })) t.issues)) ∧
    (LaneAt s d c g sl t x .memory glob →
      ChecksFault s (.lLd n o) d c g sl t x (checkAll ctx s (planLoad ctx o (Sys2Proof.Checks.Cnt.num n)))
        (lockedUnit t (accessOf 0 (Sys2Proof.Bits.log2 m) 0))) ∧
    (LaneAt s d c g sl t x .memory spad →
      (Sys2Proof.Checks.mPol o = 0 →
        ChecksFault s (.lLds n o) d c g sl t x (checkAll ctx s (planSp ctx m 0 o)) (lockedSp ctx s false m 0)) ∧
      (Sys2Proof.Checks.mPol o ≠ 0 →
        ChecksFault s (.lLds n o) d c g sl t x (checkAll ctx s (planSp ctx m 0 o)) (fun _ => none)) ∧
      ChecksFault s (.lFeopRdf o) d c g sl t x (checkAll ctx s (planSp ctx 16 5 o)) (lockedSp ctx s false 16 5)) ∧
    (∀ a k cnt va acc,
      let chk := (checkGlobal ctx s a k cnt va acc).2
      let tr := translate (s.die d) c (.slot g sl) (x.slot sl).walkFail va
      (2 ^ 52 ≤ va → chk = .bad { code := Code.XLATE, cause := Cause.NONCANON, access := acc, va }) ∧
      (va < 2 ^ 52 → va % k ≠ 0 → chk = .bad { code := Code.MISALIGN, access := acc, va }) ∧
      (va < 2 ^ 52 → va % k = 0 → ∀ x1 cause, tr = (x1, .fail cause) → chk = .bad (laneCause cause acc va 0)) ∧
      (va < 2 ^ 52 → va % k = 0 → ∀ x1 e cause, tr = (x1, .ok e) → denied x1 a k va e = some cause →
        chk = .bad { code := Code.PROT, cause, access := acc, va })) ∧
    (∀ k kind st,
      let a := x.eaScratch o st
      let core := spCore ctx o
      let acc := accessOf kind (Sys2Proof.Bits.log2 k) (if core = c then 1 else 2)
      let found := (planSp ctx k kind o s st).2
      (a % k ≠ 0 → found = .bad { code := Code.MISALIGN, access := acc, va := a }) ∧
      (a % k = 0 → Sys2Proof.Checks.mRem o = true → (256 ≤ core ∨ t.inRect core = false) →
        found = .bad { code := Code.XLATE, cause := Cause.REMOTE, access := acc, va := a }) ∧
      (a % k = 0 → (Sys2Proof.Checks.mRem o = true → core < 256 ∧ t.inRect core = true) →
        (core ≠ c → remotePresent (s.die d) core = false → found = .bad { code := Code.ABSENT, access := acc, va := a }) ∧
        ((core ≠ c → remotePresent (s.die d) core = true) → ∀ u, s.team? d core = some u →
          (u.scratch ≤ a → found = .bad { code := Code.XLATE, cause := Cause.OUTSIDE, access := acc, va := a }) ∧
          (a < u.scratch → found = .ok { st, core, ofs := a })))) ∧
    (LaneAt s d c g sl t x .memory spad →
      let r := checkAll ctx s (planSp ctx 16 5 o)
      Passed r (lockedSp ctx s false 16 5) →
      exec (.lFeopRdf o) s = laneHeld (flight (.lFeopRdf o) r.s (r.oks.map (plain 16))) d c g sl .memory spad .load t.issues)

/-- R273, R277 to R281: what the storing instructions queue. Rests on the model's own choices of logs 12, 15, 24, 42, 45. -/
def Obligations.LaneStoresQueue : Prop :=
  ∀ (s : Sys2Proof.Machine.State) (d c g sl : Nat) (t : Sys2Proof.Machine.Team) (x : Sys2Proof.Machine.Group)
    (n : Sys2Proof.Cnt) (o : Sys2Proof.MOps), x.active sl ≠ 0 →
    let ctx := ctxOf d c g sl t x
    let count := Sys2Proof.Checks.Cnt.num n
    let c0 := Sys2Proof.Fmt.container o.szf
    let m := c0 * count
    let b := elemBytes o.szf
    let sc := (Sys2Proof.Checks.mScope o).toNat
    let flag := Sys2Proof.Checks.mFlag o
    let op := (Sys2Proof.Checks.mOp o).toNat
    let rel := if flag then some sc else none
    -- what a release at a scope asks for: at .DIE or wider no recorded error and no peer store unanswered
    let settled (k : Nat) : Prop := 3 ≤ k → x.storeErr = none ∧ t.peerPending (.group g) = false
    let plainSettled : Prop := flag = true → settled sc
    -- a store to a COMMIT register is a release at .SYS
    let scopeAt (l : Loc) : Nat := max (if flag then sc else 0) (if l.isCommit then 5 else 0)
    let data := o.data.toNat
    let price20 := memPrice (fun x st => x.eaGlobal o 20 st) ctx s
    let price13 := memPrice (fun x st => x.eaGlobal o 13 st) ctx s
    let spad := memPrice (fun x st => x.eaScratch o st) ctx s
    let queued (s1 : Sys2Proof.Machine.State) (ws : List Sys2Proof.Machine.Write) :=
      s1.updTeam d c fun u => { u with sq := u.sq ++ ws.map fun w => { w with no := t.issues } }
    (LaneAt s d c g sl t x .memory price20 →
      let r := checkAll ctx s (planWrite ctx .store m count 20 (accessOf 1 (Sys2Proof.Bits.log2 m) 0) o)
      Passed r (lockedWrite t m (accessOf 1 (Sys2Proof.Bits.log2 m) 0)) → plainSettled →
      ((∃ p ∈ r.oks, p.loc.isCommit = true) → settled 5) →
      exec (.lSt n o) s = laneDone s
        (queued r.s ((r.oks.flatMap fun p => storeUnits p m (storeBytes x p.st data c0 count)).map fun u =>
          { party := .group g, loc := u.1.loc, kind := .store u.2.1 u.2.2,
            rel := if flag || u.1.loc.isCommit then some (scopeAt u.1.loc) else none, strand := u.1.st, va := u.1.va,
            treat := effLl o u.1.leaf })) d c g sl .memory price20) ∧
    (LaneAt s d c g sl t x .memory spad →
      let r := checkAll ctx s (planSp ctx m 1 o)
      Passed r (lockedSp ctx s true m 1) → plainSettled →
      exec (.lSts n o) s = laneDone s (queued r.s
        (if Sys2Proof.Checks.mPol o = 1 then (r.oks.filter (lastOn r.oks)).map fun p =>
          { party := .group g, loc := .sp p.core (p.ofs / 16 * 16),
            kind := .fill (granuleOf r.oks p m fun st => storeBytes x st data c0 count).1
              (granuleOf r.oks p m fun st => storeBytes x st data c0 count).2,
            rel := rel, strand := p.st, va := p.ofs }
        else r.oks.map fun p =>
          { party := .group g, loc := .sp p.core p.ofs, kind := .store m (storeBytes x p.st data c0 count),
            rel := rel, strand := p.st, va := p.ofs })) d c g sl .memory spad) ∧
    (LaneAt s d c g sl t x .memory spad →
      let r := checkAll ctx s (planSp ctx 16 5 o)
      Passed r (lockedSp ctx s true 16 5) →
      let marks (k : WriteKind) := laneDone s (queued r.s ((r.oks.filter (lastOn r.oks)).map fun p =>
        { party := .group g, loc := .sp p.core p.ofs, kind := k, strand := p.st, va := p.ofs })) d c g sl .memory spad
      exec (.lFeopSetf o) s = marks (.full 16) ∧ exec (.lFeopSete o) s = marks (.empty 16)) ∧
    (LaneAt s d c g sl t x .memory price20 →
      ChecksFault s (.lSt n o) d c g sl t x (checkAll ctx s (planWrite ctx .store m count 20 (accessOf 1 (Sys2Proof.Bits.log2 m) 0) o))
        (lockedWrite t m (accessOf 1 (Sys2Proof.Bits.log2 m) 0))) ∧
    (LaneAt s d c g sl t x .memory spad →
      ChecksFault s (.lSts n o) d c g sl t x (checkAll ctx s (planSp ctx m 1 o)) (lockedSp ctx s true m 1) ∧
      ChecksFault s (.lFeopSetf o) d c g sl t x (checkAll ctx s (planSp ctx 16 5 o)) (lockedSp ctx s true 16 5) ∧
      ChecksFault s (.lFeopSete o) d c g sl t x (checkAll ctx s (planSp ctx 16 5 o)) (lockedSp ctx s true 16 5)) ∧
    (LaneAt s d c g sl t x .memory price13 →
      let reduced (kind : Nat) (treat : Sys2Proof.MOps → Leaf → Nat) (k : Nat → WriteKind) :=
        let r := checkAll ctx s (planWrite ctx .atomic b 1 13 (accessOf kind (Sys2Proof.Bits.log2 b) 0) o)
        let ue := ueStrands ctx b (accessOf kind (Sys2Proof.Bits.log2 b) 0) r.s r.oks
        (r, ue, laneDone s (queued ue.1 (r.oks.map fun p =>
          { party := .group g, loc := p.loc, kind := k (rmwOperand x p.st data b), rel := rel, strand := p.st,
            va := p.va, treat := treat o p.leaf })) d c g sl .memory price13)
      let red := reduced 3 rmwTreat fun v => .red op b o.szf v
      let cu := reduced 4 cuTreat fun v => .cu op b (cuType op o.szf) v
      let faulty (i : Sys2Proof.Instr) (acc : Nat) :=
        ChecksFault s i d c g sl t x (checkAll ctx s (planWrite ctx .atomic b 1 13 acc o)) (lockedWrite t b acc)
      (Passed red.1 (lockedWrite t b (accessOf 3 (Sys2Proof.Bits.log2 b) 0)) →
        (red.2.1.2 = [] → plainSettled → exec (.lRed o) s = red.2.2) ∧
        (red.2.1.2 ≠ [] → StrandFault s (.lRed o) d c g sl t x red.2.1.1 red.2.1.2)) ∧
      (Passed cu.1 (lockedWrite t b (accessOf 4 (Sys2Proof.Bits.log2 b) 0)) →
        (cu.2.1.2 = [] → plainSettled → exec (.lRedCu o) s = cu.2.2) ∧
        (cu.2.1.2 ≠ [] → StrandFault s (.lRedCu o) d c g sl t x cu.2.1.1 cu.2.1.2)) ∧
      faulty (.lRed o) (accessOf 3 (Sys2Proof.Bits.log2 b) 0) ∧ faulty (.lRedCu o) (accessOf 4 (Sys2Proof.Bits.log2 b) 0) ∧
      faulty (.lAtom o) (accessOf 2 (Sys2Proof.Bits.log2 b) 0) ∧
      (let r := checkAll ctx s (planWrite ctx .atomic b 1 13 (accessOf 2 (Sys2Proof.Bits.log2 b) 0) o)
       Passed r (lockedWrite t b (accessOf 2 (Sys2Proof.Bits.log2 b) 0)) → (atomRel o = true → settled sc) →
       exec (.lAtom o) s = laneHeld (queued r.s (r.oks.map fun p =>
         { party := .group g, loc := p.loc,
           kind := if op = 7 then .atomic op b o.szf (rmwOperand x p.st (data + b / 4) b) (rmwOperand x p.st data b)
             else .atomic op b o.szf (rmwOperand x p.st data b) 0,
           rel := if atomRel o then some sc else none, strand := p.st, va := p.va, treat := rmwTreat o p.leaf }))
         d c g sl .memory price13 (.atom o) t.issues))

/-- R282, R283, 04 R112 to R115, R139. Rests on the model's own choices of logs 10, 23. -/
def Obligations.LaneFenceAndPrefetch : Prop :=
  ∀ (s : Sys2Proof.Machine.State) (d c g sl : Nat) (t : Sys2Proof.Machine.Team) (x : Sys2Proof.Machine.Group)
    (o : Sys2Proof.MOps), x.active sl ≠ 0 →
    let k := Sys2Proof.Checks.mPol o
    let sc := (Sys2Proof.Checks.mScope o).toNat
    let ctx := ctxOf d c g sl t x
    let price := memPrice (fun x st => x.eaGlobal o 20 st) ctx s
    let lines := (((List.range 32).filter fun st => (x.active sl).getLsbD st).map fun st => x.eaGlobal o 20 st / 128 * 128).eraseDups
    (LaneAt s d c g sl t x .memory price →
      exec (.lPref o) s = laneDone s (if k = 3 then s else lines.foldl (prefetch ctx o) s) d c g sl .memory price) ∧
    (∀ s1 va y, s1.group? d c g = some y → ∃ z, (prefetch ctx o s1 va).group? d c g = some z ∧
      SidesKept y z ∧ z.v = y.v ∧ z.w = y.w) ∧
    (LaneAt s d c g sl t x .memory ((s.die d).priceOf 16) → (k = 1 ∨ x.unbound = false) →
      (3 ≤ sc → x.storeErr = none) → (k ≠ 0 → 3 ≤ sc → t.peerPending (.group g) = false) →
      ((k = 3 → sc = 1 → t.queued (.group g) = []) → (k = 3 → 2 ≤ sc → t.drained (.group g) = true) →
        (k = 3 → 3 ≤ sc → clusterHome (s.die d) c = true) →
        let s1 := if k ≠ 1 ∧ 2 ≤ sc then s.updTeam d c Team.dropL1 else s
        let s2 := if k ≠ 0 ∧ 2 ≤ sc then pushWrite s1 d c (fenceItem (.group g) sc) else s1
        exec (.lFence o) s = laneDone s s2 d c g sl .memory ((s.die d).priceOf 16)) ∧
      (k = 3 → (sc = 1 ∧ t.queued (.group g) ≠ [] ∨ 2 ≤ sc ∧ t.drained (.group g) = false ∨
          3 ≤ sc ∧ clusterHome (s.die d) c = false) →
        exec (.lFence o) s = .next s))

/-- R287 to R292: lane synchronisation. Rests on the model's own choices of logs 8 (ARRIVE, and RARRIVE to the own core, behind
accesses that are not bound), 12, 23 and 45 (the word that SPANW is compared with). -/
def Obligations.LaneSynchronisation : Prop :=
  (∀ (s : Sys2Proof.Machine.State) (d c g sl : Nat) (t : Sys2Proof.Machine.Team) (x : Sys2Proof.Machine.Group)
      (o : Sys2Proof.VOps), LaneAt s d c g sl t x .vector ((s.die d).priceOf 9) → x.active sl ≠ 0 →
      let price := (s.die d).priceOf 9
      let ctx := ctxOf d c g sl t x
      let kept := ctx.keep o s
      let v := x.operand 0 o.sa.toNat
      let n := o.sc.toNat
      let p := t.point n
      let done (s1 : Sys2Proof.Machine.State) := laneDone s s1 d c g sl .vector price
      let faults (code : Nat) (mask : BitVec 32) := laneFaults s d c g sl { code, mask }
      let other := x.slot (1 - sl)
      let free := ∀ m, other.wait ≠ .sync m
      let quiet : Prop := x.unbound = false
      (¬ quiet → exec (.lArrive o) s = .next s) ∧
      (v = 0 → exec (.lSync o) s = done kept) ∧
      (v ≠ 0 → syncBad ctx v ≠ 0 → exec (.lSync o) s = faults Code.SYNCMASK (syncBad ctx v)) ∧
      (v ≠ 0 → syncBad ctx v = 0 →
        (free → v &&& other.mask = 0 → exec (.lSync o) s = done kept) ∧
        (free → v &&& other.mask ≠ 0 → exec (.lSync o) s = laneHeld kept d c g sl .vector price (.sync v) t.issues) ∧
        (other.wait = .sync v → exec (.lSync o) s = done (advanceSlot kept d c g (1 - sl))) ∧
        (∀ m, other.wait = .sync m → m ≠ v →
          exec (.lSync o) s = if v &&& other.mask = 0 then done (syncMissed ctx kept m v)
            else faults Code.SYNCMASK (v &&& other.mask))) ∧
      (v.toNat = 0 ∨ 65536 ≤ v.toNat ∨ (p.expected ≠ 0 ∧ p.expected ≠ v.toNat) →
        exec (.lRvinit o) s = faults Code.BADTARGET 0) ∧
      (v.toNat ≠ 0 → v.toNat < 65536 → (p.expected = 0 ∨ p.expected = v.toNat) →
        exec (.lRvinit o) s = done (kept.updTeam d c fun u =>
          { u with points := Sys2Proof.Bits.updAt u.points n fun q => { q with expected := v.toNat } })) ∧
      (p.expected = 0 → (quiet → exec (.lArrive o) s = faults Code.BADTARGET 0) ∧ exec (.lWait o) s = faults Code.BADTARGET 0) ∧
      (p.expected ≠ 0 →
        (quiet → exec (.lArrive o) s = done (((drainToS s d c (.group g)).updTeam d c fun u =>
            { u with points := Sys2Proof.Bits.updAt u.points n fun q => q.arrive 1 s.pkg.mclk }).updGroup d c g fun y =>
          y.setW (o.dst.toNat - 192) (if p.phase then 1 else 0))) ∧
        (p.phase ≠ v.getLsbD 0 → p.time + 8 * (g % 4) ≤ s.pkg.mclk →
          exec (.lWait o) s = done (acquireAt kept d c p.doneScope)) ∧
        ((p.phase = v.getLsbD 0 ∨ s.pkg.mclk < p.time + 8 * (g % 4)) →
          exec (.lWait o) s = laneHeld kept d c g sl .vector price (.rendezvous n (v.getLsbD 0)) t.issues)) ∧
      (v.toNat < 256 → t.inRect v.toNat = true →
        (v.toNat = c → p.expected ≠ 0 → ¬ quiet → exec (.lRarrive o) s = .next s) ∧
        (v.toNat = c → p.expected = 0 → exec (.lRarrive o) s = faults Code.BADTARGET 0) ∧
        (v.toNat = c → p.expected ≠ 0 → quiet → exec (.lRarrive o) s = done ((drainToS kept d c (.group g)).updTeam d c fun u =>
          { u with points := Sys2Proof.Bits.updAt u.points n fun q => q.arrive 1 s.pkg.mclk })) ∧
        (v.toNat ≠ c → remotePresent (s.die d) v.toNat = true → x.storeErr = none → t.peerPending (.group g) = false →
          exec (.lRarrive o) s = laneHeld (pushWrite kept d c
            { party := .group g, loc := .sp v.toNat 0, kind := .arrive n,
              rel := some (scopeBetween (s.die d) c v.toNat), strand := sl }) d c g sl .vector price .arrive t.issues))) ∧
  (∀ (s : Sys2Proof.Machine.State) (d c g sl : Nat) (t : Sys2Proof.Machine.Team) (x : Sys2Proof.Machine.Group)
      (o : Sys2Proof.VOps), LaneAt s d c g sl t x .vector ((s.die d).priceOf 9) → x.active sl ≠ 0 →
      let price := (s.die d).priceOf 9
      let kept := (ctxOf d c g sl t x).keep o s
      let w := x.operand 0 o.sa.toNat
      let n := cellNo (s.die d) t w.toNat
      let k := (s.die d).cells.getD n {}
      let ph := k.phaseFor c w
      let agrees (j : Nat) : Prop := k.words.find? j = none ∨ k.words.find? j = some w
      let bad := laneFaults s d c g sl { code := Code.BADTARGET }
      (SpanWord.ok t c w.toNat = true → agrees k.phase → agrees ph →
        x.storeErr = none → t.peerPending (.group g) = false →
        exec (.lSpana o) s = laneDone s (pushWrite ((kept.updDie d fun y =>
            { y with cells := Sys2Proof.Bits.updAt y.cells n fun q =>
                { q with words := q.words.insert ph w, issued := q.issued.set 0 (256 * ph + c) (q.issuedBy ph c + 1) } }).updGroup
              d c g fun y => { y with spans := y.spans.insert n ph }) d c
          { party := .group g, loc := .hbm 0, kind := .span n ph, rel := some 3 }) d c g sl .vector price) ∧
      (SpanWord.ok t c w.toNat = false ∨ ¬ agrees k.phase ∨ ¬ agrees ph → exec (.lSpana o) s = bad) ∧
      (x.spans.find? n = none → exec (.lSpanw o) s = bad) ∧
      (∀ j, x.spans.find? n = some j →
        (SpanWord.ok t c w.toNat = false ∨ ¬ agrees j → exec (.lSpanw o) s = bad) ∧
        (SpanWord.ok t c w.toNat = true → agrees j →
          (spanOver s d c n j = true → exec (.lSpanw o) s = laneDone s (acquireAt kept d c 3) d c g sl .vector price) ∧
          (spanOver s d c n j = false → exec (.lSpanw o) s = laneHeld kept d c g sl .vector price (.span n j) t.issues)))) ∧
  (∀ (p : Point) (arrivals : List (Nat × Nat)), p.count = 0 → p.scope = 0 → 1 ≤ p.expected →
      let q := arrivals.foldl (fun r a => r.arrive a.1 a.2) p
      let widest := (arrivals.map (·.1)).foldl max 0
      (arrivals.length < p.expected →
        q = { p with count := arrivals.length, scope := widest }) ∧
      (arrivals.length = p.expected →
        q = { p with count := 0, scope := 0, phase := !p.phase, doneScope := widest,
                     time := (arrivals.getLast?.map (·.2)).getD p.time }))

namespace Sys2Proof.Machine

open Sys2Proof Fl

/-! ## Words of the statements about floating-point values -/

/-- Sign, exponent field and mantissa field of a word of a layout (02 Table 2.2). -/
def signOf (f : FF) (w : Nat) : Bool := w.testBit (f.eb + f.mb)
def expOf (f : FF) (w : Nat) : Nat := w / 2 ^ f.mb % 2 ^ f.eb
def manOf (f : FF) (w : Nat) : Nat := w % 2 ^ f.mb
def signed0 (f : FF) (neg : Bool) (w : Nat) : Nat := w + if neg then 2 ^ (f.eb + f.mb) else 0

/-- The special codes of a layout (02 Table 2.2). -/
abbrev IsNan (f : FF) (w : Nat) : Prop :=
  (f.ieee = true ∧ expOf f w = 2 ^ f.eb - 1 ∧ manOf f w ≠ 0) ∨ (f = e4m3 ∧ expOf f w = 15 ∧ manOf f w = 7)
abbrev IsInf (f : FF) (w : Nat) : Prop := f.ieee = true ∧ expOf f w = 2 ^ f.eb - 1 ∧ manOf f w = 0
abbrev IsFin (f : FF) (w : Nat) : Prop := ¬ IsNan f w ∧ ¬ IsInf f w

/-- The number of a finite code (02 R49). -/
def num (f : FF) (w : Nat) : Rat :=
  (if signOf f w then -1 else 1) *
    (if expOf f w = 0 then (manOf f w : Rat) * 2 ^ (1 - (f.bias : Int) - f.mb)
     else (2 ^ f.mb + manOf f w : Rat) * 2 ^ ((expOf f w : Int) - f.bias - f.mb))

/-- The word as the instruction reads it: with .FZ a subnormal F32, F16 or BF16 is the zero of its sign (02 R53). -/
def readFz (f : FF) (fz : Bool) (w : Nat) : Nat := if fz = true ∧ 7 ≤ f.mb ∧ expOf f w = 0 then w - manOf f w else w

/-- Codes of the infinity, the canonical NaN and the largest finite number (02 Tables 2.2, 2.3). -/
def infinity (f : FF) : Nat := if f = f32 then 0x7F80_0000 else if f = f16 then 0x7C00 else if f = bf16 then 0x7F80 else 0x7C
def canonical (f : FF) : Nat :=
  if f = f32 then 0x7FC0_0000 else if f = f16 then 0x7E00 else if f = bf16 then 0x7FC0 else if f = e4m3 then 0x7F else 0x7E
def largest (f : FF) : Nat :=
  if f = f32 then 0x7F7F_FFFF else if f = f16 then 0x7BFF else if f = bf16 then 0x7F7F else if f = e4m3 then 0x7E else 0x7B

def magnitude (x : Rat) : Rat := if x < 0 then -x else x

/-- `y` is the multiple of 2^q to which `x` is rounded in a mode (02 R52). -/
def RoundsTo (m : RMode) (q : Int) (x y : Rat) : Prop :=
  ∃ n : Int, y = (n : Rat) * 2 ^ q ∧
    match m with
    | .rn => 2 * magnitude (x - y) ≤ 2 ^ q ∧ (2 * magnitude (x - y) = 2 ^ q → n % 2 = 0)
    | .rz => 0 ≤ x * y ∧ magnitude y ≤ magnitude x ∧ magnitude x < magnitude y + 2 ^ q
    | .rp => x ≤ y ∧ y < x + 2 ^ q
    | .rm => y ≤ x ∧ x < y + 2 ^ q

/-- `r` is what is delivered where the exact result is `x`, not zero: `x` rounded once to the layout, `y`, where that is no
overflow and is not flushed; underflow is that `x` rounded with unbounded exponent, `u`, is below the normal range (02 R52 to
R55). -/
def Delivers (f : FF) (m : RMode) (sat fz : Bool) (x : Rat) (r : FRes) : Prop :=
  let neg := decide (x < 0)
  let least : Rat := 2 ^ (1 - (f.bias : Int))
  ∃ (k : Int) (y u : Rat), 2 ^ k ≤ magnitude x ∧ magnitude x < 2 ^ (k + 1) ∧
    RoundsTo m (max (k - f.mb) (1 - f.bias - f.mb)) x y ∧ RoundsTo m (k - f.mb) x u ∧
    if num f (largest f) < magnitude y then
      r.fl = OF ||| NX ∧ r.w =
        if sat = true then signed0 f neg (largest f)
        else if f = e4m3 then canonical f
        else if m = .rz ∨ (m = .rp ∧ x < 0) ∨ (m = .rm ∧ 0 < x) then signed0 f neg (largest f)
        else signed0 f neg (infinity f)
    else if fz = true ∧ 7 ≤ f.mb ∧ magnitude y < least then r.fl = UF ||| NX ∧ r.w = signed0 f neg 0
    else r.w < 2 ^ (1 + f.eb + f.mb) ∧ IsFin f r.w ∧ signOf f r.w = neg ∧ num f r.w = y ∧
      r.fl = (if y ≠ x then NX else 0) ||| (if y ≠ x ∧ magnitude u < least then UF else 0)

/-- An F32 result put into another layout, to nearest even (02 R55). -/
def Narrowed (f : FF) (fz : Bool) (a r : FRes) : Prop :=
  (IsFin f32 a.w → num f32 a.w ≠ 0 → ∃ b, Delivers f .rn false fz (num f32 a.w) b ∧ r = { w := b.w, fl := a.fl ||| b.fl }) ∧
  (IsFin f32 a.w → num f32 a.w = 0 → r = { w := signed0 f (signOf f32 a.w) 0, fl := a.fl }) ∧
  (IsInf f32 a.w → r = { w := signed0 f (signOf f32 a.w) (infinity f), fl := a.fl }) ∧
  (IsNan f32 a.w → r = { w := canonical f, fl := a.fl })

/-- What an instruction of Table 8.3 delivers: a BF16 result is rounded to F32 in the mode and then to BF16 (08 R252). -/
def Rounded (f : FF) (m : RMode) (fz : Bool) (x : Rat) (r : FRes) : Prop :=
  if f = bf16 then ∃ a, Delivers f32 m false fz x a ∧ Narrowed f fz a r else Delivers f m false fz x r

/-- `w` is the F32 word to which the square root of `x` is rounded in a mode. -/
def RootIs (m : RMode) (x : Rat) (w : Nat) : Prop :=
  ∃ (k n : Int), (2 ^ k) ^ 2 ≤ x ∧ x < (2 ^ (k + 1)) ^ 2 ∧ w < 2 ^ 31 ∧ IsFin f32 w ∧
    let h : Rat := 2 ^ (k - 23)
    let y := num f32 w
    y = (n : Rat) * h ∧
    match m with
    | .rn => (2 * y - h) ^ 2 ≤ 4 * x ∧ 4 * x ≤ (2 * y + h) ^ 2
    | .rp => x ≤ y ^ 2 ∧ (y - h) ^ 2 < x
    | _ => y ^ 2 ≤ x ∧ x < (y + h) ^ 2

/-- `r` is a value converted to an integer of `w` bits (08 R255): rounded in the mode, a NaN 0, beyond the range the bound. -/
def ToInteger (f : FF) (m : RMode) (sg : Bool) (w a : Nat) (r : FRes) : Prop :=
  let lo : Int := if sg then -2 ^ (w - 1) else 0
  let hi : Int := if sg then 2 ^ (w - 1) - 1 else 2 ^ w - 1
  let bound (z : Int) : FRes := { w := (z % 2 ^ w).toNat, fl := NV }
  (IsNan f a → r = { w := 0, fl := NV }) ∧
  (IsInf f a → r = bound (if signOf f a then lo else hi)) ∧
  (IsFin f a → ∃ z : Int, RoundsTo m 0 (num f a) z ∧
    r = if z < lo then bound lo else if hi < z then bound hi
        else { w := (z % 2 ^ w).toNat, fl := if (z : Rat) = num f a then 0 else NX })

/-- Place of a word in the order of its layout, −0 below +0, and with the zeros equal. -/
def place (f : FF) (w : Nat) : Int :=
  if signOf f w then -(w % 2 ^ (f.eb + f.mb) : Nat) - 1 else (w % 2 ^ (f.eb + f.mb) : Nat)
def level (f : FF) (w : Nat) : Int :=
  if signOf f w then -(w % 2 ^ (f.eb + f.mb) : Nat) else (w % 2 ^ (f.eb + f.mb) : Nat)

end Sys2Proof.Machine

/-- R49, R51 to R55, R252, R253: what each floating-point instruction does to one element. That .FZ acts at both roundings of a
BF16 operation is the model's own reading of log 20. -/
def Obligations.FloatElementRules : Prop :=
  ∀ (f : Sys2Proof.Fl.FF) (m : Sys2Proof.Fl.RMode) (fz : Bool) (a0 b0 c0 : Nat),
    (f = Sys2Proof.Fl.f32 ∨ f = Sys2Proof.Fl.f16 ∨ f = Sys2Proof.Fl.bf16) →
    a0 < 2 ^ (1 + f.eb + f.mb) → b0 < 2 ^ (1 + f.eb + f.mb) → c0 < 2 ^ (1 + f.eb + f.mb) →
    let a := readFz f fz a0
    let b := readFz f fz b0
    let c := readFz f fz c0
    let s := signOf f
    let word (w : Nat) : Sys2Proof.Fl.FRes := { w := w }
    let nan : Sys2Proof.Fl.FRes := { w := canonical f }
    let invalid : Sys2Proof.Fl.FRes := { w := canonical f, fl := Sys2Proof.Fl.NV }
    -- the sum of two elements, the second with the sign t
    let sum (b : Nat) (t : Bool) (r : Sys2Proof.Fl.FRes) : Prop :=
      let y := if t = s b then num f b else -num f b
      (IsNan f a ∨ IsNan f b → r = nan) ∧
      (IsInf f a → IsInf f b → r = if s a = t then word (signed0 f t (infinity f)) else invalid) ∧
      (IsInf f a → IsFin f b → r = word (signed0 f (s a) (infinity f))) ∧
      (IsFin f a → IsInf f b → r = word (signed0 f t (infinity f))) ∧
      (IsFin f a → IsFin f b →
        (num f a + y ≠ 0 → Rounded f m fz (num f a + y) r) ∧
        (num f a + y = 0 → r = word (signed0 f (if num f a = 0 ∧ s a = t then t else decide (m = .rm)) 0)))
    sum b (s b) (Fl32.add f m fz a0 b0) ∧
    sum b (!s b) (Fl32.sub f m fz a0 b0) ∧
    (let r := Fl32.mul f m fz a0 b0
     let t := s a ^^ s b
     (IsNan f a ∨ IsNan f b → r = nan) ∧
     (¬ IsNan f a → ¬ IsNan f b → IsInf f a ∨ IsInf f b →
       r = if (IsFin f a ∧ num f a = 0) ∨ (IsFin f b ∧ num f b = 0) then invalid else word (signed0 f t (infinity f))) ∧
     (IsFin f a → IsFin f b →
       (num f a * num f b ≠ 0 → Rounded f m fz (num f a * num f b) r) ∧
       (num f a * num f b = 0 → r = word (signed0 f t 0)))) ∧
    (let r := Fl32.fma f m fz a0 b0 c0
     let t := s a ^^ s b
     let x := num f a * num f b
     let wild := (IsInf f a ∧ IsFin f b ∧ num f b = 0) ∨ (IsInf f b ∧ IsFin f a ∧ num f a = 0)
     (wild → r = invalid) ∧
     (¬ wild →
       (IsNan f a ∨ IsNan f b ∨ IsNan f c → r = nan) ∧
       (¬ IsNan f a → ¬ IsNan f b → ¬ IsNan f c → IsInf f a ∨ IsInf f b →
         r = if IsInf f c ∧ s c ≠ t then invalid else word (signed0 f t (infinity f))) ∧
       (IsFin f a → IsFin f b → IsInf f c → r = word (signed0 f (s c) (infinity f))) ∧
       (IsFin f a → IsFin f b → IsFin f c →
         (x + num f c ≠ 0 → Rounded f m fz (x + num f c) r) ∧
         (x + num f c = 0 → r = word (signed0 f (if x = 0 ∧ s c = t then t else decide (m = .rm)) 0))))) ∧
    (∀ n : Int, let r := Fl32.scale f m fz a0 n
      (IsNan f a → r = nan) ∧ (IsInf f a → r = word a) ∧
      (IsFin f a → num f a = 0 → r = word a) ∧
      (IsFin f a → num f a ≠ 0 → Rounded f m fz (num f a * 2 ^ n) r)) ∧
    (let r := Fl32.round f m fz a0
     r.fl = 0 ∧ (IsNan f a → r.w = canonical f) ∧ (IsInf f a → r.w = a) ∧
     (IsFin f a → RoundsTo m 0 (num f a) (num f r.w) ∧ IsFin f r.w ∧ s r.w = s a)) ∧
    (∀ mx : Bool, let r := (Sys2Proof.Fl.minMax f mx fz a0 b0).w
      (IsNan f a → IsNan f b → r = canonical f) ∧ (IsNan f a → ¬ IsNan f b → r = b) ∧ (¬ IsNan f a → IsNan f b → r = a) ∧
      (¬ IsNan f a → ¬ IsNan f b → r = if mx = decide (place f a ≤ place f b) then b else a)) ∧
    (∀ cond, cond < 8 → Fl32.compare f fz a0 b0 cond =
      if IsNan f a ∨ IsNan f b then (decide (cond = 1 ∨ cond = 6), if 2 ≤ cond ∧ cond ≤ 5 then Sys2Proof.Fl.NV else 0)
      else (match cond with
        | 0 => decide (level f a = level f b) | 1 => decide (level f a ≠ level f b) | 2 => decide (level f a < level f b)
        | 3 => decide (level f a ≤ level f b) | 4 => decide (level f b < level f a) | 5 => decide (level f b ≤ level f a)
        | 6 => false | _ => true, 0)) ∧
    Fl32.classify f a0 =
      2 ^ (if IsNan f a0 then 8
           else if IsInf f a0 then (if s a0 then 0 else 7)
           else if expOf f a0 ≠ 0 then (if s a0 then 1 else 6)
           else if manOf f a0 ≠ 0 then (if s a0 then 2 else 5)
           else if s a0 then 3 else 4)


/-- R295 to R297, R300, R301. That EXIT waits for the loads and atomics of its strands is the model's reading of log 8. -/
def Obligations.LaneBranchesAndCalls : Prop :=
  ∀ (s : Sys2Proof.Machine.State) (d c g sl : Nat) (t : Sys2Proof.Machine.Team) (x : Sys2Proof.Machine.Group)
    (o : Sys2Proof.COps), LaneAt s d c g sl t x .vector ((s.die d).priceOf 9) → x.active sl ≠ 0 → sl < 2 →
    let price := (s.die d).priceOf 9
    let blocks := (t.frameOf x).blocks
    let act := x.active sl
    let p := x.slot sl
    let b1 := o.t1.toNat
    let condOf (st : Nat) : Bool := (x.operand st o.cond.toNat != 0) != (o.neg == 1)
    let next := laneDone s s d c g sl .vector price
    let faults (code : Nat) := laneFaults s d c g sl { code }
    let enters (y : Sys2Proof.Machine.Group) (b : Nat) :=
      if blocks ≤ b then faults Code.BADTARGET
      else laneMoved s (s.updGroup d c g fun _ => y.updSlot sl fun q =>
        { q with block := b, word := 1, walkFail := [], led := none, st := if b = q.mark then .waiting else .live }) d c g sl .vector price
    exec (.lNop o) s = next ∧ exec (.lYield o) s = next ∧
    exec (.lBra o) s = (if condOf 0 then enters x b1 else next) ∧
    exec (.lCall o) s = enters (x.setW (o.link.toNat - 192) (o.t2.zeroExtend 32)) b1 ∧
    ((x.operand 0 o.link.toNat).toNat < 4096 → exec (.lRet o) s = enters x (x.operand 0 o.link.toNat).toNat) ∧
    (4096 ≤ (x.operand 0 o.link.toNat).toNat → exec (.lRet o) s = faults Code.BADTARGET) ∧
    (192 ≤ o.cond.toNat → exec (.lBrx o) s = (if condOf 0 then enters x b1 else next)) ∧
    (o.cond.toNat < 192 → ∀ tk : BitVec 32, (∀ st, st < 32 → tk.getLsbD st = (act.getLsbD st && condOf st)) →
      let m := Sys2Proof.Bits.field (t.header x p.block).toNat 24 12
      (tk = 0 → exec (.lBrx o) s = next) ∧
      (tk ≠ 0 → tk = p.mask → exec (.lBrx o) s = enters x b1) ∧
      (tk ≠ 0 → tk ≠ p.mask →
        let rest := x.updSlot sl fun q => { q with mask := q.mask &&& ~~~tk, mark := m }
        let bad := m ≤ p.block ∨ p.mark ≤ m ∨ blocks ≤ m ∨ blocks ≤ b1
        (bad → exec (.lBrx o) s = faults Code.BADTARGET) ∧
        (¬ bad → (x.slot (1 - sl)).st = .empty →
          exec (.lBrx o) s = laneDone s (s.updGroup d c g fun _ => rest.updSlot (1 - sl) fun _ =>
            { mask := tk, mark := m, block := b1, word := 1, st := if b1 = m then .waiting else .live })
            d c g sl .vector price) ∧
        (¬ bad → (x.slot (1 - sl)).st ≠ .empty → t.divstack / 16 ≤ x.spill.length →
          exec (.lBrx o) s = faults Code.SPILL) ∧
        (¬ bad → (x.slot (1 - sl)).st ≠ .empty → x.spill.length < t.divstack / 16 →
          exec (.lBrx o) s = laneDone s (s.updGroup d c g fun _ =>
            { rest with spill := { mark := m, block := b1, mask := tk } :: rest.spill }) d c g sl .vector price))) ∧
    let out : Prop := (∃ l ∈ x.loads, l.mask &&& act ≠ 0) ∨ ∃ a, x.atom = some a ∧ a.mask &&& act ≠ 0
    (out → exec (.lExit o) s = .next s) ∧
    (¬ out → exec (.lExit o) s = (if p.mask &&& ~~~act = 0 then
        laneMoved s (s.updGroup d c g fun y => y.updSlot sl fun _ => {}) d c g sl .vector price
      else laneDone s (s.updGroup d c g fun y => y.updSlot sl fun q => { q with mask := p.mask &&& ~~~act })
        d c g sl .vector price))

/-- R161, R162, R294, R298, R299. -/
def Obligations.StructuredNesting : Prop :=
  ∀ (s : Sys2Proof.Machine.State) (d c g sl : Nat) (t : Sys2Proof.Machine.Team) (x : Sys2Proof.Machine.Group)
    (o : Sys2Proof.COps), LaneAt s d c g sl t x .vector ((s.die d).priceOf 9) →
    let price := (s.die d).priceOf 9
    let blocks := (t.frameOf x).blocks
    let mine (st : Nat) : Prop := st < 32 ∧ (x.slot sl).mask.getLsbD st = true
    let n (st : Nat) := (x.nestOf st).toNat
    let condOf (st : Nat) : Bool := (x.operand st o.cond.toNat != 0) != (o.neg == 1)
    let runs := ∃ st, mine st ∧ n st ≤ 1
    -- the group `y` has the counters that `f` gives, and is `x` otherwise
    let counted (f : Nat → Nat) (y : Sys2Proof.Machine.Group) : Prop :=
      y = { x with nest := y.nest } ∧
      ∀ st, st < 32 → (y.nestOf st).toNat = if (x.slot sl).mask.getLsbD st then f st else n st
    let puts (y : Sys2Proof.Machine.Group) := laneDone s (s.updGroup d c g fun _ => y) d c g sl .vector price
    let enters (y : Sys2Proof.Machine.Group) (b : Nat) := laneMoved s (s.updGroup d c g fun _ => y.updSlot sl fun q =>
      { q with block := b, word := 1, walkFail := [], led := none, st := if b = q.mark then .waiting else .live }) d c g sl .vector price
    let skipping (i : Sys2Proof.Instr) (f : Nat → Nat) : Prop :=
      (∀ st, mine st → f st ≤ 255) → ∃ y, counted f y ∧
        ((y.active sl ≠ 0 → exec i s = puts y) ∧
         (y.active sl = 0 → o.t1.toNat < blocks → exec i s = enters y o.t1.toNat) ∧
         (y.active sl = 0 → blocks ≤ o.t1.toNat → exec i s = laneFaults s d c g sl { code := Code.BADTARGET }))
    let straight (i : Sys2Proof.Instr) (f : Nat → Nat) : Prop :=
      (∀ st, mine st → f st ≤ 255) → ∃ y, counted f y ∧ exec i s = puts y
    let overflows (i : Sys2Proof.Instr) (f : Nat → Nat) : Prop :=
      (∃ st, mine st ∧ 255 < f st) → exec i s = laneFaults s d c g sl { code := Code.NEST }
    let ifF (st : Nat) := if n st = 0 then (if condOf st then 0 else 1) else n st + 1
    let elseF (st : Nat) := if n st = 0 then 1 else if n st = 1 then 0 else n st
    let loopF (st : Nat) := if n st = 0 then 0 else n st + 2
    let breakF (st : Nat) := if n st = 0 ∧ condOf st = true then o.k.toNat + 2 else n st
    let contF (st : Nat) := if n st = 0 ∧ condOf st = true then o.k.toNat + 1 else n st
    skipping (.lIf o) ifF ∧ overflows (.lIf o) ifF ∧ skipping (.lElse o) elseF ∧
    straight (.lEndif o) (fun st => n st - 1) ∧ straight (.lLoop o) loopF ∧ overflows (.lLoop o) loopF ∧
    straight (.lBreak o) breakF ∧ overflows (.lBreak o) breakF ∧ straight (.lCont o) contF ∧ overflows (.lCont o) contF ∧
    (runs → o.t1.toNat < blocks → ∃ y, counted (fun st => if n st = 1 then 0 else n st) y ∧
      exec (.lEndl o) s = enters y o.t1.toNat) ∧
    (runs → blocks ≤ o.t1.toNat → exec (.lEndl o) s = laneFaults s d c g sl { code := Code.BADTARGET }) ∧
    (¬ runs → straight (.lEndl o) (fun st => n st - 2))

/-- R303 to R305. Rests on the model's own choices of logs 15 and 36 (TFENCE, TRAP and BRK merge before the group stops, and a merge
that would fault is left for later). -/
def Obligations.LaneSystemResults : Prop :=
  ∀ (s : Sys2Proof.Machine.State) (d c g sl : Nat) (t : Sys2Proof.Machine.Team) (x : Sys2Proof.Machine.Group)
    (o : Sys2Proof.VOps), LaneAt s d c g sl t x .vector ((s.die d).priceOf 9) → x.active sl ≠ 0 →
    let price := (s.die d).priceOf 9
    let n := o.sc.toNat
    let die := s.die d
    let f (st : Nat) : Nat :=
      if n = 0x00 then g
      else if n = 0x01 then st
      else if n = 0x02 then (c % 256 + die.physOf c * 2 ^ 8 + d % 4 * 2 ^ 18) % 2 ^ 32
      else if n = 0x03 then t.rect.toNat % 2 ^ 32
      else if n = 0x04 then s.tick
      else if n = 0x05 then t.comp.cycle.toNat
      else if n = 0x06 then (t.provAt (t.fbIndex x (x.slot sl).block (x.slot sl).word)).toNat
      else if n = 0x08 then x.asf.toNat
      else if n = 0x09 then x.ate.toNat
      else if n = 0x0A then gsw t g x
      else if n = 0x0B then (die.swp.getD (die.clusterOf c) 0).toNat
      else if n = 0x0C then die.chg.toNat
      else if n = 0x0D then die.phaseSpace.toNat % 2 ^ 32
      else (die.phaseTab.getD (n - 0x10) 0).toNat
    let inTable : Prop := n ≤ 0x06 ∨ (0x08 ≤ n ∧ n ≤ 0x0D) ∨ (0x10 ≤ n ∧ n ≤ 0x14)
    let wide : Prop := n = 0x04 ∨ n = 0x05 ∨ n = 0x0A ∨ n = 0x0C ∨ (0x10 ≤ n ∧ n ≤ 0x14)
    let r0 := laneRecord s d c g sl { code := 0 }
    -- the group with slot `sl` at the next word
    let past := x.updSlot sl fun p => { (p.advance (t.frameOf x) (t.header x)) with wait := .none }
    let stops (i : Sys2Proof.Instr) (code access : Nat) : Prop :=
      ∃ s' y, exec i s = .next s' ∧ s'.group? d c g = some y ∧ y.st = .stopped ∧ y.code = code ∧ y.slotF = sl ∧
        y.frec.code = code ∧ y.frec.access = access ∧ y.frec.woff = (laneRecord s d c g sl { code }).woff ∧
        y.v = x.v ∧ y.w = x.w ∧ SidesKept x y ∧ GroupKept x y ∧ aside d c g s' = aside d c g s ∧
        match (past.noteLed r0).mergeAll (t.header x) past.mergeFuel with
        | .step z => (y.pc0, y.pc1, y.spill) =
            if past.syncBroken = none then ((z.noteLed r0).pc0, (z.noteLed r0).pc1, (z.noteLed r0).spill)
            else (past.pc0, past.pc1, past.spill)
        | .fault _ _ => (y.pc0, y.pc1, y.spill) = (past.pc0, past.pc1, past.spill)
        | .idle => True
    (x.asf &&& x.ate = 0 → exec (.lTfence o) s = laneDone s s d c g sl .vector price) ∧
    (x.asf &&& x.ate ≠ 0 → stops (.lTfence o) Code.ARITH (x.asf.toNat + 256 * x.ate.toNat)) ∧
    stops (.lTrap o) Code.TRAP o.sc.toNat ∧ stops (.lBrk o) Code.BRK o.sc.toNat ∧
    (inTable → Completes s (.lRds o) d c g x (fun y => SidesKept x y ∧
      (wide → WrotePair x y (x.active sl) o.dst.toNat f) ∧
      (¬ wide → Wrote x y (x.active sl) o.dst.toNat fun st => BitVec.ofNat 32 (f st)))) ∧
    ∃ s' y, exec (.lWrs o) s = .next s' ∧ s'.group? d c g = some y ∧ y.v = x.v ∧ y.w = x.w ∧ y.x = x.x ∧ y.e = x.e ∧
      aside d c g s' = aside d c g s ∧ GroupKept { x with ate := y.ate } y ∧
      (if o.sc = 0x08 then y.asf = (x.operand 0 o.sa.toNat).truncate 5 ∧ y.ate = x.ate
       else y.ate = (x.operand 0 o.sa.toNat).truncate 5 ∧ y.asf = x.asf)


namespace Sys2Proof.Machine

/-- A 64-byte item passes the checks of a load and has been read: its bytes are `item`, and the reading leads to `s2`. -/
def ItemRead (ctx : LaneCtx) (s : State) (va item : Nat) (s2 : State) : Prop :=
  ∃ s1 e, checkGlobal ctx s .load 64 1 va (accessOf 0 6 0) = (s1, .ok e) ∧ ctx.t.lockHit false false va 64 = false ∧
    let u : LUnit := { strand := 0, part := 0, loc := locAt s1 ctx.d e va, va, n := 64, l1 := min 2 e.leaf.cache, ll := engineLl e.leaf }
    serveGlobal s1 ctx.d ctx.c ctx.t (.group ctx.g) { i := .lNop {}, slot := ctx.sl, mask := 0, units := [u], no := ctx.t.issues } u = .got item s2

end Sys2Proof.Machine

/-- R309, R312, R313, R315, R323: issue of the accumulator actions. Rests on the model's own choices of logs 8 (issue behind the
group's accesses), 11, 24 and 44 (the wait for a write still on its way to an entry's bytes). -/
def Obligations.MatrixIssue : Prop :=
  ∀ (s : Sys2Proof.Machine.State) (d c g sl : Nat) (t : Sys2Proof.Machine.Team) (x : Sys2Proof.Machine.Group)
    (o : Sys2Proof.XOps), x.active sl ≠ 0 →
    let w := (x.operand 0 o.rb.toNat).toNat
    let e := (x.operand 0 (o.rb.toNat + 1)).toNat
    let win := w / 2048 % 1024
    let rows := 32 * o.tr.toNat + 32
    let faults (f : FaultInfo) := laneFaults s d c g sl f
    let acc (k : Nat) := accessOf k 4 1
    let enter (price : Nat) (i : Sys2Proof.Instr) (lock : Option (Bool × Nat × Nat)) (win edge ofs cons : Nat) :=
      let locks := match lock with | some (wr, lo, n) => [Team.lockOn (.matrix t.matNo) wr true lo n] | none => []
      if 64 ≤ t.matq.length ∨ takesLocks (s.die d) c t locks = false then .next s
      else laneDone s ((drainToS s d c (.group g)).updTeam d c fun u =>
        { u with
          matq := u.matq ++ [{ no := u.matNo, i, g, owner := .pending g, regs := x.v, active := x.active sl, win, edge,
                               ofs, scNo := u.scCons, j := 0, failed := false }]
          matNo := u.matNo + 1, scCons := u.scCons + cons
          locks := u.locks ++ match lock with
            | some (wr, lo, n) => [Team.lockOn (.matrix u.matNo) wr true lo n]
            | none => []
          groups := Sys2Proof.Bits.updAt u.groups g fun y =>
            { y with pend := { y.pend with cons := y.pend.cons + cons, left := y.pend.left + 1 } } }) d c g sl .vector price
    let chain (i : Sys2Proof.Instr) (n : Nat) :=
      let last := win + Sys2Proof.Checks.badv o * (n - 1)
      if w / 2 ^ 21 ≠ 0 then faults { code := Code.SHAPE, access := acc 7 }
      else if w % 2048 ≠ 0 then faults { code := Code.MISALIGN, access := acc 7, va := w }
      else if t.scratch < (last + 1) * 2048 then
        faults { code := Code.XLATE, cause := Cause.OUTSIDE, access := acc 7, va := last * 2048 }
      else if edgeBad t.vregs o.fmt e then faults { code := Code.SHAPE, access := acc 7 }
      else if t.accRows < rows then faults { code := Code.ACCBOUND }
      else enter ((s.die d).priceOf 9) i (some (false, win * 2048, (Sys2Proof.Checks.badv o * (n - 1) + 1) * 2048)) win e 0 (stepsTake o.fmt n)
    let buffer (i : Sys2Proof.Instr) (wr : Bool) :=
      let n := 128 * Sys2Proof.Fmt.elemBits o.fmt
      let a := acc (if wr then 8 else 7)
      if w % 16 ≠ 0 then faults { code := Code.MISALIGN, access := a, va := w }
      else if t.scratch < w + n then faults { code := Code.XLATE, cause := Cause.OUTSIDE, access := a, va := w }
      else if t.accRows < rows then faults { code := Code.ACCBOUND }
      else enter 0 i (some (wr, w, n)) 0 0 w 0
    (LaneQuiet s d c g sl t x .vector ((s.die d).priceOf 9) →
      exec (.lMma o) s = chain (.lMma o) 1 ∧ exec (.lMloop o) s = chain (.lMloop o) o.cnt.toNat) ∧
    (LaneAt s d c g sl t x .vector 0 →
      exec (.lAclr o) s = (if t.accRows < rows then faults { code := Code.ACCBOUND } else enter 0 (.lAclr o) none 0 0 0 0)) ∧
    (LaneQuiet s d c g sl t x .vector 0 →
      exec (.lAld o) s = buffer (.lAld o) false ∧
      exec (.lAst o) s = buffer (.lAst o) true)

/-- R315, R317, R319, R331. Rests on the model's own choices of logs 12, 24. -/
def Obligations.BatchesAndScaleFeed : Prop :=
  ∀ (s : Sys2Proof.Machine.State) (d c g sl : Nat) (t : Sys2Proof.Machine.Team) (x : Sys2Proof.Machine.Group)
    (o : Sys2Proof.XOps), x.active sl ≠ 0 →
    let n := o.bat.toNat
    let b := t.batches.getD n {}
    let price := (s.die d).priceOf 9
    let done (s1 : Sys2Proof.Machine.State) := laneDone s s1 d c g sl .vector price
    let faults (f : FaultInfo) (s1 : Sys2Proof.Machine.State) := laneFaults s1 d c g sl f
    (LaneAt s d c g sl t x .vector price →
      exec (.lMbatch o) s =
        (if b.inFlight then .next s
         else if x.pend.cons ≠ b.prod then faults { code := Code.DESYNC } s
         else done (s.updTeam d c fun u =>
           { u with
             batches := u.batches.set n { inFlight := decide (0 < x.pend.left), left := x.pend.left, prod := 0,
                                          err := if b.err.isNone then x.pend.err else b.err
                                          errNo := if b.err.isNone then x.pend.errNo else b.errNo }
             matq := u.matq.map fun a => if a.owner = .pending g then { a with owner := .batch n } else a
             groups := Sys2Proof.Bits.updAt u.groups g fun y => { y with pend := {} } })) ∧
      exec (.lMwait o) s =
        (if b.inFlight then .next s
         else match b.err with
         | some k => faults { code := Code.ENGINE, cause := k, access := k, aux := 16 + n }
             (s.updTeam d c fun u => { u with batches := u.batches.set n { b with err := none } })
         | none => done s) ∧
      exec (.lCwait o) s =
        (if t.copies.any (fun k => k.cgrp = n && decide (k.no < t.copyNo)) then
           laneHeld s d c g sl .vector price (.copies n t.copyNo) t.issues
         else match firstErr (t.copyErrs.filter fun e => e.cgrp = n && decide (e.no < t.copyNo)) with
         | some e => faults { code := Code.ENGINE, cause := e.cause, access := e.cause, aux := n, va := e.va }
             (s.updTeam d c fun u => { u with copyErrs := u.copyErrs.filter fun e => !(e.cgrp = n && decide (e.no < t.copyNo)) })
         | none => done s)) ∧
    (LaneAt s d c g sl t x .matrix ((s.die d).priceOf 15) →
      exec (.lScfeed o) s =
        if t.scProd + o.cnt.toNat ≤ t.scFree + 256 then
          laneDone s (s.updTeam d c fun u =>
            { u with
              scProd := u.scProd + o.cnt.toNat
              batches := Sys2Proof.Bits.updAt u.batches n fun k => { k with prod := k.prod + o.cnt.toNat }
              scFill := (List.range o.cnt.toNat).foldl (fun m k =>
                Sys2Proof.SMap.insert m (u.scProd + k) (x.vreg o.ra.toNat k)) u.scFill }) d c g sl .matrix ((s.die d).priceOf 15)
        else .next s)

/-- R329, R334, R336, R342. Rests on the model's own choices of logs 8 (issue behind the group's accesses), 12, 24, 44 (the wait
for a write to an entry's bytes) and 45 (hop 0 of a malformed COLL's completion). -/
def Obligations.CopyAndCollectiveIssue : Prop :=
  ∀ (s : Sys2Proof.Machine.State) (d c g sl : Nat) (t : Sys2Proof.Machine.Team) (x : Sys2Proof.Machine.Group)
    (o : Sys2Proof.XOps), LaneAt s d c g sl t x .vector ((s.die d).priceOf 9) → x.active sl ≠ 0 →
    let ctx := ctxOf d c g sl t x
    let r (k : Nat) := (x.operand 0 (o.rb.toNat + k)).toNat
    let done (s1 : Sys2Proof.Machine.State) := laneDone s s1 d c g sl .vector ((s.die d).priceOf 9)
    let shape := laneFaults s d c g sl { code := Code.SHAPE }
    exec (.lCdisarm o) s =
      (if 64 ≤ r 0 then shape
       else done (s.updDie d fun y =>
         match Sys2Proof.SMap.find? y.watch (r 0) with
         | some e => if e.key = t.key then { y with watch := Sys2Proof.SMap.erase y.watch (r 0) } else y
         | none => y)) ∧
    (x.unbound = false →
    (∀ k, cpyOp ctx o = .ok k →
      let locks := Team.lockOn (.copy k.no) false false (k.rowVa 0) (srcEnd k - k.rowVa 0) ::
        Team.lockOn (.copy k.no) true k.dsp k.dst k.total ::
        (match (if k.scf then shadowSpan (s.die d) c k else none) with
         | some (lo, n) => [Team.lockOn (.copy k.no) false false lo n] | none => [])
      exec (.lCpy o) s =
        if 8 ≤ t.copies.length ∨ takesLocks (s.die d) c t locks = false ∨ t.scFree + 256 < t.scProd + k.scCnt then .next s
        else done ((drainToS s d c (.group g)).updTeam d c fun u =>
          let v := if k.scf then u.scTake k.scCnt (r 7 / 256 % 16) else u
          { v with copies := v.copies ++ [k], copyNo := v.copyNo + 1, locks := v.locks ++ locks })) ∧
    ((r 6 / 2 % 2 ^ 15 ≠ 0 ∨ r 6 / 2 ^ 26 % 2 ^ 6 ≠ 0 ∨ r 7 ≠ 0) → exec (.lCtrig o) s = shape) ∧
    (r 6 / 2 % 2 ^ 15 = 0 → r 6 / 2 ^ 26 % 2 ^ 6 = 0 → r 7 = 0 →
      let wide := (r 6).testBit 0
      let n := if wide then 8 else 4
      let va := r 0 + r 1 * 2 ^ 32
      onPeerPage (s.die d) c va = false →
      ∀ s1 e, checkGlobal ctx s .atomic n 1 va (accessOf 2 (Sys2Proof.Bits.log2 n) 0) = (s1, .ok e) →
      ∀ item s2, ItemRead ctx s1 (r 4 + r 5 * 2 ^ 32) item s2 →
      let wrote (v : Sys2Proof.Word32) (s3 : Sys2Proof.Machine.State) :=
        done (s3.updGroup d c g fun y => y.setW (o.ra.toNat - 192) v)
      (freeWatch (s2.die d) = none → exec (.lCtrig o) s = wrote 0xFFFF_FFFF s2) ∧
      (∀ pa k, e.loc va = .hbm pa → freeWatch (s2.die d) = some k →
        (t.inQueue (.group g) t.issues (.hbm pa) n || xbarHolds (s2.die d) c (.hbm pa) n) = true → exec (.lCtrig o) s = .next s2) ∧
      (∀ pa k, e.loc va = .hbm pa → freeWatch (s2.die d) = some k →
        t.inQueue (.group g) t.issues (.hbm pa) n = false → xbarHolds (s2.die d) c (.hbm pa) n = false →
        (s2.die d).isBad pa n = false → exec (.lCtrig o) s = wrote (BitVec.ofNat 32 k) (armWatch s2 d k (engineLl e.leaf)
          { pa, wide, cmp := o.xq.toNat % 4, value := r 2 + r 3 * 2 ^ 32, item := pktOfNat item,
            q := r 6 / 2 ^ 16 % 1024, core := c, key := t.key }))) ∧
    (∀ item s1, ItemRead ctx s (r 0 + r 1 * 2 ^ 32) item s1 →
      let pkt := pktOfNat item
      let p : CollPkt := { pkt, src := .coll c g t.collNo t.key, org := d, issue := t.issues }
      let w := collWriteSpan s1 d p
      let locks := Team.lockOn (.coll t.collNo) false false (collSrcv pkt) (collLen pkt) ::
        (match w.2 with | some (va, n) => [Team.lockOn (.coll t.collNo) true false va n] | none => [])
      (collMalformed (s1.die d) pkt = true → exec (.lColl o) s =
        done (updColl (s1.updTeam d c fun u => { u with collNo := u.collNo + 1 }) d fun k =>
          { k with finished := k.finished ++ [{ p, cause := Cause.BADPKT, hop := 0 }] })) ∧
      (collMalformed (s1.die d) pkt = false → takesLocks (s1.die d) c t locks = true → exec (.lColl o) s =
        done (updColl ((drainToS w.1 d c (.group g)).updTeam d c fun u =>
          { u with collNo := u.collNo + 1, locks := u.locks ++ locks }) d fun k => { k with queue := k.queue ++ [p] }))))

/-- R388, R110, R119, R170, R173, R276, R27, R38: RENDEZVOUS_RELEASE, SPAN_RELEASE, FE_GRANULE_SERVE, LOAD_RETURN, APERTURE_REQUEST_UNANSWERED. Rests on the model's own choices of logs 1, 8, 12, 25, 41, 44. -/
def Obligations.WaitsAndLoadsComplete : Prop :=
  (∀ (s : Sys2Proof.Machine.State) (d c g sl : Nat) (t : Sys2Proof.Machine.Team) (x : Sys2Proof.Machine.Group),
      s.cur = .service d → s.team? d c = some t → s.group? d c g = some x → t.halted = false → x.st = .running →
      (pulsePasses s (s.die d) c = false → ∀ gr, exec (.eRendezvousRelease c g sl) s = .next s ∧
        exec (.eSpanRelease c g sl) s = .next s ∧ exec (.eFeGranuleServe c g sl gr) s = .next s ∧ exec (.eLoadReturn c g) s = .next s) ∧
      (pulsePasses s (s.die d) c = true →
      (∀ n ph, (x.slot sl).wait = .rendezvous n ph →
        let p := t.points.getD n {}
        exec (.eRendezvousRelease c g sl) s = .next
          (if p.phase ≠ ph ∧ p.time + 8 * (g % 4) ≤ s.pkg.mclk then
             completeHeld (if 2 ≤ p.doneScope then s.updTeam d c Team.dropL1 else s) d c g sl
           else s)) ∧
      (∀ n ph, (x.slot sl).wait = .span n ph →
        exec (.eSpanRelease c g sl) s = .next
          (if spanOver s d c n ph then completeHeld (s.updTeam d c Team.dropL1) d c g sl else s)) ∧
      (∀ n o left gr f more, (x.slot sl).wait = .fe n o left →
        left.filter (fun e => e.ofs / 16 = gr) = f :: more → f.core = c →
        let b := Sys2Proof.Fmt.container o.szf * Sys2Proof.Checks.Cnt.num n
        let no := (x.slot sl).no
        let rest := left.filter fun e => e.ofs / 16 ≠ gr
        let bads := left.filter fun e => (feFails s d c b e).isSome
        let begins := x.clearTo t.stopReq no = true ∧ ∀ l ∈ x.loads, no < l.no ∨ ∀ w ∈ l.units, w.val ≠ none
        let whole := bads = [] ∨ x.feServed &&& x.active sl ≠ 0
        let ready := t.isFull gr = true ∧ t.lockHit true false f.ofs b = false ∧ t.badSp f.ofs b = false ∧
          t.inQueue (.group g) no (.sp c (16 * gr)) 16 = false
        let loaded (y : Sys2Proof.Machine.Group) := (f :: more).foldl (fun y e => loadRegs y e.strand o.data.toNat
          (Sys2Proof.Fmt.container o.szf) o.szf (Sys2Proof.Checks.Cnt.num n) (t.sp.read e.ofs b)) y
        (¬ begins → exec (.eFeGranuleServe c g sl gr) s = .next s) ∧
        (begins →
        (∀ e es code, bads = e :: es → x.feServed &&& x.active sl = 0 → feFails s d c b e = some code →
          exec (.eFeGranuleServe c g sl gr) s = .next (takeLaneFault
            ((giveUp (if code = Code.UE then reportUe s d else s) d c g no).updGroup d c g fun y => { y with heldFrom := some no }) d c g sl
            { code, va := e.ofs, access := accessOf 0 (Sys2Proof.Bits.log2 b) (if e.core = c then 1 else 2), mask := feMask bads })) ∧
        (whole → ¬ ready → exec (.eFeGranuleServe c g sl gr) s = .next s) ∧
        (ready → whole → rest ≠ [] → ∃ s' y u, exec (.eFeGranuleServe c g sl gr) s = .next s' ∧ s'.team? d c = some u ∧
          s'.group? d c g = some y ∧ (y.slot sl).wait = .fe n o rest ∧ y.v = (loaded x).v ∧ y.w = (loaded x).w ∧
          u.sp = t.sp ∧ u.fe = (if Sys2Proof.Checks.mPol o = 1 then t.setFull gr false else t).fe) ∧
        (ready → whole → rest = [] → ∃ s1 y u, s1.team? d c = some u ∧ s1.group? d c g = some y ∧
          exec (.eFeGranuleServe c g sl gr) s = .next (completeHeld
            (if Sys2Proof.Checks.mFlag o = true ∧ 2 ≤ (Sys2Proof.Checks.mScope o).toNat then s1.updTeam d c Team.dropL1 else s1) d c g sl) ∧
          y.v = (loaded x).v ∧ y.w = (loaded x).w ∧ u.sp = t.sp ∧
          u.fe = (if Sys2Proof.Checks.mPol o = 1 then t.setFull gr false else t).fe))))) ∧
  (∀ (s : Sys2Proof.Machine.State) (d c g : Nat) (t : Sys2Proof.Machine.Team) (x : Sys2Proof.Machine.Group)
      (op : LoadOp) (more : List LoadOp) (u : LUnit),
      s.cur = .service d → s.team? d c = some t → s.group? d c g = some x → x.loads = op :: more →
      let regs := (List.range (loadRegsOf op.i)).map ((loadOps op.i).data.toNat + ·)
      let returned (z : Sys2Proof.Machine.State) (o : LoadOp) : Sys2Proof.Machine.State :=
        healRegs ((z.updGroup d c g fun y => { y with loads := y.loads.drop 1 }).updGroup d c g o.writeRegs) d c g regs o.mask
      (pulsePasses s (s.die d) c = true → op.next s.pick = some u → x.clearTo t.stopReq op.no = false → exec (.eLoadReturn c g) s = .next s) ∧
      (pulsePasses s (s.die d) c = true → op.next s.pick = some u → x.clearTo t.stopReq op.no = true →
        (∀ w, serveNext s d c t (.group g) op u = (w, .notYet) → exec (.eLoadReturn c g) s = .next s) ∧
        (∀ w k s1, serveNext s d c t (.group g) op u = (w, .failed k s1) →
          let r := failUnits (unitFails d c t (.group g) op) op w (k, false) s1
          exec (.eLoadReturn c g) s = .next (loadFails r.1 d c g op r.2)) ∧
        (∀ v w s1, serveNext s d c t (.group g) op u = (w, .got v s1) →
          let units := op.units.map fun w =>
            if (if u.lone = true then w.strand = u.strand ∧ w.part = u.part
                else w.n = u.n ∧ (w.loc = u.loc ∨ w.lone = false ∧ u.loc.meets 1 w.loc 1 = true)) ∧ w.val = none then
              { w with val := some v } else w
          let op1 := { op with units := units }
          let s2 := s1.updGroup d c g fun y => { y with loads := op1 :: y.loads.drop 1 }
          ((∃ w ∈ units, w.val = none) → exec (.eLoadReturn c g) s = .next s2) ∧
          ((∀ w ∈ units, w.val ≠ none) →
            let s3 := if loadFar op.i then s2.updTeam d c Team.dropL1 else s2
            let stepped := match s1.group? d c g with | some y => y.step && y.stepping = some op.slot | none => false
            exec (.eLoadReturn c g) s = .next (completeHeld (if stepped then returned s3 op1 else s3) d c g op.slot)))) ∧
      (pulsePasses s (s.die d) c = true → (∀ w ∈ op.units, w.val ≠ none) →
        exec (.eLoadReturn c g) s = .next (returned s op)) ∧
      (op.left.find? (fun w => w.loc.isHost) = some u →
        let r := failUnits (unitFails d c t (.group g) op) op u (Cause.UE, false) (reportUe s d)
        exec (.eApertureRequestUnanswered c (.group g)) s = .next (loadFails r.1 d c g op r.2)) ∧
      (∀ l, let f := unitFault c op l
        (∀ k, k < 32 → f.mask.getLsbD k = l.any fun e => decide (e.1.strand = k)) ∧
        ∀ e r, l = e :: r → e.2.2 = false → f.va = e.1.va ∧
          f.code = match e.1.loc with
            | .sp _ _ => if e.2.1 = Cause.UE then Code.UE else Code.ABSENT
            | _ => laneCode e.2.1) ∧
      (∀ k, t.ts.findIdx? (fun w => w.party = .composer && w.loc.isHost) = some k →
        exec (.eApertureRequestUnanswered c .composer) s = .next
          ((s.updTeam d c fun v => { v with ts := v.ts.eraseIdx k }).updTeam d c fun v =>
            if v.comp.storeErr = none then { v with comp := { v.comp with storeErr := some Cause.LINKDOWN } } else v)))

/-- R80, R110, R113, R124, R272, R388: the value of a load unit and the registers of a load. Rests on the model's own choices of logs 8, 25. -/
def Obligations.LoadResults : Prop :=
  (∀ (s : Sys2Proof.Machine.State) (d c g : Nat) (t : Sys2Proof.Machine.Team) (op : LoadOp) (u : LUnit),
      s.team? d c = some t → t.ts = [] → t.queued (.group g) = [] →
      let got := serveUnit s d c t (.group g) op u
      (∀ a, u.loc = .sp c a →
        (pulsePasses s (s.die d) c = false → got = .notYet) ∧
        (pulsePasses s (s.die d) c = true →
          (t.lockHit true false a u.n = true → got = .locked) ∧
          (t.lockHit true false a u.n = false →
            (isRdf op.i = true → got = .got (if t.isFull (a / 16) then 1 else 0) s) ∧
            (isRdf op.i = false →
              (t.badSp a u.n = false → got = .got (t.sp.read a u.n) s) ∧
              (t.badSp a u.n = true → got = .failed Cause.UE (reportUe s d)))))) ∧
      (∀ a, u.loc = .hbm a →
        (t.lockHit false false u.va u.n = true → got = .locked) ∧
        (t.lockHit false false u.va u.n = false → u.l1 = 2 → (s.die d).episodes = [] → (s.die d).isBad a u.n = false →
          xbarHolds (s.die d) c u.loc u.n = false → ∃ s', got = .got ((s.die d).hbm.read a u.n) s' ∧ MemKept s s'))) ∧
  (∀ (op : LoadOp) (x : Sys2Proof.Machine.Group) (n : Sys2Proof.Cnt) (o : Sys2Proof.MOps),
      (op.i = .lLd n o ∨ op.i = .lLds n o) → op.decs = [] →
      let c0 := Sys2Proof.Fmt.container o.szf
      let k := Sys2Proof.Checks.Cnt.num n
      let regs := if c0 = 8 then 2 * k else k
      o.data.toNat + regs ≤ 192 →
      let y := op.writeRegs x
      SidesKept x y ∧ y.w = x.w ∧
      ∀ r st, r < 192 → st < 32 → y.vreg r st =
        if op.mask.getLsbD st = true ∧ o.data.toNat ≤ r ∧ r < o.data.toNat + regs then
          let j := r - o.data.toNat
          if c0 = 8 then BitVec.ofNat 32 (Sys2Proof.Bits.field (op.bytesOf st) (32 * j) 32)
          else BitVec.ofNat 32 (extend o.szf (Sys2Proof.Bits.field (op.bytesOf st) (8 * c0 * j) (8 * c0)))
        else x.vreg r st)


namespace Sys2Proof.Machine

/-- Of the HBM of die `d` only the `n` bytes from `pa` change: they hold `v`. The other dies' HBM, host memory and
every composer store and scratchpad read as before. -/
structure HbmPut (s s' : State) (d pa n v : Nat) : Prop where
  hbm  : ∀ e a, (s'.die e).hbm.byte a =
    if e = d ∧ pa ≤ a ∧ a < pa + n then BitVec.ofNat 8 (v / 2 ^ (8 * (a - pa))) else (s.die e).hbm.byte a
  host : ∀ a, s'.pkg.hostMem.byte a = s.pkg.hostMem.byte a
  team : ∀ e c t, s.team? e c = some t → ∃ u, s'.team? e c = some u ∧
    (∀ a, u.sp.byte a = t.sp.byte a) ∧ ∀ a, u.store.byte a = t.store.byte a

/-- Nothing beside the accessed bytes reacts to an access of die `d`: no episode is open, no watch entry is armed, no
unit is uncorrectable. -/
structure Undisturbed (s : State) (d : Nat) : Prop where
  episodes : (s.die d).episodes = []
  watch    : (s.die d).watch = []
  bad      : (s.die d).bad = []
  badLlc   : (s.die d).badLlc = []

end Sys2Proof.Machine

/-- R109, R110, R114: STORE_PERFORMED. Rests on the model's own choices of logs 8, 19. -/
def Obligations.StoresPerformed : Prop :=
  ∀ (s : Sys2Proof.Machine.State) (d c k : Nat) (t : Sys2Proof.Machine.Team) (w : Sys2Proof.Machine.Write),
    s.cur = .service d → s.team? d c = some t →
    (∀ p, pulsePasses s (s.die d) c = false → exec (.eStorePerformed c (.enterS p)) s = .next s) ∧
    (∀ p more, t.sq = w :: more → w.party = p → pulsePasses s (s.die d) c = true → t.mayEnter w = false →
      exec (.eStorePerformed c (.enterS p)) s = .next (s.updTeam d c fun _ => t)) ∧
    (∀ g x, w.party = .group g → t.groups[g]? = some x → (t.mayEnter w = true ↔ x.clearTo t.stopReq w.no = true)) ∧
    (∀ p a n v more, t.sq = w :: more → w.party = p → w.kind = .store n v → pulsePasses s (s.die d) c = true → t.mayEnter w = true →
      (w.loc = .hbm a → 0 < n → ∃ s' u, exec (.eStorePerformed c (.enterS p)) s = .next s' ∧ s'.team? d c = some u ∧
        u.sq = more ∧ u.ts = t.ts ++ [w] ∧ (∀ l ∈ u.l1, l.loc.meets 128 (.hbm a) 1 = false) ∧ MemKept s s') ∧
      (w.loc = .sp c a → ∃ u, exec (.eStorePerformed c (.enterS p)) s = .next (s.updTeam d c fun _ => u) ∧
        u.sq = more ∧ u.store = t.store ∧ u.groups = t.groups ∧
        if spDirect t w = true then
          u.ts = t.ts ∧ (∀ b, a ≤ b → b < a + n → u.tagOf (b / 2048) = 0x3F) ∧
          ∀ b, u.sp.byte b = if a ≤ b ∧ b < a + n then BitVec.ofNat 8 (v / 2 ^ (8 * (b - a))) else t.sp.byte b
        else u.ts = t.ts ++ [w] ∧ u.sp = t.sp)) ∧
    (t.ts[k]? = some w → exec (.eStorePerformed c (.accept k)) s = .next
      (if pulsePasses s (s.die d) c = true ∧ mayAccept (s.die d) t c k = true then
         s.updTeam d c fun u => { u with ts := Sys2Proof.Bits.updAt u.ts k fun v => { v with accepted := true } }
       else s)) ∧
    (∀ a n v, t.ts[k]? = some w → w.kind = .store n v →
      (mayLand s d c t k = false → exec (.eStorePerformed c (.perform k)) s = .next s) ∧
      (mayLand s d c t k = true → w.loc = .hbm a → Undisturbed s d →
        ∃ s' u, exec (.eStorePerformed c (.perform k)) s = .next s' ∧ s'.team? d c = some u ∧
          u.ts = t.ts.eraseIdx k ∧ u.groups = t.groups ∧ HbmPut s s' d a n v) ∧
      (mayLand s d c t k = true → ∀ e b, w.loc = .sp e a → s.team? d e = some b →
        ∃ s' u b', exec (.eStorePerformed c (.perform k)) s = .next s' ∧ s'.team? d c = some u ∧
          u.ts = t.ts.eraseIdx k ∧ s'.team? d e = some b' ∧ b'.store = b.store ∧ b'.groups = b.groups ∧
          ∀ q, b'.sp.byte q = if a ≤ q ∧ q < a + n then BitVec.ofNat 8 (v / 2 ^ (8 * (q - a))) else b.sp.byte q))

/-- R278, R280, R281, R93 to R95: HOME_AGENT_ACCESS and an episode of one contribution. Rests on the model's own choices of logs 25, 40. -/
def Obligations.HomeAgentResults : Prop :=
  (∀ (s : Sys2Proof.Machine.State) (d c k g a op n x y : Nat) (fmt : BitVec 6) (t : Sys2Proof.Machine.Team)
      (z : Sys2Proof.Machine.Group) (w : Sys2Proof.Machine.Write),
      s.cur = .service d → s.team? d c = some t → t.ts[k]? = some w → mayLand s d c t k = true → Undisturbed s d →
      w.loc = .hbm a → w.party = .group g → s.group? d c g = some z →
      let old := (s.die d).hbm.read a n
      let new := rmw op fmt n old x y
      (w.kind = .red op n fmt x → (op = 7 → old = 0) →
        ∃ s' u, exec (.eHomeAgentAccess c k) s = .next s' ∧ s'.team? d c = some u ∧ u.groups = t.groups ∧
          u.ts = t.ts.eraseIdx k ∧ HbmPut s s' d a n (rmw op fmt n old x 0)) ∧
      (∀ s1, w.kind = .atomic op n fmt x y → w.site = none → atomAccept s d c g w = .error s1 →
        exec (.eHomeAgentAccess c k) s = .next s1) ∧
      (∀ o, w.kind = .atomic op n fmt x y → w.site = none → atomOf z w.no = some o →
        (∀ v ∈ t.ts ++ t.sq, atomWrite g w.no v = true → (∃ b, v.loc = .hbm b) ∧ (v.strand = w.strand → v = w)) →
        ∃ s1 u, atomAccept s d c g w = .ok s1 ∧ MemKept s s1 ∧ s1.team? d c = some u ∧
          u.ts[k]? = some { w with site := some (.at d (.hbm a) none) } ∧
          exec (.eHomeAgentAccess c k) s =
            .next (performAtom s1 d c k { w with site := some (.at d (.hbm a) none) } g op n fmt x y)) ∧
      (∀ o, w.kind = .atomic op n fmt x y → w.site = some (.at d (.hbm a) none) → atomOf z w.no = some o → o.o.data.toNat < 192 →
        Sys2Proof.Fmt.is64 o.o.szf = false → w.strand < 32 →
        ∃ s' y', exec (.eHomeAgentAccess c k) s = .next s' ∧ s'.group? d c g = some y' ∧
          (∀ r st, r < 192 → st < 32 → y'.vreg r st =
            if r = o.o.data.toNat ∧ st = w.strand then BitVec.ofNat 32 old else z.vreg r st) ∧
          (¬ (op = 7 ∧ old ≠ y) → HbmPut s s' d a n new) ∧
          (op = 7 ∧ old ≠ y → HbmPut s s' d a 0 0)) ∧
      (fmt ≠ Sys2Proof.Fmt.F32 → (n = 4 ∨ n = 8) → x < 2 ^ (8 * n) →
        let val (v : Nat) : Int := if Sys2Proof.Fmt.isSigned fmt = true ∧ 2 ^ (8 * n - 1) ≤ v then (v : Int) - 2 ^ (8 * n) else v
        (op = 0 → new = (old + x) % 2 ^ (8 * n)) ∧
        (op = 1 → val new = min (val old) (val x)) ∧ (op = 2 → val new = max (val old) (val x)) ∧
        (op = 3 → new = old &&& x) ∧ (op = 4 → new = old ||| x) ∧ (op = 5 → new = old ^^^ x) ∧
        (op = 6 → new = x) ∧ (op = 7 → new = if old = y then x else old)) ∧
      (fmt = Sys2Proof.Fmt.F32 → n = 4 → x < 2 ^ 32 →
        (op = 0 ∨ op = 8 → new = (Fl32.add Sys2Proof.Fl.f32 .rn false old x).w) ∧
        (op = 1 → new = (Sys2Proof.Fl.minMax Sys2Proof.Fl.f32 false false old x).w) ∧
        (op = 2 → new = (Sys2Proof.Fl.minMax Sys2Proof.Fl.f32 true false old x).w) ∧
        (op = 3 → new = old &&& x) ∧ (op = 4 → new = old ||| x) ∧ (op = 5 → new = old ^^^ x) ∧
        (op = 6 → new = x) ∧ (op = 7 → new = if old = y then x else old))) ∧
  (∀ (x : Sys2Proof.Machine.Die) (now pkg die unit pa v treat : Nat), x.episodes = [] → pa % 4 = 0 → v < 2 ^ 32 →
      x.isBad pa 4 = false →
      let y := x.contribute now pkg die unit pa 0 Sys2Proof.Fmt.N32 v treat
      let z := y.endEpisode (pa / 128)
      (∀ a, y.hbm.byte a = x.hbm.byte a) ∧ (y.episode? (pa / 128)).isSome = true ∧ z.episodes = [] ∧
      z.hbm.read pa 4 = (x.hbm.read pa 4 + v) % 2 ^ 32 ∧
      ∀ a, a < pa ∨ pa + 4 ≤ a → z.hbm.byte a = x.hbm.byte a)

/-- R32, R33, R40: TRANSLATION_WALK, TLB_INVALIDATE_RANGE and _ALL, TLB_INVALIDATION_COMPLETE. Rests on the model's own choices of logs 9, 10. -/
def Obligations.TranslationsFilledAndInvalidated : Prop :=
  ∀ (s : Sys2Proof.Machine.State) (d : Nat), s.cur = .service d → d < s.dies.length →
    let x := s.die d
    (∀ n, walkCluster x = some n → clusterPulse s x n = false → exec .eTranslationWalk s = .next s) ∧
    (∀ n m e ptrs, walkCluster x = some n → x.misses.find? (fun m => x.clusterOf m.core = n) = some m →
      walk x (m.page * 65536) = (.ok e, ptrs) → clusterPulse s x n = true →
      ∃ s', exec .eTranslationWalk s = .next s' ∧ (Sys2Proof.SMap.get [] (s'.die d).coreTlb m.core).head? = some e ∧
        ∀ k ∈ (s'.die d).misses, k ∈ x.misses ∧ ¬ (k.core = m.core ∧ e.covers (k.page * 65536) = true)) ∧
    (∀ n m cause ptrs t, walkCluster x = some n → x.misses.find? (fun m => x.clusterOf m.core = n) = some m →
      walk x (m.page * 65536) = (.error cause, ptrs) → clusterPulse s x n = true → m.who = [.composer] → s.team? d m.core = some t →
      ∃ s' u, exec .eTranslationWalk s = .next s' ∧ s'.team? d m.core = some u ∧
        u.comp.walkFail = t.comp.walkFail ++ [(m.page, cause)] ∧ m ∉ (s'.die d).misses) ∧
    (∀ v : Sys2Proof.Word64, let i := if v.getLsbD 0 then Sys2Proof.Instr.eTlbInvalidateAll v else .eTlbInvalidateRange v
      (∀ lo len, x.tlbBusy = none → tlbRange v.toNat = some (lo, len) →
        ∃ s', exec i s = .next s' ∧ (s'.die d).tlbBusy = some (lo, len) ∧
          (∀ q ∈ (s'.die d).coreTlb, ∀ e ∈ q.2, e.inRange lo len = false) ∧
          (∀ q ∈ (s'.die d).clusterTlb, ∀ e ∈ q.2, e.inRange lo len = false) ∧
          (∀ e ∈ (s'.die d).copyTlb, e.inRange lo len = false) ∧ (∀ e ∈ (s'.die d).collTlb, e.inRange lo len = false)) ∧
      (x.tlbBusy ≠ none ∨ tlbRange v.toNat = none → exec i s = .next (s.updDie d fun y => { y with tlbErr := true }))) ∧
    (∀ lo len, x.tlbBusy = some (lo, len) → exec .eTlbInvalidationComplete s = .next
      (if x.teams.any (fun e => accessPending e.2 lo len) || windowPending s d lo len || servingFor s d then s else s.updDie d fun y => { y with tlbBusy := none }))

/-- R23, R24: PEER_REQUEST and REVOCATION_COMPLETE. Rests on the model's own choices of logs 21, 38, 45. -/
def Obligations.PeerRequestsAnswered : Prop :=
  ∀ (s : Sys2Proof.Machine.State) (d : Nat) (r : Sys2Proof.PeerReq) (e : Export), s.cur = .service d → d < s.dies.length →
    r.expDie = d → Sys2Proof.SMap.find? (s.die d).exports r.exp = some e →
    let b := peerBytes r.op
    let inside : Prop := e.used = true ∧ e.gen = r.gen ∧ r.off + b ≤ e.len * 65536
    let refused (s1 : Sys2Proof.Machine.State) (k : Nat) : Prop := exec (.ePeerRequest r) s = .next (sendReply s1 r (.error k))
    let served (l : Loc) (ll : Nat) (x1 : Sys2Proof.Machine.Die) : Prop :=
      exporterLoc (s.die d) r.exp r.gen r.off b (peerUse r.op) r.rw = (x1, .ok (l, ll))
    ((e.used = false ∨ e.gen ≠ r.gen) → refused s Cause.REVOKED) ∧
    (e.used = true → e.gen = r.gen → e.len * 65536 < r.off + b → refused s Cause.PEERMISS) ∧
    (inside → ∀ k ps, walk (s.die d) (e.base + r.off) = (.error k, ps) →
      refused (s.updDie d fun y => y.putPtrs ps) Cause.PEERMISS) ∧
    (inside → ∀ lf ps, walk (s.die d) (e.base + r.off) = (.ok lf, ps) → lf.leaf.peer = false →
      (peerUse r.op ≠ .read → (r.rw = false ∨ lf.leaf.w = false) → refused (s.updDie d fun y => y.putPtrs ps) Cause.PEERMISS) ∧
      ((peerUse r.op = .read ∨ (r.rw = true ∧ lf.leaf.w = true)) → lf.leaf.cache = 3 → (peerUse r.op = .atomic ∨ (b ≠ 4 ∧ b ≠ 8)) →
        refused (s.updDie d fun y => y.putPtrs ps) Cause.PEERMISS) ∧
      (peerUse r.op = .atomic → regionOf (lf.leaf.frame * 65536) 1 = .host → refused (s.updDie d fun y => y.putPtrs ps) Cause.PEERMISS)) ∧
    (∀ l ll x1, served l ll x1 → peerUse r.op = .atomic → r.ra = false → refused (s.updDie d fun _ => x1) Cause.PEERMISS) ∧
    (∀ pa ll x1, served (.hbm pa) ll x1 → Undisturbed s d →
      (∀ n, r.op = .read n → ∃ s', MemKept s s' ∧
        exec (.ePeerRequest r) s = .next (sendReply s' r (.ok ((s.die d).hbm.read pa n)))) ∧
      (∀ bs, r.op = .write bs → ∃ s', HbmPut s s' d pa bs.length (Sys2Proof.Bits.ofBytes bs) ∧
        exec (.ePeerRequest r) s = .next (sendReply s' r (.ok 0))) ∧
      (∀ op fmt v w, r.op = .atomic op fmt v w → r.ra = true →
        let old := (s.die d).hbm.read pa (elemBytes fmt)
        ∃ s', HbmPut s s' d pa (elemBytes fmt) (rmw op.toNat fmt (elemBytes fmt) old v.toNat w.toNat) ∧
          exec (.ePeerRequest r) s = .next (sendReply s' r (.ok old)))) ∧
    (e.revoking = true →
      let s1 := s.updDie d fun y => { y with exports := Sys2Proof.SMap.insert y.exports r.exp { e with revoking := false } }
      exec (.eRevocationComplete r.exp) s = .next
        (if servingFor s d = true then s else if s.pkg.mailbox.revoking = some (d, r.exp) then respond s1 0 [] else s1))


namespace Sys2Proof.Machine

/-- The state in which a unit of an engine of the die has drawn its price from the die pool, for a launch of die `home` or for
none. -/
def poolPaid (s : State) (d home price unit : Nat) (key : Option LKey) : State :=
  let p := (s.die d).power
  let s1 := (noWait s d unit).updPower d fun _ =>
    { p with pool := p.pool - price, drawn := p.drawn + price, demand := p.demand + price, waited := p.waited.erase unit }
  match key with
  | some k => s1.updDie home fun x => x.updLaunch k fun l => { l with energy := l.energy + price }
  | none => s1

/-- The launch of die `home` that a unit of a die engine counts for has spent its quota. -/
def quotaSpent (s : State) (home : Nat) (key : Option LKey) : Bool :=
  match key.bind (s.die home).launch? with | some l => l.spent | none => false

end Sys2Proof.Machine

/-- R313, R323, R388: MATRIX_STEP and MATRIX_ACTION. Rests on the model's own choices of logs 24, 41. -/
def Obligations.MatrixEngineTurns : Prop :=
  ∀ (s : Sys2Proof.Machine.State) (d c : Nat) (t : Sys2Proof.Machine.Team) (a : MatAct) (more : List MatAct),
    s.cur = .service d → s.team? d c = some t → t.matq = a :: more → t.halted = false →
    pulsePasses s (s.die d) c = true →
    let s0 := coreCycle s d c
    let unit := engineUnitNo c 0
    let paid (p : Nat) := charge (noWait s0 d unit) d c .matrix p
    let waits (p : Nat) := if permitCovers s0 d c .matrix p then s0 else noteWait s0 d unit p
    let runs (z : Sys2Proof.Machine.State) (f : Sys2Proof.Machine.Team → Nat → Sys2Proof.Machine.Team) :=
      (z.updTeam d c fun u => f u (z.die d).errNo).updDie d fun x => { x with errNo := x.errNo + 1 }
    let step := (s.die d).priceOf (stepEntry (xops a.i).fmt)
    let act := (s.die d).priceOf 15
    (isChain a.i = true →
      ((stepFilled t a = false ∨ t.lockWaits (.matrix a.no) = true) → exec (.eMatrixStep c) s = .next s) ∧
      (stepFilled t a = true → t.lockWaits (.matrix a.no) = false → mayStart s0 d c .matrix step = false →
        exec (.eMatrixStep c) s = .next (waits step)) ∧
      (stepFilled t a = true → t.lockWaits (.matrix a.no) = false → mayStart s0 d c .matrix step = true →
        (stepUe t a = false → exec (.eMatrixStep c) s = .next (runs (paid step) fun u => runStep u a)) ∧
        (stepUe t a = true → exec (.eMatrixStep c) s = .next (runs (reportUe (paid step) d) fun u => runStep u a) ∧
          ∀ no, (runStep t a no).acc = t.acc ∧
          ∀ n, a.owner = .batch n → n < t.batches.length → (t.batches.getD n {}).err = none →
            ((runStep t a no).batches.getD n {}).err = some Cause.UE ∧ ((runStep t a no).batches.getD n {}).errNo = no))) ∧
    (isChain a.i = false →
      (t.lockWaits (.matrix a.no) = true → exec (.eMatrixAction c) s = .next s) ∧
      (t.lockWaits (.matrix a.no) = false → mayStart s0 d c .matrix act = false →
        exec (.eMatrixAction c) s = .next (waits act)) ∧
      (t.lockWaits (.matrix a.no) = false → mayStart s0 d c .matrix act = true →
        (∀ o, a.i = .lAclr o → exec (.eMatrixAction c) s = .next (runs (paid act) fun u _ =>
          (({ u with acc := runAclr u a } : Sys2Proof.Machine.Team).heal fun r => r.inTile o.tr.toNat o.tc.toNat).actDone a)) ∧
        (∀ o, a.i = .lAld o → t.badSp a.ofs (128 * Sys2Proof.Fmt.elemBits o.fmt) = false →
          exec (.eMatrixAction c) s = .next (runs (paid act) fun u _ =>
            (({ u with acc := runAld u a } : Sys2Proof.Machine.Team).heal fun r => r.inTile o.tr.toNat o.tc.toNat).actDone a)) ∧
        (∀ o, a.i = .lAst o → t.badTile o.tr.toNat o.tc.toNat = false → (Sys2Proof.Checks.astEf o && t.badResidues a.g) = false →
          exec (.eMatrixAction c) s = .next (runs (paid act) fun u _ => (runAst u a).actDone a)) ∧
        (actionUe t a = true →
          exec (.eMatrixAction c) s = .next (runs (reportUe (paid act) d) fun u no => (runAction u a no).actDone a) ∧
          ∀ no, (runAction t a no).acc = t.acc ∧ (runAction t a no).sp = t.sp ∧
          ∀ n, a.owner = .batch n → n < t.batches.length → (t.batches.getD n {}).err = none →
            ((runAction t a no).batches.getD n {}).err = some Cause.UE ∧ ((runAction t a no).batches.getD n {}).errNo = no)))

/-- R310, R314, R323: what matrix actions leave in the accumulator store, the scratchpad and the scale FIFO. Rests on the model's own choices of logs 11, 34, 41. -/
def Obligations.MatrixTileResults : Prop :=
  (∀ (t : Sys2Proof.Machine.Team) (a : MatAct) (j : Nat), (xops a.i).tc.toNat ≤ 7 →
      let o := xops a.i
      let at_ (m : Sys2Proof.SMap Sys2Proof.Word32) (row col : Nat) := Sys2Proof.SMap.get 0 m (256 * row + col)
      let tile (row col r0 c0 : Nat) : Prop := r0 ≤ row ∧ row < r0 + 32 ∧ c0 ≤ col ∧ col < c0 + 32
      let row0 := 32 * o.tr.toNat
      let col0 := 32 * o.tc.toNat
      let lim (v : Nat) := if v = 0 then 32 else v
      let rlim := Sys2Proof.Bits.field a.edge 8 6
      let clim := Sys2Proof.Bits.field a.edge 14 6
      let colj := 32 * (o.tc.toNat + Sys2Proof.Checks.cadv o * j)
      (rlim ≤ 32 → clim ≤ 32 → o.tc.toNat + Sys2Proof.Checks.cadv o * j ≤ 7 → ∀ row col, col < 256 →
        at_ (stepTile t a j) row col =
          if tile row col row0 colj ∧ row - row0 < lim rlim ∧ col - colj < lim clim ∧ a.active.getLsbD (row - row0) = true then
            BitVec.ofNat 32 (stepCell t a j (row - row0) (col - colj) (at_ t.acc row col).toNat)
          else at_ t.acc row col) ∧
      (∀ row col, col < 256 → (tile row col row0 col0 → at_ (runAclr t a) row col = 0) ∧
        (¬ tile row col row0 col0 → at_ (runAclr t a) row col = at_ t.acc row col ∧ at_ (runAld t a) row col = at_ t.acc row col) ∧
        (tile row col row0 col0 →
          let n := Sys2Proof.Fmt.elemBits o.fmt / 8
          at_ (runAld t a) row col = BitVec.ofNat 32 (Sys2Proof.Fl.pack Sys2Proof.Fl.f32 .rn false false
            (Sys2Proof.Fl.decode (Sys2Proof.Fl.ffOf o.fmt) (t.sp.read (a.ofs + n * (32 * (row - row0) + (col - col0))) n))).w)) ∧
      (o.fmt = Sys2Proof.Fmt.F32 → Sys2Proof.Checks.astEf o = false →
        (runAst t a).acc = t.acc ∧
        (∀ r c, r < 32 → c < 32 → (runAst t a).sp.read (a.ofs + 4 * (32 * r + c)) 4 = (at_ t.acc (row0 + r) (col0 + c)).toNat) ∧
        ∀ b, b < a.ofs ∨ a.ofs + 4096 ≤ b → (runAst t a).sp.byte b = t.sp.byte b)) ∧
  (∀ (t : Sys2Proof.Machine.Team) (a : MatAct) (more : List MatAct) (no : Nat), t.matq = a :: more → isChain a.i = true → stepUe t a = false →
      let o := xops a.i
      let asym := Sys2Proof.Fmt.isAsym o.fmt
      let win := a.win + Sys2Proof.Checks.badv o * a.j
      let fits := Sys2Proof.SMap.get 0x3F t.tags win = (if asym then o.fmt else 0x3F)
      let u := runStep t a no
      let last := chainLen a.i ≤ a.j + 1
      (a.failed = true ∨ ¬ fits → u.acc = t.acc) ∧
      (a.failed = false → fits → u.acc = stepTile t a a.j) ∧
      (asym = true → u.scFree = a.scNo + stepFrees a.i a.j ∧ ∀ k, k < u.scFree → ∀ e ∈ u.scFill, e.1 ≠ k) ∧
      (asym = false → u.scFree = t.scFree ∧ u.scFill = t.scFill) ∧
      (¬ last → ∃ b, u.matq = b :: more ∧ b.j = a.j + 1 ∧ (b.failed = true ↔ a.failed = true ∨ ¬ fits)) ∧
      (last → u.matq = more) ∧
      (a.failed = false → ¬ fits → ∀ n, a.owner = .batch n → n < t.batches.length →
        (u.batches.getD n {}).err = if (t.batches.getD n {}).err = none then some Cause.TAGMISMATCH else (t.batches.getD n {}).err))

/-- R330, R331: COPY_CHUNK and COPY_COMPLETION. Rests on the model's own choices of logs 25, 27, 45. -/
def Obligations.CopyEngineTurns : Prop :=
  ∀ (s : Sys2Proof.Machine.State) (d c k : Nat) (op : CopyOp), s.cur = .service d →
    (∀ t, s.team? d c = some t → t.copies[k]? = some op →
      let price := (s.die d).priceOf 17 * ((chunkEnd op - op.done + 127) / 128)
      let blocked := t.lockWaits (.copy op.no) = true ∨ chunkBehind s d c op op.done (chunkEnd op) = true
      let s0 := coreCycle s d c
      (copyOver op = false → op.upTo ≤ op.done → blocked → exec (.eCopyChunk (.core c) k) s = .next s) ∧
      (pulsePasses s (s.die d) c = false → op.err = none → op.done < op.total → op.done < op.upTo →
        exec (.eCopyChunk (.core c) k) s = .next s) ∧
      (copyOver op = false → op.upTo ≤ op.done → ¬ blocked → t.halted = false → pulsePasses s (s.die d) c = true →
        mayStart s0 d c .memory price = true →
        exec (.eCopyChunk (.core c) k) s = .next
          ((charge (noWait s0 d (copyUnit c op.no)) d c .memory price).updTeam d c fun u =>
            { u with copies := u.copies.map fun q => if q.no = op.no then { q with upTo := chunkEnd q, energy := q.energy + 0 } else q })) ∧
      (copyOver op = false → op.done < op.upTo → pulsePasses s (s.die d) c = true →
        let v := copyEnv d (.core c)
        let r := op.runOf op.done
        let put (s1 : Sys2Proof.Machine.State) (f : CopyOp → CopyOp) := s1.updTeam d c fun u =>
          { u with copies := u.copies.map fun q => if q.no = op.no then f q else q }
        (op.todo = [] → op.done ≠ r * op.rowBytes → exec (.eCopyChunk (.core c) k) s = .next
          (put s fun q => { q with todo := piecesOf q q.done (min q.upTo ((r + 1) * q.rowBytes)) })) ∧
        (op.todo = [] → op.done = r * op.rowBytes →
          (∀ s1, beginRow v (.core c) op r s = (s1, .ok ()) → exec (.eCopyChunk (.core c) k) s = .next
            (put s1 fun q => { q with todo := piecesOf q q.done (min q.upTo ((r + 1) * q.rowBytes)) })) ∧
          (∀ s1 cause va, beginRow v (.core c) op r s = (s1, .error (cause, va)) → exec (.eCopyChunk (.core c) k) s =
            .next (endCopy s1 d (.core c) op.no cause (op.rowVa r)))) ∧
        (∀ p, op.todo[s.pick % op.todo.length]? = some p →
          (∀ s1, movePiece v (.core c) op p.1 p.2 s = (s1, .ok ()) → exec (.eCopyChunk (.core c) k) s = .next (put
            (if (op.todo.erase p).isEmpty then endPart v op s1 else s1) fun q =>
            { q with todo := q.todo.erase p
                     done := if (q.todo.erase p).isEmpty then min q.upTo ((q.runOf q.done + 1) * q.rowBytes) else q.done })) ∧
          (∀ s1 cause va, movePiece v (.core c) op p.1 p.2 s = (s1, .error (cause, va)) →
            exec (.eCopyChunk (.core c) k) s = .next (endCopy s1 d (.core c) op.no cause (op.rowVa r)))) ∧
        (op.dsp = true → ∀ s1 lo n x, putDst v op lo n x s1 =
          (s1.updTeam d c fun u => u.spWrite (op.dst + lo) n x, .ok ()))) ∧
      (copyOver op = true → exec (.eCopyCompletion (.core c) k) s =
        .next (releaseCwaits (s.updTeam d c fun u => completeCoreCopy u op) d c)) ∧
      (let u := completeCoreCopy t op
       u.copies = t.copies.filter (fun q => q.no ≠ op.no) ∧ u.locks = t.locks.filter (fun l => l.owner ≠ .copy op.no) ∧
       u.copyErrs = t.copyErrs ++ (match op.err with
         | some (cause, va) => [{ cgrp := op.cgrp, no := op.no, cause, va, errNo := op.errNo }] | none => []) ∧
       u.fe = (if op.err = none ∧ op.feset = true then t.setGranules op.dst op.total true else t).fe ∧
       ∀ w, u.tagOf w = if op.dsp = true ∧ op.dec = false ∧ op.fmtWin ≠ [] ∧ op.dst ≤ 2048 * w ∧
         2048 * (w + 1) ≤ op.dst + op.total ∧ w ∉ op.rawWin ∧
         (2048 * (w + 1) ≤ op.dst + op.done ∨ (op.todo ≠ [] ∧ 2048 * (w + 1) ≤ op.dst + op.partEnd ∧
           ∀ p ∈ op.todo, 2048 * (w + 1) ≤ op.dst + p.1 ∨ op.dst + p.2 ≤ 2048 * w)) then op.shape.fmt else t.tagOf w)) ∧
    ((s.die d).dieCopies[k]? = some op →
      let price := (s.die d).priceOf 18 * ((chunkEnd op - op.done + 127) / 128)
      (copyOver op = false → op.upTo ≤ op.done → (launchEnding (s.die d) op.launch = true ∨ quotaSpent s d op.launch = true) →
        exec (.eCopyChunk .die k) s = .next s) ∧
      (copyOver op = false → op.upTo ≤ op.done → launchEnding (s.die d) op.launch = false → quotaSpent s d op.launch = false →
        price ≤ (s.die d).power.pool →
        exec (.eCopyChunk .die k) s = .next ((poolPaid s d d price (dieCopyUnit op.no) op.launch).updDie d fun x =>
          { x with dieCopies := x.dieCopies.map fun q =>
              if q.no = op.no then { q with upTo := chunkEnd q, energy := q.energy + price } else q })) ∧
      (copyOver op = false → op.done < op.upTo → exec (.eCopyChunk .die k) s = .next (moveChunk s d .die op s.pick)) ∧
      (copyOver op = true →
        let s1 := s.updDie d fun x => { x with dieCopies := x.dieCopies.filter fun q => q.no ≠ op.no }
        (op.launch = none → exec (.eCopyCompletion .die k) s = .next (completeSlot s1 d op.q op.slot op.cmpl
          { status := match op.err with | none => 0 | some e => causeStatus e.1
            xcause := match op.err with | none => 0 | some e => e.1
            energy := op.energy })) ∧
        (∀ key, op.launch = some key → exec (.eCopyCompletion .die k) s = .next
          (match op.err with
            | some e => s1.updDie d fun x => x.updLaunch key fun l => l.keepErr op.errNo op.core e.1
            | none => s1))))

/-- R338 to R343: COLLECTIVE_CHUNK_SELECT, the HOP events, COLLECTIVE_COMPLETION. Rests on the model's own choices of logs 1, 26, 43 (a die that an MCAST passes over) and 46 (rounds and readiness). -/
def Obligations.CollectiveTurns : Prop :=
  ∀ (s : Sys2Proof.Machine.State) (d : Nat), s.cur = .service d →
    let e := (s.die d).coll
    let heads := (commHeads e.queue).filter (collReady s d)
    let fresh := heads.filter fun p => !e.served.contains (collComm p.pkt)
    (∀ p, e.cur = none → bestColl (if fresh.isEmpty then heads else fresh) = some p →
      exec .eCollectiveChunkSelect s = .next (startChunk (updColl s d fun q =>
        { q with queue := q.queue.erase p, served := (if fresh.isEmpty then [] else q.served) ++ [collComm p.pkt] }) d p)) ∧
    (∀ p, e.cur = some p → p.read = true ∨ payloadReady s d p = false → exec .eCollectiveChunkSelect s = .next s) ∧
    (∀ p g, e.cur = some p → p.read = false → payloadReady s d p = true → p.todo[s.pick % p.todo.length]? = some g →
      (∀ s1 v, rangeRead translateColl d g.2.1 g.2.2 s = (s1, .ok v) →
        let left := p.todo.erase g
        let q := { p with payload := putBytes p.payload (g.2.1 - collSrcv p.pkt) (Sys2Proof.Bits.toBytes g.2.2 v)
                          todo := left, read := left.isEmpty }
        let s2 := updColl s1 d fun y => { y with cur := some q }
        exec .eCollectiveChunkSelect s = .next (if left.isEmpty then proceed s2 d q else s2)) ∧
      (∀ s1 cause va, rangeRead translateColl d g.2.1 g.2.2 s = (s1, .error (cause, va)) →
        exec .eCollectiveChunkSelect s = .next (endColl s1 d p cause 0xFF))) ∧
    (∀ p h more, e.cur = some p → hopsHere s d p = h :: more →
      let acts (op : Nat) (i : Sys2Proof.Instr) : Prop :=
        (h.op ≠ op ∨ p.read = false → exec i s = .next s) ∧
        (h.op = op → p.read = true → p.begun = false → quotaSpent s p.org p.key = false →
          hopPrice (s.die d) p ≤ (s.die d).power.pool →
          let s0 := poolPaid s d p.org (hopPrice (s.die d) p) collUnit p.key
          (∀ s1, planAll d p h s0 = (s1, .ok []) → exec i s = .next (hopDone s1 d p)) ∧
          (∀ s1 q l, planAll d p h s0 = (s1, .ok (q :: l)) →
            exec i s = .next (updColl s1 d fun y => { y with cur := some (p.begin (hopDies s0 d h) (q :: l)) })) ∧
          (∀ s1 cause va, planAll d p h s0 = (s1, .error (cause, va)) → exec i s = .next (endColl s1 d p cause p.done))) ∧
        (h.op = op → p.read = true → p.begun = true → ∀ q, p.todo[s.pick % p.todo.length]? = some q →
          (∀ s1, actPiece p h (p.spanAt q.1) q s = (s1, .ok ()) → exec i s = .next
            (if p.todo.erase q = [] then hopDone (healHop s1 d p h) d p
             else updColl s1 d fun y => { y with cur := some { p with todo := p.todo.erase q } })) ∧
          (∀ s1 cause va, actPiece p h (p.spanAt q.1) q s = (s1, .error (cause, va)) →
            exec i s = .next (endColl s1 d p cause p.done)))
      acts 0 .eHopFwd ∧ acts 1 .eHopRedaddF32 ∧ acts 2 .eHopRedaddBf16 ∧ acts 3 .eHopMin ∧ acts 4 .eHopMax ∧
      acts 5 .eHopDeposit ∧ acts 6 .eHopMcast ∧ acts 7 .eHopSignal ∧
      ((hopDies s d h).any (fun e => !dieReached s d e) = true → planAll d p h s = (s, .error (Cause.LINKDOWN, 0))) ∧
      (h.op = 0 → dieReached s d d = true → bindFails (s.die d) p.pkt h = none → planAll d p h s = (s, .ok [])) ∧
      (∀ va n first l a, h.op = 5 → d < s.dies.length → (translateColl (s.die d) va).2 = .ok l →
        denied (translateColl (s.die d) va).1 .engineWrite n va l = none → l.loc va = .hbm a → Undisturbed s d →
        ∃ s2, actPiece p h first (d, va, n) s = (s2, .ok ()) ∧
          HbmPut s s2 d a n (Sys2Proof.Bits.field (Sys2Proof.Bits.ofBytes p.payload) (8 * (va - first)) (8 * n)))) ∧
    (∀ f more, e.finished = f :: more → exec .eCollectiveCompletion s =
      .next (finishColl (updColl s d fun q => { q with finished := more }) d f)) ∧
    (∀ f s1, rangeWrite translateColl d (collCmpv f.p.pkt) 8
        (f.cause % 256 + f.hop % 256 * 2 ^ 8 + collSeq f.p.pkt * 2 ^ 32) s = (s1, .ok ()) →
      (∀ c g no key t, f.p.src = .coll c g no key → s1.team? d c = some t → t.key = key →
        finishColl s d f = s1.updTeam d c fun u => u.unlock (.coll no)) ∧
      (∀ key, f.p.src = .watch key → finishColl s d f = s1) ∧
      (∀ q slot, f.p.src = .queue q slot → finishColl s d f =
        s1.setQueue d q { (s1.queue d q) with started := (s1.queue d q).started.filter fun x => x.slot ≠ slot }))

/-- R348. -/
def Obligations.QueueClaimRule : Prop :=
  ∀ (s : Sys2Proof.Machine.State) (d q : Nat), s.cur = .service d → d < s.dies.length →
    let x := s.queue d q
    let full := x.en = false ∨ x.size ≤ (x.tail - x.head).toNat
    (full → x.pageRead 0 8 = (x, 0x8000_0000_0000_0000 + x.tail.zeroExtend 64)) ∧
    (¬ full → x.pageRead 0 8 = ({ x with tail := x.tail + 1 }, x.tail.zeroExtend 64) ∧
      (x.pageRead 0 8).2.getLsbD 63 = false ∧
      (x.en = true → (x.tail + 1 - x.head).toNat < x.size →
        ((x.pageRead 0 8).1.pageRead 0 8).2 = (x.tail + 1).zeroExtend 64)) ∧
    (∀ ofs n, ofs < 8 → ¬ (ofs = 0 ∧ n = 8) → x.pageRead ofs n = ({ x with err := true }, 0)) ∧
    (∀ ofs n v, ofs < 8 → x.pageWrite ofs n v = ({ x with err := true }, false)) ∧
    (∀ ofs n, 8 ≤ ofs → ofs < 16 → x.pageRead ofs n = (x, 0)) ∧
    ((q < 1024 → (s.die d).queuesOpen = true) → ∃ s', exec (.eClaim q) s = .next s' ∧ s'.busReply = (x.pageRead 0 8).2 ∧ s'.queue d q = (x.pageRead 0 8).1 ∧
      s'.pkg.events = s.pkg.events ∧ ∀ r, r ≠ q → s'.queue d r = s.queue d r)

/-- R254 to R259, R55 to R58. That FEXP2, FLOG2, FSIN, FCOS, FTANH and FSIGM round correctly on their other inputs is the reading of log 32 and not stated here. -/
def Obligations.SpecialAndConversionRules : Prop :=
  (∀ (f : Sys2Proof.Fl.FF) (m : Sys2Proof.Fl.RMode) (fz : Bool) (a0 : Nat),
    (f = Sys2Proof.Fl.f32 ∨ f = Sys2Proof.Fl.f16 ∨ f = Sys2Proof.Fl.bf16) → a0 < 2 ^ (1 + f.eb + f.mb) →
    let a := readFz f fz a0
    let x := num f a
    let s := signOf f a
    let at_ (op : Sys2Proof.Fl.Special.Op) := Sys2Proof.Fl.Special.result op f m fz a0
    let gives (op : Sys2Proof.Fl.Special.Op) (w : Nat) (fl : Sys2Proof.Fl.Flags) : Prop := at_ op = { w, fl }
    let nan := canonical f
    let inf := signed0 f s (infinity f)
    let flat := signed0 f s 0
    let one (neg : Bool) := signed0 f neg (f.bias * 2 ^ f.mb)
    let half := (f.bias - 1) * 2 ^ f.mb
    let below : Prop := (IsFin f a ∧ x < 0) ∨ (IsInf f a ∧ s = true)
    (IsNan f a → ∀ op, gives op nan 0) ∧
    (IsInf f a → gives .rcp flat 0 ∧ gives .sin nan Sys2Proof.Fl.NV ∧ gives .cos nan Sys2Proof.Fl.NV ∧ gives .tanh (one s) 0 ∧
      gives .exp2 (if s then 0 else inf) 0 ∧ gives .sigm (if s then 0 else one false) 0 ∧
      (s = false → gives .rsq 0 0 ∧ gives .sqrt inf 0 ∧ gives .log2 inf 0)) ∧
    (below → gives .rsq nan Sys2Proof.Fl.NV ∧ gives .sqrt nan Sys2Proof.Fl.NV ∧ gives .log2 nan Sys2Proof.Fl.NV) ∧
    (IsFin f a → x = 0 → gives .rcp inf Sys2Proof.Fl.DZ ∧ gives .rsq inf Sys2Proof.Fl.DZ ∧ gives .sqrt flat 0 ∧
      gives .exp2 (one false) 0 ∧ gives .log2 (signed0 f true (infinity f)) Sys2Proof.Fl.DZ ∧ gives .sin flat 0 ∧
      gives .cos (one false) 0 ∧ gives .tanh flat 0 ∧ gives .sigm half 0) ∧
    (f = Sys2Proof.Fl.f32 → IsFin f a → x ≠ 0 →
      (m = .rn → ∃ r, Delivers f .rn false fz (1 / x) r ∧ gives .rcp r.w (r.fl &&& Sys2Proof.Fl.OF)) ∧
      (m = .rn → 0 < x → RootIs .rn (1 / x) (at_ .rsq).w ∧ (at_ .rsq).fl = 0) ∧
      (0 < x → RootIs m x (at_ .sqrt).w ∧
        (at_ .sqrt).fl = if num f (at_ .sqrt).w ^ 2 = x then 0 else Sys2Proof.Fl.NX) ∧
      (m = .rn → ∀ n : Int, x = n → (if fz then -126 else -149) ≤ n → n ≤ 127 →
        (at_ .exp2).fl = 0 ∧ (at_ .exp2).w < 2 ^ 31 ∧ IsFin f (at_ .exp2).w ∧ num f (at_ .exp2).w = 2 ^ n) ∧
      (m = .rn → 128 ≤ x → gives .exp2 (infinity f) Sys2Proof.Fl.OF) ∧
      (m = .rn → ∀ n : Int, x = 2 ^ n → (at_ .log2).fl = 0 ∧ IsFin f (at_ .log2).w ∧ num f (at_ .log2).w = n)) ∧
    (f ≠ Sys2Proof.Fl.f32 → IsFin f a → ∀ w op, w < 2 ^ 32 → IsFin Sys2Proof.Fl.f32 w → num Sys2Proof.Fl.f32 w = x →
      signOf Sys2Proof.Fl.f32 w = s → (m = .rn ∨ op = .sqrt) →
      let r1 := Sys2Proof.Fl.Special.result op Sys2Proof.Fl.f32 m fz w
      ∃ r, Narrowed f fz { w := r1.w } r ∧
        gives op r.w (r1.fl ||| if op = .sqrt then r.fl else r.fl &&& Sys2Proof.Fl.OF))) ∧
  (∀ (o : Sys2Proof.VOps) (a0 : Nat), a0 < 2 ^ 64 →
    let sf := Sys2Proof.Checks.srcFmt o
    let f := Sys2Proof.Fl.ffOf sf
    let d := Sys2Proof.Fl.ffOf o.fmt
    let m := modeOf o
    let sat := Sys2Proof.Checks.sat o
    let fz := Sys2Proof.Checks.fz o
    let w := Sys2Proof.Fmt.elemBits o.fmt
    let sg := Sys2Proof.Fmt.isSigned o.fmt
    let val (g : Bool) (n v : Nat) : Int := if g = true ∧ 2 ^ (n - 1) ≤ v then (v : Int) - 2 ^ n else v
    let lo : Int := if sg then -2 ^ (w - 1) else 0
    let hi : Int := if sg then 2 ^ (w - 1) - 1 else 2 ^ w - 1
    let out (z : Int) : Sys2Proof.Fl.FRes := { w := ((if sat then max lo (min hi z) else z) % 2 ^ w).toNat }
    let fromInt (z : Int) (r : Sys2Proof.Fl.FRes) : Prop :=
      (z = 0 → r = { w := 0 }) ∧ (z ≠ 0 → Delivers Sys2Proof.Fl.f32 m false false z r)
    let sw := Sys2Proof.Fmt.elemBits sf
    let a := readFz f fz a0
    let b := readFz Sys2Proof.Fl.f32 fz a0
    (Sys2Proof.Fmt.isInt sf = true → a0 < 2 ^ sw →
      (o.fmt = Sys2Proof.Fmt.F32 → fromInt (val (Sys2Proof.Fmt.isSigned sf) sw a0) (cvtElem o a0) ∧
        fromInt (val (Sys2Proof.Fmt.isSigned sf) sw a0) (cvtwValue o a0)) ∧
      ((o.fmt = Sys2Proof.Fmt.I32 ∨ o.fmt = Sys2Proof.Fmt.N32) → cvtElem o a0 = out (val (Sys2Proof.Fmt.isSigned sf) sw a0)) ∧
      (Sys2Proof.Fmt.isInt o.fmt = true → cvtwValue o a0 = out (val (Sys2Proof.Fmt.isSigned sf) sw a0))) ∧
    (Sys2Proof.Fmt.isFloat sf = true → a0 < 2 ^ sw →
      (o.fmt = Sys2Proof.Fmt.F32 → let r := cvtElem o a0
        r.fl = 0 ∧ (IsNan f a → r.w = canonical d) ∧ (IsInf f a → r.w = signed0 d (signOf f a) (infinity d)) ∧
        (IsFin f a → IsFin d r.w ∧ num d r.w = num f a ∧ signOf d r.w = signOf f a)) ∧
      ((o.fmt = Sys2Proof.Fmt.I32 ∨ o.fmt = Sys2Proof.Fmt.N32) → ToInteger f m sg 32 a (cvtElem o a0)) ∧
      (sf = Sys2Proof.Fmt.F32 → Sys2Proof.Fmt.is64 o.fmt = true → ToInteger f m sg 64 a0 (cvtwValue o a0))) ∧
    (Sys2Proof.Fmt.isFloat o.fmt = true → a0 < 2 ^ 32 → let r := cvtnElem o a0
      (IsNan Sys2Proof.Fl.f32 b → r = { w := canonical d }) ∧
      (IsInf Sys2Proof.Fl.f32 b → r.fl = 0 ∧
        (sat = true → r.w = signed0 d (signOf Sys2Proof.Fl.f32 b) (largest d)) ∧
        (sat = false → r.w = if d = Sys2Proof.Fl.e4m3 then canonical d else signed0 d (signOf Sys2Proof.Fl.f32 b) (infinity d))) ∧
      (IsFin Sys2Proof.Fl.f32 b → num Sys2Proof.Fl.f32 b = 0 → r = { w := signed0 d (signOf Sys2Proof.Fl.f32 b) 0 }) ∧
      (IsFin Sys2Proof.Fl.f32 b → num Sys2Proof.Fl.f32 b ≠ 0 → Delivers d m sat fz (num Sys2Proof.Fl.f32 b) r)) ∧
    (Sys2Proof.Fmt.isInt o.fmt = true → a0 < 2 ^ 32 → cvtnElem o a0 = out (val sg 32 a0))) ∧
  (∀ (dst fmt : BitVec 6) (q e : Nat), q < 2 ^ Sys2Proof.Fmt.elemBits fmt → e < 2 ^ 32 →
    (dst = Sys2Proof.Fmt.F32 ∨ dst = Sys2Proof.Fmt.F16x2 ∨ dst = Sys2Proof.Fmt.BF16x2) →
    let t := Sys2Proof.Fl.ffOf dst
    let r := decodeCode dst fmt q e
    let h := Sys2Proof.Fl.f16
    let z : Nat := e / 2 ^ 16 % 256
    let scale : Nat := e % 2 ^ 16
    let v : Rat := ((q : Rat) - (z : Rat)) * num h scale
    let bad : Prop := 2 ^ 24 ≤ e ∨ (Sys2Proof.Fmt.isA4 fmt = true ∧ 15 < z) ∨ IsNan h scale
    (Sys2Proof.Fmt.isAsym fmt = true →
      (bad ∨ (IsInf h scale ∧ q = z) → r = canonical t) ∧
      (¬ bad → IsInf h scale → q ≠ z → r = signed0 t (signOf h scale ^^ decide (q < z)) (infinity t)) ∧
      (¬ bad → IsFin h scale → (v = 0 → r = 0) ∧ (v ≠ 0 → ∃ y, Delivers t .rn false false v y ∧ r = y.w))) ∧
    (Sys2Proof.Fmt.isMx fmt = true →
      let g := mxFF fmt
      let p : Nat := e % 256
      let u : Rat := num g q * 2 ^ ((p : Int) - 127)
      (e % 256 = 255 ∨ IsNan g q → r = canonical t) ∧
      (e % 256 ≠ 255 → IsInf g q → r = signed0 t (signOf g q) (infinity t)) ∧
      (e % 256 ≠ 255 → IsFin g q →
        (u = 0 → r = signed0 t (signOf g q) 0) ∧ (u ≠ 0 → ∃ y, Delivers t .rn false false u y ∧ r = y.w)))) ∧
  ∀ (a4 : Bool) (m : Sys2Proof.Fl.RMode) (e x : Nat), e < 2 ^ 32 → x < 2 ^ 32 →
    let h := Sys2Proof.Fl.f16
    let g := Sys2Proof.Fl.f32
    let z := e / 2 ^ 16 % 256
    let scale := e % 2 ^ 16
    let top : Int := if a4 then 15 else 255
    let bad : Prop := ¬ IsFin h scale ∨ num h scale = 0 ∨ 2 ^ 24 ≤ e ∨ (a4 = true ∧ 15 < z)
    let r := quantCode a4 m e x
    (bad → r = { w := if a4 then z % 16 else z, fl := Sys2Proof.Fl.NV }) ∧
    (¬ bad → IsNan g x → r = { w := z, fl := Sys2Proof.Fl.NV }) ∧
    (¬ bad → IsInf g x → r = { w := if signOf g x = signOf h scale then top.toNat else 0, fl := Sys2Proof.Fl.NX }) ∧
    (¬ bad → IsFin g x → ∃ t : Int, RoundsTo m 0 (num g x / num h scale) t ∧
      let q := max 0 (min top (t + z))
      r = { w := q.toNat, fl := if (t : Rat) ≠ num g x / num h scale ∨ q ≠ t + z then Sys2Proof.Fl.NX else 0 })

/-- R349, R350, R356, R358, R405: COMMIT, LAUNCH and DISPATCH_DRAW. Rests on the model's own choices of logs 17, 36, 37. -/
def Obligations.LotteryDraw : Prop :=
  (∀ (seed : Sys2Proof.Word32) (l : List Entrant),
    let top := l.foldl (fun m e => max m e.prio) 0
    let f := l.filter fun e => e.prio = top
    let total := (f.map (·.wt)).sum
    let advanced := if seed.getLsbD 0 then (seed >>> 1) ^^^ 0x8020_0003 else seed >>> 1
    (∀ e, l.find? (fun e => e.losses = 64) = some e → drawWinner seed l = (some e, seed)) ∧
    ((∀ e ∈ l, e.losses ≠ 64) → (drawWinner seed l).2 = advanced ∧
      (total = 0 → (drawWinner seed l).1 = f.head?) ∧
      (0 < total → ∃ a e b, f = a ++ e :: b ∧ (drawWinner seed l).1 = some e ∧
        (a.map (·.wt)).sum ≤ advanced.toNat % total ∧ advanced.toNat % total < (a.map (·.wt)).sum + e.wt))) ∧
  (∀ (s : Sys2Proof.Machine.State) (d : Nat), s.cur = .service d →
    let s1 := (dieQueues s d).foldl (fun s q => readHead s d q) s
    let r := dropLosses s1 d
    (r.2 = [] → exec .eDispatchDraw s = .next r.1) ∧
    (∀ e seed, drawWinner (r.1.die d).seed r.2 = (some e, seed) →
      exec .eDispatchDraw s = .next
        (dropLosses (startWinner (countLosses (r.1.updDie d fun x => { x with seed := seed }) d r.2 e.q) d e) d).1) ∧
    (∀ q, q < 1024 → exec (.eLaunch q) s = .next (readHead s d q)) ∧
    (∀ q, q < 1024 → (s.die d).queuesOpen = false → readHead s d q = s ∧ s.queueLive d q = false ∧
      (d < s.dies.length → ∃ s', exec (.eClaim q) s = .next s' ∧ s'.queue d q = s.queue d q ∧
        s'.busReply = 0x8000_0000_0000_0000 + (s.queue d q).tail.zeroExtend 64)) ∧
    (∀ q p, 1024 ≤ q → (s.queue d q).en = true → (s.queue d q).admitted = some p → unblocked (s.queue d q) = true → pktType p = 1 →
      Pkt.launchOk p = true → (s.queue d q).resolved = none →
      (∀ e, mostFree s p (candidates s p) = some e →
        exec (.eLaunch q) s = .next (s.setQueue d q { (s.queue d q) with resolved := some e })) ∧
      (candidates s p = [] → exec (.eLaunch q) s =
        .next (endPacket (startHead s d q p) d q (s.queue d q).head.toNat p 0x80 0)))) ∧
  ∀ (s : Sys2Proof.Machine.State) (d q : Nat) (data : Sys2Proof.Word64), s.cur = .service d → d < s.dies.length →
    let x := s.queue d q
    let n : Sys2Proof.Word32 := data.truncate 32
    let good := (n - x.head).toNat < (x.tail - x.head).toNat ∧ Sys2Proof.SMap.find? x.committed n.toNat = none
    ∃ s', exec (.eCommit q data) s = .next s' ∧ (∀ r, r ≠ q → s'.queue d r = s.queue d r) ∧
      (good → s'.queue d q = { x with committed := Sys2Proof.SMap.insert x.committed n.toNat true } ∧
        FwEvent.commit d q ∈ s'.pkg.events ++ s'.pkg.held) ∧
      (¬ good → s'.queue d q = { x with err := true } ∧ s'.pkg.events = s.pkg.events)

/-- R351 to R353: the packets of a die queue. Rests on the model's own choices of logs 27, 28. -/
def Obligations.StartedPacketsServed : Prop :=
  ∀ (s : Sys2Proof.Machine.State) (d q : Nat) (e : Started), s.cur = .service d → q < 1024 →
    let started (type : Nat) : Prop := (s.queue d q).started.find? (fun e => pktType e.pkt = type && !e.acted) = some e
    let marked (s1 : Sys2Proof.Machine.State) := s1.setQueue d q { (s1.queue d q) with
      started := (s1.queue d q).started.map fun x => if x.slot = e.slot then { x with acted := true } else x }
    (started 2 →
      (∀ s1, acceptDieCopy s d e.pkt 256 q e.slot none = (s1, none) → exec (.eCopy q) s = .next (marked s1)) ∧
      (∀ s1 k, acceptDieCopy s d e.pkt 256 q e.slot none = (s1, some k) → exec (.eCopy q) s =
        .next (completeSlot s1 d q e.slot (pktWord e.pkt 5) { status := causeStatus k, xcause := k }))) ∧
    (started 6 → exec (.eCollective q) s = .next (updColl (marked s) d fun c =>
      { c with queue := c.queue ++ [{ pkt := e.pkt, src := .queue q e.slot, org := d }] })) ∧
    (started 7 → exec (.eNopPacket q) s = .next (s.setQueue d q { (s.queue d q) with
      started := (s.queue d q).started.filter fun x => x.slot ≠ e.slot })) ∧
    (started 3 → ∀ s1 v, rangeRead translateDie d (pktWord e.pkt 1) 8 s = (s1, .ok v) → exec (.eWaitdep q) s = .next
      (if pktWord e.pkt 2 ≤ v then completeSlot s1 d q e.slot (pktWord e.pkt 7) { status := 0 } else s1)) ∧
    (started 4 → ∀ x1 l s1 old, translateDie (s.die d) (pktWord e.pkt 1) = (x1, .ok l) →
      l.loc (pktWord e.pkt 1) ≠ .qctl triggerOfs → denied x1 .signal 8 (pktWord e.pkt 1) l = none → d < s.dies.length →
      let s0 := s.updDie d fun _ => x1
      ((∀ b, l.loc (pktWord e.pkt 1) ≠ .host b) →
        rmwAt s0 d (l.loc (pktWord e.pkt 1)) 0 Sys2Proof.Fmt.N64 8 (pktWord e.pkt 2) 0 (engineLl l.leaf) = (s1, .ok old) →
        exec (.eSignal q) s = .next (completeSlot s1 d q e.slot (pktWord e.pkt 7) { status := 0 })) ∧
      (∀ b, l.loc (pktWord e.pkt 1) = .host b → ownBus b 8 = false → hostFails s0 = (s1, true) → exec (.eSignal q) s =
        .next (completeSlot s1 d q e.slot (pktWord e.pkt 7) { status := 0x83, cause := Cause.UE })) ∧
      (∀ b, l.loc (pktWord e.pkt 1) = .host b → ownBus b 8 = true →
        (∀ fn, fn < 4 → b = triggerBus fn → (∀ k, k < fn → b ≠ triggerBus k) → exec (.eSignal q) s =
          .next (signalVector s0 fn d q e.slot e.pkt)) ∧
        ((∀ fn, fn < 4 → b ≠ triggerBus fn) → exec (.eSignal q) s =
          .next (completeSlot s0 d q e.slot (pktWord e.pkt 7) { status := 0 }))) ∧
      (∀ b, l.loc (pktWord e.pkt 1) = .host b → ownBus b 8 = false → hostFails s0 = (s1, false) →
        let sum := (Sys2Proof.Mem.read s1.pkg.hostMem b 8 + pktWord e.pkt 2) % 2 ^ 64
        let m := Sys2Proof.Mem.write s1.pkg.hostMem b 8 sum
        exec (.eSignal q) s = .next
          (completeSlot { s1 with pkg := { s1.pkg with hostMem := m } } d q e.slot (pktWord e.pkt 7) { status := 0 }))) ∧
    (∀ p v, (s.queue d (1024 + q)).started.find? (fun e => pktType e.pkt = 3 && !e.acted) = some { slot := p, pkt := v } →
      ownBus (pktWord v 1) 8 = false → exec (.eWaitdepPoll (1024 + q)) s = .next
        (if pktWord v 2 ≤ s.pkg.hostMem.read (pktWord v 1) 8 then completeSlot s d (1024 + q) p (pktWord v 7) { status := 0 } else s)) ∧
    (∀ w more, (s.die d).watchItems = w :: more → w.due ≤ s.pkg.mclk → d < s.dies.length →
      let r := postItem (s.updDie d fun x => { x with watchItems := more }) d w.q w.item
      exec .eWatchItemRetry s = .next (fireAll r.2 r.1))

/-- R151, R157, R158, R354: TEMPLATE_IMAGE_LOAD, TEAM_START, HAWKER_FETCH_SERVE, TEAM_RETIRE. Rests on the model's own choices of logs 10, 29, 37. -/
def Obligations.LaunchLife : Prop :=
  ∀ (s : Sys2Proof.Machine.State) (d c : Nat) (k : Sys2Proof.LKey) (l : Launch), s.cur = .service d →
    (s.die d).launch? k = some l →
    (l.st = .started → ∀ s1 v, rangeRead translateDie d (Pkt.tmpl l.pkt) (64 * Pkt.tmpl64 l.pkt) s = (s1, .ok v) →
      exec (.eTemplateImageLoad k) s = .next (s1.updDie d fun x => x.updLaunch k fun m =>
        { m with st := .loaded, image := Sys2Proof.Mem.write [] 0 (64 * Pkt.tmpl64 l.pkt) v })) ∧
    ((l.st = .loaded ∨ l.st = .running) → rectGated (s.die d) l.pkt = false → s.team? d c = none →
      (∃ t ∈ l.teams, t.core = c ∧ t.started = false) →
      ∃ s' t, exec (.eTeamStart c k) s = .next s' ∧ s'.team? d c = some t ∧ (∀ e, e ≠ c → s'.team? d e = s.team? d e) ∧
        t.key = k ∧ t.comp.pc = BitVec.ofNat 64 (Pkt.entry l.pkt) ∧ t.comp.stat = .running ∧ (∀ r, t.comp.reg r = 0) ∧
        t.store = l.image ∧ t.sp = [] ∧ t.groups = List.replicate (Sys2Proof.Bits.field (Pkt.team l.pkt).toNat 0 9) {} ∧
        t.acc = [] ∧ (s'.die d).hbm = (s.die d).hbm) ∧
    (∀ r a t, firstFetch (fetches s d) = some (a, c, r) → s.team? d c = some t → t.key = k → l.key = k →
      Pkt.hmode l.pkt = 0 → t.comp.dbgStep = false → t.comp.stat = .running → r ≠ 0 →
      let w := if l.next < items l.pkt then coordWord l.pkt l.next else 2 ^ 63
      ∃ s' u, exec .eHawkerFetchServe s = .next s' ∧ s'.team? d c = some u ∧ u.comp.wait = .none ∧
        u.comp.pc = t.comp.pc + 4 ∧ u.comp.reg r = BitVec.ofNat 64 w ∧ (∀ q, q ≠ r → u.comp.reg q = t.comp.reg q) ∧
        ((s'.die d).launch? k).map (·.next) = some (if l.next < items l.pkt then l.next + 1 else l.next)) ∧
    (∀ t, s.team? d c = some t → t.key = k → mayRetire s d c t = true → t.uncollected = [] →
      (∃ e ∈ l.teams, e.core ≠ c ∧ e.retired = false) →
      ∃ s', exec (.eTeamRetire c) s = .next s' ∧ s'.team? d c = none ∧ (∀ e, e ≠ c → s'.team? d e = s.team? d e) ∧
        ((s'.die d).launch? k).map (·.teams) =
          some (l.teams.map fun e => if e.core = c then { e with trig := true, retired := true } else e))


/-- R360 to R362: GANG, GANG_READY, GANG_GO, GANG_START. Rests on the model's own choices of logs 30, 35. -/
def Obligations.GangStages : Prop :=
  ∀ (s : Sys2Proof.Machine.State) (d q : Nat), s.cur = .service d →
    let x := s.die d
    let upd (s : Sys2Proof.Machine.State) (f : Gang → Gang) := s.updDie d fun x => { x with gangs := x.gangs.map fun g => if g.q = q then f g else g }
    (s.queueLive d q = false → ∀ g, x.gangs.find? (fun g => g.q = q) = some g → Pkt.gangSelf g.pkt = 0 →
      exec (.eGang q) s = .next s ∧ exec (.eGangGo q) s = .next s ∧ exec (.eGangStart q) s = .next s) ∧
    (s.queueLive d q = true →
    (∀ p s1 lp, x.gangs.find? (fun g => g.q = q) = none → q < 1024 → (s.queue d q).admitted = some p → pktType p = 5 →
      unblocked (s.queue d q) = true → Pkt.gangOk p s.pkg.pkgNo.toNat d = true → gangLaunch s d q p = (s1, some lp) →
      Pkt.launchOk (lp.set 7 (BitVec.ofNat 64 (Pkt.gangCmpl p))) = true → Pkt.aff (lp.set 7 (BitVec.ofNat 64 (Pkt.gangCmpl p))) = 0 →
      exec (.eGang q) s = .next (s1.updDie d fun x => { x with gangs := x.gangs ++
        [{ q, slot := (s1.queue d q).head.toNat, pkt := p, lp := lp.set 7 (BitVec.ofNat 64 (Pkt.gangCmpl p)) }] })) ∧
    (∀ g, x.gangs.find? (fun g => g.q = q) = some g →
      let self := Pkt.gangSelf g.pkt
      let lead := Pkt.gangMem g.pkt 0
      let tick := Pkt.gangTick g.pkt
      (g.reserved = false → x.enabled = true → roomFor x g.lp = true →
        exec (.eGang q) s = .next (dropLosses (upd (addLaunch d { q, slot := g.slot } g.lp .reserved s) fun g => { g with reserved := true }) d).1) ∧
      (g.reserved = false → roomFor x g.lp = false → exec (.eGang q) s = .next s) ∧
      (∀ s1, g.reserved = true → g.sent = false → depMet s g.lp false = (s1, true) → s.tick + 10000 < tick → self ≠ 0 →
        lead.1 = s.pkg.pkgNo.toNat →
        (s.dieRoute d lead.2 = true → exec (.eGang q) s = .next ((upd s1 fun g => { g with sent := true }).updDie lead.2 fun x =>
          { x with readys := x.readys ++ [readyOf s d g.pkt] })) ∧
        (s.dieRoute d lead.2 = false → exec (.eGang q) s =
          .next (upd (upd s1 fun g => { g with sent := true }) fun g => { g with lost := true }))) ∧
      (∀ m, self = 0 → m ∈ x.readys → m.pkg = s.pkg.pkgNo →
        let s1 := s.updDie d fun x => { x with readys := x.readys.erase m }
        (m.gangId = Pkt.gangId g.pkt → s.tick < tick → exec (.eGangReady q m) s = .next
          (if readyFits g.pkt m = true ∧ ∀ r ∈ g.ready, r.self ≠ m.self then upd s1 fun g => { g with ready := g.ready ++ [m] }
           else upd s1 fun g => { g with mismatch := true })) ∧
        ((∀ h ∈ x.gangs, Pkt.gangId h.pkt = m.gangId → Pkt.gangSelf h.pkt ≠ 0 ∨ Pkt.gangTick h.pkt ≤ s.tick) → exec (.eGangReady q m) s = .next s1)) ∧
      (∀ s0 met, self = 0 → g.decided = false → tick ≤ s.tick + 2000 → s.tick < tick → depMet s g.lp false = (s0, met) →
        let s1 := upd s0 fun g => { g with decided := true }
        exec (.eGangGo q) s = .next
          (if g.mismatch = false ∧ g.reserved = true ∧ met = true ∧ g.ready.length = Pkt.gangNm1 g.pkt then
             (List.range (Pkt.gangNm1 g.pkt + 1)).foldl (sendGo d q g.slot g.pkt) s1
           else s1)) ∧
      (self = 0 → (s.tick + 2000 < tick ∨ tick ≤ s.tick) → exec (.eGangGo q) s = .next s) ∧
      (s.tick < tick → exec (.eGangStart q) s = .next s) ∧
      (tick ≤ s.tick →
        let key : Sys2Proof.LKey := { q, slot := g.slot }
        let s1 := startHead (s.updDie d fun x => { x with gangs := x.gangs.filter fun h => h.q ≠ q }) d q g.pkt
        (g.go = true → g.reserved = true → exec (.eGangStart q) s = .next ((recordLaunch d key s1).updDie d fun x =>
          x.updLaunch key fun l => { l with st := .started, cause := if g.mismatch then 0x83 else if g.lost then 0x84 else l.cause })) ∧
        (g.go = false ∨ g.reserved = false → ∀ l, (s1.die d).launch? key = some l → exec (.eGangStart q) s = .next
          (endPacket (s1.updDie d fun x => forgetLaunch x l) d q g.slot g.pkt 0x82
            (if g.mismatch then 0x83 else if g.lost then 0x84 else 0))))))

/-- R368 to R379: PERMIT_REFILL, DIE_INTERVAL, BUCKET_INSTALLMENT, PACKAGE_BELL, GRANT_ARRIVAL, FLOOR_TIMEOUT,
INTENT_MESSAGE, INTENT_DECISION. Rests on the model's own choices of logs 33, 39. -/
def Obligations.PowerTurns : Prop :=
  ∀ (s : Sys2Proof.Machine.State) (d c : Nat), s.cur = .service d → d < s.dies.length →
    let x := s.die d
    let p := x.power
    let total (q : Permits) : Int := q.matrix + q.vector + q.sfu + q.memory
    (∀ t, s.team? d c = some t → t.stopped = false → t.permits.last ≠ s.pkg.mclk + 1 → pulsePasses s x c = true →
      (∀ k, t.permits.get k ≤ x.permitCap.getD k.idx 0) → s.pkg.intentEn = false →
      ∃ s' u n, exec (.ePermitRefill c) s = .next s' ∧ s'.team? d c = some u ∧
        u = { t with permits := u.permits } ∧ total u.permits = total t.permits + (n : Nat) ∧
        u.permits.bucket + n = t.permits.bucket ∧ (s'.die d).power.drawn = p.drawn + n ∧
        (∀ k, t.permits.get k ≤ u.permits.get k ∧ u.permits.get k ≤ x.permitCap.getD k.idx 0) ∧
        u.permits.first = (t.permits.first + 1) % 4) ∧
    (p.interval ≠ s.tick / 1000 + 1 → ∃ s', exec .eDieInterval s = .next s' ∧
      let p' := (s'.die d).power
      p'.interval = s.tick / 1000 + 1 ∧ p'.drawn = 0 ∧ p'.allow ≤ p'.rate + upAllowance s' d * 1000 ∧
      p'.pool + (x.teams.filter fun e => !e.2.stopped).length * p'.share = p'.allow ∧ p'.pending = none ∧
      (s'.die d).hbm = x.hbm) ∧
    (p.interval = s.tick / 1000 + 1 → exec .eDieInterval s = .next s) ∧
    (p.interval = s.tick / 1000 + 1 → p.tenth ≠ s.tick / 100 + 1 → ∀ t, x.teams = [(c, t)] → t.stopped = false →
      t.permits.counted = true → ∃ s' u, exec .eBucketInstallment s = .next s' ∧ s'.team? d c = some u ∧
        u.permits.bucket = p.share / 10 ∧ u.comp = t.comp ∧ u.groups = t.groups ∧ (s'.die d).power.tenth = s.tick / 100 + 1) ∧
    (s.pkg.lastBell ≠ s.tick / 100000 + 1 → 6 ≤ s.pkg.boot → ∃ s', exec .ePackageBell s = .next s' ∧
      s'.pkg.lastBell = s.tick / 100000 + 1 ∧ s'.pkg.slewInEffect = s.pkg.slew ∧
      (x.powered = true → (s'.die d).power.demand = 0 ∧ ∃ g u n, (s'.die d).power.last = (g, u, n) ∧ g ≤ 680 ∧
        (s'.die d).power.arriving = if s.ctlLinkUp d = true then some (g, u, n) else none) ∧
      (x.powered = false → s'.die d = x)) ∧
    (∀ g, p.arriving = some g → exec .eGrantArrival s = .next (s.updDie d fun x => { x with power := { x.power with
      arriving := none, pending := some g, floor := false, bellGot := s.pkg.lastBell } })) ∧
    (s.pkg.lastBell ≠ 0 → p.bellGot ≠ s.pkg.lastBell → (s.pkg.lastBell - 1) * 100000 + 5000 ≤ s.tick →
      exec .eFloorTimeout s = .next (s.updDie d fun x => { x with power := { x.power with floor := true } })) ∧
    (∀ m, s.pkg.intentEn = true → m.job = s.pkg.intentJob → s.tick / 10000 + 1 < m.slot / 10000 →
      ∃ s', exec (.eIntentMessage m) s = .next s' ∧ m ∈ s'.pkg.intents.received ∧ s'.dies = s.dies) ∧
    (∀ own, s.pkg.intents.own = some own → s.pkg.intentEn = true → own.slot ≤ s.tick + 10000 →
      let before := s.pkg.intents.received.filter fun m => m.job = own.job && m.slot = own.slot && intentBefore m own
      ∃ s', exec .eIntentDecision s = .next s' ∧ s'.dies = s.dies ∧
        ((before.map (·.dw)).sum + own.dw ≤ s.pkg.intentCap → s'.pkg.intents.admitting = true ∧
          s'.pkg.intents.admitSlot = own.slot / 10000 ∧ s'.pkg.intents.own = none) ∧
        (s.pkg.intentCap < (before.map (·.dw)).sum + own.dw → s'.pkg.intents.own = some { own with slot := own.slot + 10000 } ∧
          .intent { own with slot := own.slot + 10000 } ∈ s'.outbox))


/-- R363, R382, R386, R387, R389 to R392, R395. Rests on the model's own choices of logs 14, 38. -/
def Obligations.StopsAndResumes : Prop :=
  ∀ (s : Sys2Proof.Machine.State) (d c : Nat) (k : Sys2Proof.LKey) (l : Launch), s.cur = .service d →
    (s.die d).launch? k = some l →
    let asked (s : Sys2Proof.Machine.State) (why : StopWhy) := s.updDie d fun x =>
      { (x.updLaunch k fun l => { l with st := .stopping, why := some why }) with
        teams := x.teams.map fun e => (e.1, if e.2.key = k then { e.2 with stopReq := true } else e.2) }
    let resident := ∃ e ∈ (s.die d).teams, e.2.key = k
    (resident → l.st = .running →
      exec (.ePreemptionRequest k .dispatcher) s = .next (asked s .resume) ∧
      exec (.ePreemptionRequest k .firmware) s = .next (asked s .resume)) ∧
    (resident → l.spent = true → l.quotaHit = false →
      let s1 := s.updDie d fun x => x.updLaunch k fun l => { l with quotaHit := true }
      exec (.eQuotaExhausted k) s = .next (asked s1 (.finish 0x81 0)) ∧
      exec (.ePreemptionRequest k .quota) s = .next (asked s1 (.finish 0x81 0))) ∧
    (l.spent = false → exec (.eQuotaExhausted k) s = .next s) ∧
    (∀ st ca : Sys2Proof.Byte, resident → exec (.eFirmwareEndLaunch k st ca) s = .next (asked s (.finish st.toNat ca.toNat))) ∧
    (∀ st ca : Sys2Proof.Byte, ¬ resident →
      (collBegun s d k = true → exec (.eFirmwareEndLaunch k st ca) s = .next (s.updDie d fun x => x.updLaunch k fun l =>
        { l with st := .stopping, why := some (.finish st.toNat ca.toNat) })) ∧
      (collBegun s d k = false → exec (.eFirmwareEndLaunch k st ca) s = .next (endLaunch s d k st.toNat ca.toNat))) ∧
    (s.team? d c = none → exec (.ePreemptionAck c) s = .next
      (((s.die d).launches.filter fun m => m.st = .stopping && !(s.die d).teams.any (fun e => e.2.key = m.key) && !collBegun s d m.key).foldl
        (fun s m => stopComplete s d m.key) s)) ∧
    (∀ t, s.team? d c = some t → t.key = k → mayAck t = true → (∃ e ∈ (s.die d).teams, e.1 ≠ c ∧ e.2.key = k ∧ e.2.stopped = false) →
      collBegun s d k = false → (∀ e ∈ s.dies, e.episodes = []) →
      ∃ s' u, exec (.ePreemptionAck c) s = .next s' ∧ s'.team? d c = some u ∧ u.stopped = true ∧ u.store = t.store ∧ u.sp = t.sp ∧
        u.acc = t.acc ∧ u.comp.g = t.comp.g ∧ u.comp.pc = t.comp.pc ∧ u.permits.bucket = 0 ∧ u.l1 = [] ∧
        (s'.die d).launch? k = some l) ∧
    (l.st = .saved → (∀ t ∈ l.teams, coreFree (s.die d) t.core = true) → rectGated (s.die d) l.pkt = false →
      ∀ t, l.saved = [(c, t)] → ∃ s' u, exec (.eLaunchResume k) s = .next s' ∧ s'.team? d c = some u ∧
        u.stopReq = false ∧ u.stopped = false ∧ u.comp = t.comp ∧ u.groups = t.groups ∧ u.sp = t.sp ∧ u.store = t.store ∧
        u.acc = t.acc ∧ (∀ p ∈ u.points, p.time = s.pkg.mclk)) ∧
    (∀ t, s.team? d c = some t →
      (t.comp.stat = .stopped →
        exec (.eFirmwareResume c .composer) s = .next (s.updComp d c fun k => { k with stat := .running, dbgStep := false }) ∧
        exec (.eComposerDebugStep c) s = .next (s.updComp d c fun k => { k with stat := .running, dbgStep := true })) ∧
      (∀ g x, s.group? d c g = some x → x.st = .stopped →
        exec (.eFirmwareResume c (.group g)) s =
          .next (settle (s.updGroup d c g fun y => { y with st := .running, step := x.step, heldFrom := none }) d c g x.frec)) ∧
      exec (.eFirmwareResume c .team) s = .next (s.updTeam d c fun t => { t with frozen := false }) ∧
      ∀ g on, exec (.eFirmwareResume c (.arm g on)) s = .next (s.updGroup d c g fun x => { x with step := on, stepping := none })) ∧
    (∀ n, (∀ v more, s.pkg.mgmt[n]? = some none → s.pkg.events = v :: more → (∀ h ∈ s.pkg.mgmt, h.bind FwEvent.queue ≠ v.queue ∨ v.queue = none) →
        exec (.eFirmwareResume c (.core n)) s = .next { s with pkg := { s.pkg with
          events := more ++ s.pkg.held.take 1, held := s.pkg.held.drop 1, mgmt := s.pkg.mgmt.set n (some v) } }) ∧
      (∀ v, s.pkg.mgmt[n]? = some (some v) → exec (.eFirmwareResume c (.core n)) s = .next { s with pkg := { s.pkg with
          mgmt := s.pkg.mgmt.set n none } })) ∧
    (∀ n, n < 64 → n ∉ (s.die d).gated → clusterEmpty (s.die d) n = true →
      (n ∉ (s.die d).closing → exec (.eClusterGate n) s = .next (s.updDie d fun x => { x with closing := n :: x.closing })) ∧
      (n ∈ (s.die d).closing → crossbarDrained (s.die d) n = true → exec (.eClusterGate n) s =
        .next (s.updDie d fun x => { x with closing := x.closing.erase n, gated := n :: x.gated }))) ∧
    (∀ n, exec (.eClusterUngate n) s = .next (s.updDie d fun x => { x with closing := x.closing.erase n, gated := x.gated.erase n }))


/-- R21, R24, R25, R397 to R401, R407. Rests on the model's own choices of logs 9 (IMPORT waits, and drops what the TLBs hold), 31, 45. -/
def Obligations.HostRequestsAndCommands : Prop :=
  ∀ (s : Sys2Proof.Machine.State) (d e : Nat), s.cur = .service e → s.pkg.boot = 6 → s.pkg.bootHalted = false →
    let m := s.pkg.mailbox
    let func (n : Nat) := s.pkg.funcs.getD n {}
    let freeze (n : Nat) (s : Sys2Proof.Machine.State) := { s with pkg := { s.pkg with
      funcs := Sys2Proof.Bits.updAt s.pkg.funcs n fun f => { f with frozen := true } } }
    let ones (s : Sys2Proof.Machine.State) := { s with busReply := BitVec.allOnes 64, outbox := s.outbox ++ [.unsupported] }
    (∀ fn bar off op, fn < 4 → (∀ j, op ≠ .unit j) → (func fn).frozen = true → exec (.eHostRequest fn bar off op) s = .next (ones s)) ∧
    ((func 0).frozen = false →
      (∀ off b, off + b.length ≤ 64 → b ≠ [] → exec (.eHostRequest 0 0 off (.write b)) s = .next
        { s with pkg := { s.pkg with mailbox := { m with req := Sys2Proof.Mem.writeBytes m.req off b } } }) ∧
      (∀ off n, 0x200 ≤ off → off + n ≤ 0x240 → 1 ≤ n → exec (.eHostRequest 0 0 off (.read n)) s = .next
        (let v := BitVec.ofNat 64 (Sys2Proof.Mem.read m.resp (off - 0x200) n)
         { s with busReply := v, outbox := s.outbox ++ [.reply none (Sys2Proof.Mem.read m.resp (off - 0x200) n)] })) ∧
      (∀ b : List Sys2Proof.Byte, b.length ≤ 8 → Sys2Proof.Bits.ofBytes b = 1 → m.idle = true →
        let s1 := { s with pkg := { s.pkg with mailbox := { m with idle := false, cmd := m.req, early := false } } }
        exec (.eHostRequest 0 0 0x100 (.write b)) s = .next
          (if 1 ≤ (m.req.byte 0).toNat ∧ (m.req.byte 0).toNat ≤ 7 then s1 else respond s1 1 [])) ∧
      (∀ bar off op, bar ≠ 0 → (∀ j, op ≠ .unit j) → exec (.eHostRequest 0 bar off op) s = .next (ones (freeze 0 s)))) ∧
    (∀ q off n, d < 3 → q < 1023 → off + n ≤ 0x38 → (func (d + 1)).frozen = false →
      let s0 := finishTodo s (d + 1)
      let r := s0.queueRead d q off n
      ((func (d + 1)).todo = [] → s0 = s) ∧
      exec (.eHostRequest (d + 1) 0 (q * 65536 + off) (.read n)) s = .next
        { r.1 with busReply := BitVec.ofNat 64 r.2.toNat, outbox := r.1.outbox ++ [.reply none r.2.toNat] } ∧
      ∀ b : List Sys2Proof.Byte, b.length = n → exec (.eHostRequest (d + 1) 0 (q * 65536 + off) (.write b)) s =
        .next (s0.queueWrite d q off n (Sys2Proof.Bits.ofBytes b))) ∧
    (∀ fn bar off j, exec (.eHostRequest fn bar off (.unit j)) s = .next (serveTodo s fn j)) ∧
    (∀ fn j u v a, d < s.dies.length → (func fn).todo[j % max 1 (func fn).todo.length]? = some u → u.site = .at d (.hbm a) none →
      u.data = some v → Undisturbed s d → HbmPut s (serveTodo s fn j) d a u.n v ∧
        ((serveTodo s fn j).pkg.funcs.getD fn {}).todo = (func fn).todo.erase u) ∧
    (∀ off page x1 lf a, d < 3 → d < s.dies.length → off < 2 ^ 34 → off % 8 = 0 → (func (d + 1)).frozen = false → (func (d + 1)).todo = [] → (func (d + 1)).got = 0 →
      Sys2Proof.SMap.find? (func (d + 1)).window (off / 65536) = some page →
      let va := page * 65536 + off % 65536
      translateDie (s.die d) va = (x1, .ok lf) → lf.loc va = .hbm a → denied x1 .load 8 va lf = none → Undisturbed s d →
      ∃ s', exec (.eHostRequest (d + 1) 2 off (.read 8)) s = .next s' ∧
        s'.busReply = BitVec.ofNat 64 ((s.die d).hbm.read a 8) ∧ MemKept s s') ∧
    (∀ off op, d < 3 → off < 2 ^ 34 → (∀ j, op ≠ .unit j) → (func (d + 1)).frozen = false → (func (d + 1)).todo = [] →
      Sys2Proof.SMap.find? (func (d + 1)).window (off / 65536) = none →
      exec (.eHostRequest (d + 1) 2 off op) s = .next (ones (freeze (d + 1) s))) ∧
    (d < 3 →
      let live := ((s.die d).launches.filter fun l => l.st ≠ .reserved).map (·.key)
      let s1 := live.foldl (fun s k => beginStop s d k (.finish 0x85 0)) s
      let s2 := ((s.die d).gangs.filter (·.reserved)).foldl (fun s g => endReserved s d g) s1
      exec (.eFunctionLevelReset (d + 1)) s = .next { s2 with pkg := { s2.pkg with
        funcs := Sys2Proof.Bits.updAt s2.pkg.funcs (d + 1) fun f => { f with frozen := false } } }) ∧
    (∀ k, ((∃ e ∈ (s.die d).teams, e.2.key = k) → beginStop s d k (.finish 0x85 0) = s.updDie d fun x =>
        { (x.updLaunch k fun l => { l with st := .stopping, why := some (.finish 0x85 0) }) with
          teams := x.teams.map fun e => (e.1, if e.2.key = k then { e.2 with stopReq := true } else e.2) }) ∧
      ((∀ e ∈ (s.die d).teams, e.2.key ≠ k) → beginStop s d k (.finish 0x85 0) =
        if collBegun s d k then s.updDie d fun x => x.updLaunch k fun l => { l with st := .stopping, why := some (.finish 0x85 0) }
        else endLaunch s d k 0x85 0)) ∧
    (m.idle = false → m.revoking = none →
      let code (n : Nat) : Prop := (m.cmd.byte 0).toNat = n
      let answered (status : Nat) (more : List Sys2Proof.Byte) (s : Sys2Proof.Machine.State) := { s with pkg := { s.pkg with
        mailbox := { s.pkg.mailbox with idle := true, revoking := none,
                                        resp := Sys2Proof.Mem.writeBytes (Sys2Proof.Mem.setByte [] 0 (BitVec.ofNat 8 status)) 8 more }
        funcs := Sys2Proof.Bits.updAt s.pkg.funcs 0 fun f => { f with vectors := 0 :: f.vectors } } }
      let x := s.die d
      let free (k : Nat) : Prop := (Sys2Proof.SMap.get {} x.exports k).used = false ∧ (Sys2Proof.SMap.get {} x.exports k).revoking = false
      (∀ va len rw ra k, code 1 → x.released = true → k < 4096 → free k → (∀ j, j < k → ¬ free j) →
        va.toNat % 65536 = 0 → len.toNat % 65536 = 0 → 65536 ≤ len.toNat → len.toNat ≤ 262144 * 65536 → va.toNat + len.toNat ≤ 2 ^ 52 →
        let y : Export := { (Sys2Proof.SMap.get {} x.exports k) with
          used := true, base := va.toNat, len := len.toNat / 65536, rw, ra, revoking := false }
        exec (.eExport d va len rw ra) s = .next (answered 0 (Sys2Proof.Bits.toBytes 16 (handleOf s d k y))
          (s.updDie d fun x => { x with exports := Sys2Proof.SMap.insert x.exports k y }))) ∧
      (∀ h off s1, code 2 → x.released = true → handleGood s h.toNat = (s1, false) →
        exec (.eImport d h off) s = .next (answered 1 [] s1)) ∧
      (∀ (h : BitVec 128) (off : Sys2Proof.Word64) s1 k, code 2 → x.released = true → handleGood s h.toNat = (s1, true) → k < 1024 →
        Sys2Proof.SMap.find? x.imports k = none → (∀ j, j < k → Sys2Proof.SMap.find? x.imports j ≠ none) →
        let f := Sys2Proof.Bits.field h.toNat
        off.toNat % 65536 = 0 → off.toNat + f 64 32 * 65536 ≤ 2 ^ 48 →
        let i : Import :=
          { pkg := f 0 32, die := f 32 2, exp := f 36 12, gen := BitVec.ofNat 16 (f 48 16), len := f 64 32, rw := h.getLsbD 97,
            ra := h.getLsbD 98, win := off.toNat / 65536, frozen := false }
        let lo := 0x000F_0000_0000_0000 + off.toNat
        (x.tlbBusy ≠ none ∨ rangePending s d lo (f 64 32 * 65536) = true → exec (.eImport d h off) s = .next s) ∧
        (x.tlbBusy = none → rangePending s d lo (f 64 32 * 65536) = false →
          exec (.eImport d h off) s = .next (answered 0 (Sys2Proof.Bits.toBytes 4 k)
            (s1.updDie d fun x => tlbDrop (mapImport { x with imports := Sys2Proof.SMap.insert x.imports k i } k i) lo (f 64 32 * 65536)))) ∧
        (mapImport { x with imports := Sys2Proof.SMap.insert x.imports k i } k i).imports = Sys2Proof.SMap.insert x.imports k i) ∧
      (∀ k y, code 3 → x.released = true → Sys2Proof.SMap.find? x.exports k = some y → y.used = true →
        let z : Export := { y with used := false, gen := y.gen + 1, revoking := true }
        let s1 := s.updDie d fun x => { x with exports := Sys2Proof.SMap.insert x.exports k z }
        exec (.eRevoke d k) s = .next { s1 with pkg := { s1.pkg with mailbox := { s1.pkg.mailbox with revoking := some (d, k) } } }) ∧
      (∀ f, code 4 → f < 4 → exec (.eFnclear (some f) d 0) s = .next (answered 0 [] { s with pkg := { s.pkg with
        funcs := Sys2Proof.Bits.updAt s.pkg.funcs f fun g => { g with frozen := false } } })) ∧
      (∀ k y, code 4 → x.released = true → Sys2Proof.SMap.find? x.imports k = some y →
        exec (.eFnclear none d k) s = .next (answered 0 [] (s.updDie d fun x => { x with
          imports := (Sys2Proof.SMap.insert x.imports k ({ y with frozen := false } : Import)) }))) ∧
      (code 7 → x.released = true →
        exec (.eDieoff d) s = .next (answered 0 [] (dropLosses (s.updDie d fun x => { x with enabled := false }) d).1) ∧
        (x.hbmUp = true → exec (.eDieon d) s = .next (answered 0 [] (s.updDie d fun x => { x with enabled := true })))) ∧
      (code 5 → m.early = true → exec .eAttest s = .next (answered 2 [] s)) ∧
      (code 5 → m.early = false → ∃ s', exec .eAttest s = .next s' ∧ s'.pkg.mailbox.idle = true ∧ s'.dies = s.dies ∧
        s'.pkg.mailbox.result = Sys2Proof.Mem.writeBytes [] 0 (attestReport s (Sys2Proof.Mem.bytes m.cmd 8 32))) ∧
      (code 6 → ∃ s', exec .eIdent s = .next s' ∧ s'.pkg.mailbox.idle = true ∧ s'.dies = s.dies ∧
        s'.pkg.mailbox.result = Sys2Proof.Mem.writeBytes [] 0 Sys2Proof.Config.identityChain))


/-- R402 to R406, R345: SWIAX_FLIT, FLIT_REPLAY, LINK_DOWN, DIE_LINK_FAILURE, LINK_UP, TIME_MESSAGE, TIME_BASE_LOST,
PACKAGE_RESET, REGISTER_WRITE. Rests on the model's own choices of logs 5, 26 (a flit of VC 0 or 1 is taken without further effect), 35, 45. -/
def Obligations.FabricAndBringUp : Prop :=
  ∀ (s : Sys2Proof.Machine.State) (e k : Nat) (l : Sys2Proof.Machine.Link), s.cur = .service e → s.pkg.links[k]? = some l →
    let setLink (s : Sys2Proof.Machine.State) (f : Sys2Proof.Machine.Link → Sys2Proof.Machine.Link) :=
      { s with pkg := { s.pkg with links := Sys2Proof.Bits.updAt s.pkg.links k f } }
    (∀ f, (l.up = false ∨ f.crc ≠ Sys2Proof.Config.crc64 (flitBytes f)) → exec (.eSwiaxFlit k f) s = .next s) ∧
    (∀ f, s.pkg.flits = [] → l.up = true → f.crc = Sys2Proof.Config.crc64 (flitBytes f) →
      let left := l.unacked.filter fun g => decide (128 ≤ (f.ack - g.flit.seq).toNat)
      let acked : Sys2Proof.Machine.Link := { l with unacked := left }
      let s2 := setLink s fun _ => { acked with rx := f.seq }
      (f.seq ≠ l.rx + 1 → exec (.eSwiaxFlit k f) s = .next (setLink s fun _ => acked)) ∧
      (f.seq = l.rx + 1 → f.vc.toNat < 2 → f.dpkg = s.pkg.pkgNo → exec (.eSwiaxFlit k f) s = .next s2) ∧
      (f.seq = l.rx + 1 → f.dpkg ≠ s.pkg.pkgNo →
        (linksToward s f.dpkg.toNat = [] → exec (.eSwiaxFlit k f) s = .next (returnFlit s2 f)) ∧
        (linksToward s f.dpkg.toNat ≠ [] → ∃ n,
          exec (.eSwiaxFlit k f) s = .next { s2 with freeCtr := n, pkg := { s2.pkg with flits := [f] } } ∨
          ∃ j ∈ linksToward s f.dpkg.toNat,
            let m := s2.pkg.links.getD j {}
            let g0 : Sys2Proof.Flit := { f with seq := m.tx + 1, ack := m.rx }
            let g : Sys2Proof.Flit := { g0 with crc := Sys2Proof.Config.crc64 (flitBytes g0) }
            exec (.eSwiaxFlit k f) s = .next (({ s2 with freeCtr := n, pkg := { s2.pkg with
              links := Sys2Proof.Bits.updAt s2.pkg.links j fun m => { m with tx := m.tx + 1, unacked := m.unacked ++ [{ flit := g, sent := s.pkg.mclk }] } } }
                : Sys2Proof.Machine.State).send (.flit j g))))) ∧
    (∀ p j, j ∈ linksToward s p ↔ j < 16 ∧ (Sys2Proof.SMap.get 0 s.pkg.route p).getLsbD j = true ∧ (s.pkg.links.getD j {}).up = true) ∧
    let due (f : SentFlit) : Bool := decide (f.sent + 4200 ≤ s.pkg.mclk)
    ((∀ f ∈ l.unacked, due f = false) → exec (.eFlitReplay k) s = .next s) ∧
    (s.pkg.flits = [] → (∃ f ∈ l.unacked, due f = true) → (∀ f ∈ l.unacked, due f = true → f.replays < 8) →
      let again (f : SentFlit) : SentFlit := if due f then { f with sent := s.pkg.mclk, replays := f.replays + 1 } else f
      exec (.eFlitReplay k) s = .next
        { (setLink s fun l => { l with unacked := l.unacked.map again }) with
          outbox := s.outbox ++ (l.unacked.filter due).map fun f => .flit k f.flit }) ∧
    (∀ i, s.pkg.flits = [] → l.up = true →
      (i = .eLinkDown k ∨ (i = .eFlitReplay k ∧ ∃ f ∈ l.unacked, due f = true ∧ 8 ≤ f.replays)) →
      ∃ s', exec i s = .next s' ∧ (s'.pkg.links.getD k {}).up = false ∧ (s'.pkg.links.getD k {}).unacked = [] ∧
        s'.outbox = s.outbox ++ l.unacked.map (fun f => .linkDown f.flit) ∧ FwEvent.linkDown (.swiax k) ∈ s'.pkg.events ++ s'.pkg.held ∧
        let told (m : Launch) : Launch :=
          if m.cause = 0 ∧ l.unacked.any (fun f => m.goFlits.contains (plainFlit f.flit)) = true then { m with cause := 0x84 } else m
        s'.dies = s.dies.map fun x => { x with launches := x.launches.map told }) ∧
    (s.pkg.boot = 6 → l.up = false → exec (.eLinkUp (.swiax k)) s = .next (setLink s fun _ => { up := true })) ∧
    (∀ n, exec (.eLinkUp (.die n)) s = .next { s with pkg := { s.pkg with dieLinks := s.pkg.dieLinks.set n true } }) ∧
    (∀ n, s.pkg.dieLinks.getD n false = true → ∃ s', exec (.eDieLinkFailure n) s = .next s' ∧ (3 ≤ n → s'.dies = s.dies) ∧
      s'.pkg.dieLinks = s.pkg.dieLinks.set n false ∧
      ((∀ d c t, s.team? d c = some t → t.ts = [] ∧ ∀ x ∈ t.groups, x.loads = []) → ∀ d, (s'.die d).hbm = (s.die d).hbm)) ∧
    let applied := if s.pkg.tbGoal = s.pkg.tbSlew then s.pkg.tbOfs else BitVec.ofInt 16 (s.pkg.tbGoal - s.pkg.tbSlew)
    (∀ master hops, s.pkg.tbMaster = false →
      let diff : Int := (BitVec.toNat master : Int) - (s.tick : Int)
      exec (.eTimeMessage master hops) s = .next { s with pkg := { s.pkg with
        tbSlew := diff, tbGoal := diff, tbOfs := applied, tbHops := hops, tbLast := s.tick
        tbLost := s.pkg.tbLost && !(decide (-2 ≤ diff) && decide (diff ≤ 2)) } }) ∧
    (s.pkg.tbMaster = false → s.pkg.tbLost = false → 6 ≤ s.pkg.boot → s.pkg.tbLast + 1000000 ≤ s.tick →
      exec .eTimeBaseLost s = .next { s with pkg := { s.pkg with tbLost := true, tbSlew := 0, tbGoal := 0, tbOfs := applied } }) ∧
    (∀ i, imageGood i = true ↔ imageMagic i = 0x4F5A4D48 ∧ sha512 i.key = Sys2Proof.Config.fusedKeyDigest ∧
      pssVerify i.key (sha512 (imageHeader i ++ i.body)) i.signature = true ∧ Sys2Proof.Config.fusedCounter ≤ imageField i 2) ∧
    (∀ images answers trained, s.pkg.bootHalted = false →
      (s.pkg.boot < 6 → ∃ s', exec (.ePackageReset images answers trained) s = .next s' ∧ s'.dies.length = s.dies.length ∧
        (s.pkg.boot = 1 → (∃ i ∈ images, imageGood i = false) → s'.pkg.boot = 1 ∧ s'.pkg.bootHalted = true) ∧
        (s.pkg.boot = 1 → (∀ i ∈ images, imageGood i = true) → s'.pkg.boot = 2) ∧
        (s.pkg.boot = 0 → BitVec.getLsbD answers 0 = false → s'.pkg.boot = 0 ∧ s'.pkg.bootHalted = true) ∧
        (s.pkg.boot ≠ 1 → (s.pkg.boot = 0 → BitVec.getLsbD answers 0 = true) → s'.pkg.boot = s.pkg.boot + 1) ∧
        (s.pkg.boot = 3 → ∀ d, d < s.dies.length → (s.die d).released = true →
          (s'.die d).l2pt = (s.die d).fuseL2pt ∧ (s'.die d).hmap = (s.die d).fuseHmap) ∧
        (s.pkg.boot = 5 → ∀ d, d < s.dies.length → (s.die d).hbmUp = true → (s'.die d).enabled = true ∧ (s'.die d).queuesOpen = true)) ∧
      (6 ≤ s.pkg.boot → ∃ s', exec (.ePackageReset images answers trained) s = .next s' ∧
        s'.dies = s.dies.map (fun x => ({ Die.reset with present := x.present, fuseHmap := x.fuseHmap, fuseL2pt := x.fuseL2pt } : Sys2Proof.Machine.Die)) ∧
        s'.pkg = { Pkg.reset with hostMem := s.pkg.hostMem })) ∧
    (∀ (d off : Nat) (v : Sys2Proof.Word64),
      exec (.eRegisterWrite (.die d) off v) s = .next (s.updDie d fun x => writeDieReg x off v.toNat) ∧
      (off % 8 = 0 → off < 2 ^ 28 → exec (.eRegisterWrite (.table d) off v) s = .next
        (s.updDie d fun x => { x with table := Sys2Proof.Mem.write x.table off 8 v.toNat })) ∧
      exec (.eRegisterWrite (.route) off v) s = .next { s with pkg := { s.pkg with
        route := Sys2Proof.SMap.set 0 s.pkg.route (off % 16384) (BitVec.ofNat 16 v.toNat) } }) ∧
    (∀ (x : Sys2Proof.Machine.Die) (v : Nat), v < 2 ^ 64 →
      (x.power.lowchg = false → (writeDieReg x 0x3000 v).phaseSpace =
        BitVec.ofNat 64 (v / 2 ^ 16 % 16 * 2 ^ 16 + v % 1024)) ∧
      (∀ n j, n < 8 → j < 4 → x.price.length = 32 →
        (writeDieReg x (0x5000 + 8 * n) v).price.getD (4 * n + j) 0 = v / 2 ^ (16 * j) % 2 ^ 16) ∧
      (writeDieReg x 0x4000 v).seed = (if v % 2 ^ 32 = 0 then 1 else BitVec.ofNat 32 v))



namespace Sys2Proof.Machine

/-- What a fault leaves unchanged: all memory, every other team and group, and every queue, engine and register that is
not named where the fault is stated. -/
structure FaultFrame (s s' : State) (d c : Nat) (t u : Team) : Prop where
  mem    : MemKept s s'
  others : ∀ e k, (e, k) ≠ (d, c) → s'.team? e k = s.team? e k
  team   : u = { t with comp := u.comp, groups := u.groups, frozen := u.frozen }
  dies   : s'.dies.length = s.dies.length
  host   : s'.pkg = { s.pkg with events := s'.pkg.events, held := s'.pkg.held }

/-- Firmware has been told of a fault: the event is the last of its queue, or is held where the queue is full. -/
def Told (s s' : State) (e : FwEvent) : Prop :=
  (s.pkg.events.length < 1024 → s'.pkg.events = s.pkg.events ++ [e] ∧ s'.pkg.held = s.pkg.held) ∧
  (1024 ≤ s.pkg.events.length → s'.pkg.events = s.pkg.events ∧ s'.pkg.held = s.pkg.held ++ [e])

end Sys2Proof.Machine

/-- R380, R381, R384, R386, R388, R230 at levels L and G. Rests on the model's own choices of logs 36, 41, 43. -/
def Obligations.FaultsTaken : Prop :=
    (∀ (s : Sys2Proof.Machine.State) (d c g sl : Nat) (t : Sys2Proof.Machine.Team) (x : Sys2Proof.Machine.Group)
      (f : FaultInfo), s.team? d c = some t → s.group? d c g = some x →
      let s' := takeLaneFault s d c g sl f
      let r := laneRecord s d c g sl f
      let event := f.code ≠ Code.PROT ∧ t.comp.fvec.getLsbD f.code = true
      let e : Ev := if f.code = Code.STEP then .step g r else .fault g r
      let lost := t.bad.contains (.prov ((t.frameOf x).index r.woff / 2))
      let s0 := if lost then reportUe s d else s
      (lost = true → (s'.die d).ueCount = (s.die d).ueCount + 1 ∧ Told s s0 (.ue d)) ∧
      ∃ u y, s'.team? d c = some u ∧ s'.group? d c g = some y ∧ FaultFrame s s' d c t u ∧
        y = { x with st := .stopped, code := f.code, slotF := sl, stepping := none, frec := r, pc0 := y.pc0, pc1 := y.pc1 } ∧
        (∀ k, k < 2 → y.slot k = { x.slot k with walkFail := (y.slot k).walkFail }) ∧
        (∀ k, k ≠ g → u.groups[k]? = t.groups[k]?) ∧
        u.comp = { t.comp with evq := u.comp.evq } ∧
        (event → s'.pkg = s0.pkg ∧
          let q := t.comp.evq ++ [e]
          (t.comp.evq.length < 336 → u.comp.evq = q) ∧
          (336 ≤ t.comp.evq.length →
            (∀ a v b, q = a ++ v :: b → v.group? ≠ none → (∃ w ∈ b, w.group? = v.group?) →
              (∀ a' v' b', a = a' ++ v' :: b' → v'.group? = none ∨ ∀ w ∈ b' ++ v :: b, w.group? ≠ v'.group?) → u.comp.evq = a ++ b) ∧
            ((∀ a v b, q = a ++ v :: b → v.group? = none ∨ ∀ w ∈ b, w.group? ≠ v.group?) → u.comp.evq = q))) ∧
        (¬ event → u.comp.evq = t.comp.evq ∧ Told s0 s' (.fault d c t.key.q r) ∧
          Sys2Proof.SMap.find? (s'.die d).faultSlots c = some r) ∧
        u.frozen = (t.frozen || f.code = Code.PROT) ∧
        (u.frozen = true → compReady u = false ∧ ∀ z k, laneReady u z k = false) ∧
        r.code = f.code ∧ r.levelG = false ∧ r.cause = f.cause ∧ r.group = g ∧ r.slot = sl ∧ r.log = c ∧ r.die = d ∧
        r.mask = f.mask ∧ r.access = f.access ∧ r.va = f.va ∧ r.fid = x.frame.getD 0 ∧ r.tick = s.tick ∧ r.cpc = 0 ∧
        r.woff = (t.frameOf x).starts.getD (x.slot sl).block 0 + (x.slot sl).word ∧
        r.provn = (if t.bad.contains (.prov ((t.frameOf x).index r.woff / 2)) then 0xFFFF_FFFF
          else Sys2Proof.SMap.get 0 t.prov ((t.frameOf x).index r.woff))) ∧
    (∀ (s : Sys2Proof.Machine.State) (d c : Nat) (t : Sys2Proof.Machine.Team) (f : FaultInfo), s.team? d c = some t →
      let s' := takeCompFault s d c f
      let r := compRecord s d c f
      ∃ u, s'.team? d c = some u ∧ FaultFrame s s' d c t u ∧ u.groups = t.groups ∧
        u.comp = { t.comp with stat := .stopped, frec := r, walkFail := [], pend := none, dbgStep := false } ∧
        u.frozen = (t.frozen || f.code = Code.GPROT) ∧ compReady u = false ∧ Told s s' (.fault d c t.key.q r) ∧
        Sys2Proof.SMap.find? (s'.die d).faultSlots c = some r ∧
        r.code = f.code ∧ r.levelG = true ∧ r.cause = f.cause ∧ r.cpc = t.comp.pc.toNat ∧ r.access = f.access ∧
        r.va = f.va ∧ r.woff = f.woff ∧ r.log = c ∧ r.die = d ∧ r.tick = s.tick ∧ r.mask = 0 ∧ r.group = 0 ∧ r.slot = 0)

/-- R180, R197, R395. Rests on the model's own choices of log 13. -/
def Obligations.WordsWithoutInstruction : Prop :=
  (∀ (s : Sys2Proof.Machine.State) (d c : Nat) (t : Sys2Proof.Machine.Team) (w : Sys2Proof.Word32),
    s.cur = .composer d c → s.team? d c = some t → compReady t = true →
    exec (.xAbsentComposerOpcode w) s = .next (takeCompFault s d c { code := Code.GILLOP })) ∧
  (∀ (s : Sys2Proof.Machine.State) (d c g sl : Nat) (t : Sys2Proof.Machine.Team) (x : Sys2Proof.Machine.Group)
    (w : Sys2Proof.Word64), s.cur = .lane d c g sl → s.team? d c = some t → s.group? d c g = some x →
    laneReady t x sl = true →
    exec (.xUnallocatedLaneOpcode w) s = .next (takeLaneFault s d c g sl { code := Code.ILLOP, access := 1 })) ∧
  (∀ (s : Sys2Proof.Machine.State) (d c : Nat) (t : Sys2Proof.Machine.Team), s.team? d c = some t →
    (t.comp.dbgStep = true → t.comp.stat = .running →
      compStepped s d c = takeCompFault s d c { code := Code.GBRK, access := 0x10000 }) ∧
    (t.comp.dbgStep = false → compStepped s d c = s))

/-- R162, R156, R196, R370, R395: the step around a lane instruction's effect. Rests on the model's own choices of logs 12, 15. -/
def Obligations.LaneStepFrame : Prop :=
  (∀ (s s1 : Sys2Proof.Machine.State) (d c g sl : Nat) (cls : PClass) (price : Nat) (t : Sys2Proof.Machine.Team)
    (x : Sys2Proof.Machine.Group), s1.team? d c = some t → s1.group? d c g = some x →
    ∀ s2, laneDone s s1 d c g sl cls price = .next s2 ∨ laneMoved s s1 d c g sl cls price = .next s2 →
      aside d c g s2 = aside d c g s1 ∧ MemKept s1 s2 ∧
      (∀ k, k ≠ g → s2.group? d c k = s1.group? d c k) ∧
      ∃ y, s2.group? d c g = some y ∧ y.v = x.v ∧ y.w = x.w ∧ y.x = x.x ∧ y.e = x.e ∧ y.asf = x.asf ∧ GroupKept x y) ∧
  (∀ (s : Sys2Proof.Machine.State) (d c g sl : Nat) (t : Sys2Proof.Machine.Team) (x : Sys2Proof.Machine.Group)
    (k : LaneKind) (entry : Nat) (m : LaneCtx → Sys2Proof.Machine.State → LRes), s.cur = .lane d c g sl →
    s.team? d c = some t → s.group? d c g = some x → laneReady t x sl = true → (k.behindLoads = true ∨ x.unbound = false) →
    let price := (s.die d).priceOf entry
    (mayStart s d c k.cls price = true → x.active sl = 0 → k.structural = false →
      execLane k entry m s = laneDone s s d c g sl k.cls price) ∧
    (mayStart s d c k.cls price = false →
      ∃ s2, execLane k entry m s = .next s2 ∧ aside d c g s2 = aside d c g s ∧ MemKept s s2 ∧
        (∀ e k, s2.team? e k = s.team? e k) ∧ s2.pkg = s.pkg))

/-- R405 and the reset values of the register tables. Rests on the model's own choices of logs 2, 4, 5. -/
def Obligations.ResetState : Prop :=
  let s := Sys2Proof.Machine.State.reset
  s.Inv ∧ s.dies.length = 3 ∧ s.pkg.boot = 0 ∧ s.pkg.bootHalted = false ∧ s.pkg.mclk = 0 ∧ s.pkg.events = [] ∧
  s.pkg.queues = [] ∧ s.pkg.hostMem = [] ∧ s.pkg.pwr = 0x0000_012C_0000_07F8 ∧ s.pkg.slew = 0x0000_4E20_0000_4E20 ∧
  s.pkg.intentCfg = 0x0000_0000_03E8_0014 ∧
  ∀ x ∈ s.dies, x.teams = [] ∧ x.launches = [] ∧ x.queues = [] ∧ x.hbm = [] ∧ x.watch = [] ∧ x.exports = [] ∧
    x.imports = [] ∧ x.released = false ∧
    x.price = [24, 4, 30, 32, 40, 44, 30, 12, 20, 6, 90, 1800, 2000, 2000, 2600, 300, 60, 60, 60, 60, 60, 40,
      0, 0, 0, 0, 0, 0, 0, 0, 0, 0] ∧
    x.permitCap = [8192, 2048, 1024, 4096] ∧ x.permitRate = [340, 420, 180, 200] ∧
    x.phaseSpace = 0x0007_0040 ∧ x.dpcCfg = 0x2008_5555_2001_4BB8 ∧ x.vesper = 0x0000_0960_6403_2007 ∧
    x.swp = List.replicate 66 0xFFFF

/-- R88, R214, R148, R149, R180, R196, R197, R388: fetch, decode and execute. Rests on the model's own choices of logs 1, 41. -/
def Obligations.StepRunsTheDecodedInstruction : Prop :=
  ∀ (s : Sys2Proof.Machine.State) (rest : List Turn),
    (∀ d c, s.agenda = .composer d c :: rest →
      let s0 : Sys2Proof.Machine.State := { s with agenda := rest, cur := .composer d c }
      (s.team? d c = none → step s = .next s0) ∧
      ∀ t, s.team? d c = some t →
        let pc := t.comp.pc.toNat
        (compReady t = false → step s = .next s0) ∧
        (compReady t = true → pulsePasses s0 (s0.die d) c = false → step s = .next s0) ∧
        (compReady t = true → pulsePasses s0 (s0.die d) c = true →
          (∀ v, t.comp.icache.find? (pc / 64) = some v →
            (∀ i, Sys2Proof.decodeComposer (wordOfLine v pc) = .ok i → step s = exec i s0) ∧
            (∀ e, Sys2Proof.decodeComposer (wordOfLine v pc) = .error e →
              step s = .next (takeCompFault s0 d c { code := Code.GILLOP }))) ∧
          (t.comp.icache.find? (pc / 64) = none →
            ∀ x e, translate (s.die d) c .composer t.comp.walkFail pc = (x, .ok e) →
              denied x .fetch 4 pc e = none →
              ∀ s1 v t1, readAt (s0.updDie d fun _ => x) d (e.loc (pc / 64 * 64)) 64 (if e.leaf.peer then 2 else min 2 e.leaf.cache) = (s1, .ok v) →
                s1.team? d c = some t1 →
                let s2 := s1.updComp d c fun k => { k with icache := icachePut k.icache (pc / 64) v }
                ∀ i, Sys2Proof.decodeComposer (wordOfLine v pc) = .ok i → step s = exec i s2))) ∧
    (∀ d c g sl, s.agenda = .lane d c g sl :: rest →
      let s1 := coreCycle { s with agenda := rest, cur := .lane d c g sl } d c
      (pulsePasses s1 (s1.die d) c = false → step s = .next s1) ∧
      (s1.group? d c g = none → step s = .next s1) ∧
      ∀ t x, pulsePasses s1 (s1.die d) c = true → s1.team? d c = some t → s1.group? d c g = some x →
        let p := t.passNo.get 0 (laneOf g) + 1
        let others := (rivals t g sl p).filter (wouldIssue s1 d c)
        let ready := maybeReady t p (g, sl) = true
        let behind := others.any (fun o => goesBefore t o (g, sl)) = true
        let past := passBoundary s1 d c g p others
        let s2 := passBoundary s1 d c g p ((g, sl) :: others)
        (¬ ready → step s = .next past) ∧
        (ready → ∀ s3, runSlot s2 d c g sl = .next s3 → step s = .next
          (if hasIssued d c g s2 s3 = true then if behind then s2 else rankGroup t x d c g sl p s3
           else passBoundary s3 d c g p others)) ∧
        (ready → ¬ behind → ∀ t2 x2 i s3, s2.team? d c = some t2 → s2.group? d c g = some x2 → laneReady t2 x2 sl = true →
          (x2.slot sl).word < (t2.frameOf x2).blockLen (x2.slot sl).block →
          Sys2Proof.decodeLane t2.vregs (t2.fb.get 0 (t2.fbIndex x2 (x2.slot sl).block (x2.slot sl).word)) = .ok i →
          t2.bad = [] → scoreboard t2 g x2 sl i = false → exec i s2 = .next s3 → step s = .next
            (if hasIssued d c g s2 s3 = true then rankGroup t x d c g sl p s3 else passBoundary s3 d c g p others))) ∧
    (∀ v d c g sl t x, v.cur = .lane d c g sl → v.team? d c = some t → v.group? d c g = some x →
      let at_ := t.fbIndex x (x.slot sl).block (x.slot sl).word
      let w := t.fb.get 0 at_
      let inside := laneReady t x sl = true ∧ (x.slot sl).word < (t.frameOf x).blockLen (x.slot sl).block
      let ue (access : Nat) (mask : BitVec 32) := Host.Outcome.next (φ := Sys2Proof.Machine.Fault) (ρ := Sys2Proof.Machine.Refusal)
        (takeLaneFault (reportUe v d) d c g sl { code := Code.UE, access := access, mask := mask })
      (laneReady t x sl = false → runSlot v d c g sl = .next v) ∧
      (laneReady t x sl = true → (t.frameOf x).blockLen (x.slot sl).block ≤ (x.slot sl).word →
        runSlot v d c g sl = .next (takeLaneFault v d c g sl { code := Code.BADTARGET })) ∧
      (inside → Ram.fb at_ ∈ t.bad → runSlot v d c g sl = ue 0x63B 0) ∧
      (inside → Ram.fb at_ ∉ t.bad → ∀ n, Sys2Proof.decodeLane t.vregs w = .error (.illop n) →
        runSlot v d c g sl = .next (takeLaneFault v d c g sl { code := Code.ILLOP, access := n })) ∧
      (inside → Ram.fb at_ ∉ t.bad → ∀ i, Sys2Proof.decodeLane t.vregs w = .ok i →
        (t.bad = [] → scoreboard t g x sl i = false → runSlot v d c g sl = exec i v) ∧
        (badReads t g x i sl = 0 → scoreboard t g x sl i = false → ∀ s2, exec i v = .next s2 →
          runSlot v d c g sl = .next (replacedWords t x d c g sl i s2)) ∧
        (badReads t g x i sl = 0 → scoreboard t g x sl i = true → runSlot v d c g sl = .next v) ∧
        (badReads t g x i sl ≠ 0 → x.accessing = false → ((resReads i).isSome && residueBusy t g) = false →
          runSlot v d c g sl = ue 0x42A (badReads t g x i sl)))) ∧
    (∀ n, s.agenda = .clock n :: rest → step s = .next (passTime { s with agenda := rest } n)) ∧
    (∀ d i, s.agenda = .service d i :: rest → step s = exec i { s with agenda := rest, cur := .service d }) ∧
    (∀ d i j, s.agenda = .choice d i j :: rest → step s = exec i { s with agenda := rest, cur := .service d, pick := j })

/-- The memories' canonical form, the package's three dies and the fixed tables of a team (R153, R168, R315). -/
def Obligations.StepKeepsInvariant : Prop :=
  ∀ s s' : Sys2Proof.Machine.State, s.Inv → step s = .next s' → s'.Inv

/-- Encoder and decoder agree on every well-formed instruction. -/
def Obligations.DecodeEncode : Prop :=
  ∀ i : Sys2Proof.Instr, Sys2Proof.wellFormed i = true →
    ∃ n w, Sys2Proof.encode i = some (n, w) ∧ Sys2Proof.decodeTableWord n w = some i

/-- The words of the spec's examples. -/
def Obligations.DecodedWords : Prop :=
  let comp (w : Nat) (i : Sys2Proof.Instr) := Sys2Proof.decodeTableWord 32 w = some i
  let lane (w : Nat) (i : Sys2Proof.Instr) := Sys2Proof.decodeTableWord 64 w = some i
  comp 0x04A3_FFFC (.cAddi 5 3 0xFFFC) ∧ comp 0x2843_02D8 (.cInsf 2 3 11 24) ∧ comp 0x4082_CFF0 (.cLd 4 2 3 0 0xFF0) ∧
  comp 0x4885_34F6 (.cAmo 4 5 6 2 0 3 3 3) ∧ comp 0x4C00_0036 (.cFence 3 3) ∧ comp 0xCC04_31C0 (.cEmitr 4 6 7) ∧
  comp 0xD812_5000 (.cRun 18 10) ∧
  lane 0x0005_0586_0000_0030 (.lIadd { dst := 10, sa := 11, sb := 12, fmt := 0x01, qual := 0x10 }) ∧
  lane 0x4304_0101_D420_4200 (.lFfma { dst := 8, sa := 2, sb := 3, sc := 8, mod := 0xA84, fmt := 0x10 }) ∧
  lane 0x8104_0000_0000_0007 (.lMovi { dst := 4, imm := 7 }) ∧
  lane 0x710A_0200_0000_1263 (.lCvtn { dst := 20, sa := 4, sc := 2, fmt := 0x13, qual := 3 }) ∧
  lane 0x9005_0826_0004_0EA5 (.lLd .x1 { data := 5, base := 2, ofs := 9, scl := 2, imm := 64, szf := 0x3A, mode := 0x25 }) ∧
  lane 0x9808_180A_0001_0E90 (.lLds .x1 { data := 8, base := 6, ofs := 2, scl := 2, imm := 16, szf := 0x3A, mode := 0x10 }) ∧
  lane 0xA106_040E_0400_0007 (.lAtom { data := 6, base := 1, ofs := 3, scl := 2, imm := 0x4000, mode := 7 }) ∧
  lane 0xD010_CA12_0000_4800 (.lMma { ra := 16, rb := 202, tr := 1, tc := 2, fmt := 0x12 }) ∧
  lane 0xD110_CA00_0004_8428 (.lMloop { ra := 16, rb := 202, cnt := 4, fmt := 0x21, xq := 0x028 }) ∧
  lane 0xD728_0000_3020_0000 (.lScfeed { ra := 40, bat := 3, cnt := 32 }) ∧
  lane 0xD600_CC00_0000_4CD0 (.lAst { rb := 204, fmt := 0x13, xq := 0x0D0 }) ∧
  lane 0xD400_0010_0000_0000 (.lAclr { tr := 1 }) ∧
  lane 0xE000_D000_2000_0100 (.lCpy { rb := 208, bat := 2, xq := 0x100 }) ∧
  lane 0xE3DE_E000_0000_0002 (.lCtrig { ra := 222, rb := 224, xq := 2 }) ∧
  lane 0xC407_0000_4000_0000 (.lIf { cond := 7, t1 := 4 }) ∧
  lane 0x8303_0165_0000_4800 (.lShfl { dst := 6, sa := 2, sb := 202, sc := 9 }) ∧
  lane 0x740A_0465_8000_0420 (.lQz { dst := 20, sa := 8, sb := 203, fmt := 0x21 }) ∧
  lane 0x730C_0A65_8001_0A00 (.lDq { dst := 24, sa := 20, sb := 203, sc := 0x21, fmt := 0x10 }) ∧
  lane 0xEB6F_0000_0000_4000 (.lRds { dst := 222, sc := 8 }) ∧
  lane 0xEC00_6280_0000_4800 (.lWrs { sa := 197, sc := 9 })
end

