-- ==== Sys2Proof/Laws/Coding.lean ====
section
/-! SUPPORT. The fields that the decoder reads from the words that the encoder builds. -/

namespace Sys2Proof

open Decode Encode

/-- Bits of a word built from a high and a low part, all in the low part. -/
theorem extract_append_low {n m : Nat} (x : BitVec n) (y : BitVec m) (s l : Nat) (h : s + l ≤ m) :
    (x ++ y).extractLsb' s l = y.extractLsb' s l := by
  ext i hi
  simp only [BitVec.getElem_extractLsb', BitVec.getLsbD_append]
  have : s + i < m := by omega
  simp [this]

/-- Bits of a word built from a high and a low part, all in the high part. -/
theorem extract_append_high {n m : Nat} (x : BitVec n) (y : BitVec m) (s l : Nat) (h : m ≤ s) :
    (x ++ y).extractLsb' s l = x.extractLsb' (s - m) l := by
  ext i hi
  simp only [BitVec.getElem_extractLsb', BitVec.getLsbD_append]
  have h1 : ¬ (s + i < m) := by omega
  have h2 : s + i - m = s - m + i := by omega
  simp [h1, h2]

/-- All bits of a vector. -/
theorem extract_all {n : Nat} (x : BitVec n) : x.extractLsb' 0 n = x := by
  ext i hi
  simp

theorem cMajor_cr (op : BitVec 6) (d a b : BitVec 5) (fn : BitVec 11) : cMajor (cr op d a b fn) = op :=
  (extract_append_high (op ++ d ++ a ++ b) fn 26 6 (by decide)).trans <|
    (extract_append_high (op ++ d ++ a) b 15 6 (by decide)).trans <|
    (extract_append_high (op ++ d) a 10 6 (by decide)).trans <|
    (extract_append_high (op) d 5 6 (by decide)).trans <|
    (extract_all op)

theorem cD_cr (op : BitVec 6) (d a b : BitVec 5) (fn : BitVec 11) : cD (cr op d a b fn) = d :=
  (extract_append_high (op ++ d ++ a ++ b) fn 21 5 (by decide)).trans <|
    (extract_append_high (op ++ d ++ a) b 10 5 (by decide)).trans <|
    (extract_append_high (op ++ d) a 5 5 (by decide)).trans <|
    (extract_append_low (op) d 0 5 (by decide)).trans <|
    (extract_all d)

theorem cA_cr (op : BitVec 6) (d a b : BitVec 5) (fn : BitVec 11) : cA (cr op d a b fn) = a :=
  (extract_append_high (op ++ d ++ a ++ b) fn 16 5 (by decide)).trans <|
    (extract_append_high (op ++ d ++ a) b 5 5 (by decide)).trans <|
    (extract_append_low (op ++ d) a 0 5 (by decide)).trans <|
    (extract_all a)

theorem cB_cr (op : BitVec 6) (d a b : BitVec 5) (fn : BitVec 11) : cB (cr op d a b fn) = b :=
  (extract_append_high (op ++ d ++ a ++ b) fn 11 5 (by decide)).trans <|
    (extract_append_low (op ++ d ++ a) b 0 5 (by decide)).trans <|
    (extract_all b)

theorem cFn_cr (op : BitVec 6) (d a b : BitVec 5) (fn : BitVec 11) : cFn (cr op d a b fn) = fn :=
  (extract_append_low (op ++ d ++ a ++ b) fn 0 11 (by decide)).trans <|
    (extract_all fn)

theorem cMajor_ci (op : BitVec 6) (d a : BitVec 5) (imm : BitVec 16) : cMajor (ci op d a imm) = op :=
  (extract_append_high (op ++ d ++ a) imm 26 6 (by decide)).trans <|
    (extract_append_high (op ++ d) a 10 6 (by decide)).trans <|
    (extract_append_high (op) d 5 6 (by decide)).trans <|
    (extract_all op)

theorem cD_ci (op : BitVec 6) (d a : BitVec 5) (imm : BitVec 16) : cD (ci op d a imm) = d :=
  (extract_append_high (op ++ d ++ a) imm 21 5 (by decide)).trans <|
    (extract_append_high (op ++ d) a 5 5 (by decide)).trans <|
    (extract_append_low (op) d 0 5 (by decide)).trans <|
    (extract_all d)

theorem cA_ci (op : BitVec 6) (d a : BitVec 5) (imm : BitVec 16) : cA (ci op d a imm) = a :=
  (extract_append_high (op ++ d ++ a) imm 16 5 (by decide)).trans <|
    (extract_append_low (op ++ d) a 0 5 (by decide)).trans <|
    (extract_all a)

theorem cImm_ci (op : BitVec 6) (d a : BitVec 5) (imm : BitVec 16) : cImm (ci op d a imm) = imm :=
  (extract_append_low (op ++ d ++ a) imm 0 16 (by decide)).trans <|
    (extract_all imm)

theorem cMajor_cj (op : BitVec 6) (d : BitVec 5) (off : BitVec 21) : cMajor (cj op d off) = op :=
  (extract_append_high (op ++ d) off 26 6 (by decide)).trans <|
    (extract_append_high (op) d 5 6 (by decide)).trans <|
    (extract_all op)

theorem cD_cj (op : BitVec 6) (d : BitVec 5) (off : BitVec 21) : cD (cj op d off) = d :=
  (extract_append_high (op ++ d) off 21 5 (by decide)).trans <|
    (extract_append_low (op) d 0 5 (by decide)).trans <|
    (extract_all d)

theorem cOff21_cj (op : BitVec 6) (d : BitVec 5) (off : BitVec 21) : cOff21 (cj op d off) = off :=
  (extract_append_low (op ++ d) off 0 21 (by decide)).trans <|
    (extract_all off)

theorem v_op (op : BitVec 8) (o : VOps) : (Encode.v op o).extractLsb' 56 8 = op :=
  (extract_append_high (op ++ o.keepa ++ o.dst ++ o.sa ++ o.sb ++ o.mod ++ o.sc ++ o.fmt) o.qual 56 8 (by decide)).trans <|
    (extract_append_high (op ++ o.keepa ++ o.dst ++ o.sa ++ o.sb ++ o.mod ++ o.sc) o.fmt 51 8 (by decide)).trans <|
    (extract_append_high (op ++ o.keepa ++ o.dst ++ o.sa ++ o.sb ++ o.mod) o.sc 45 8 (by decide)).trans <|
    (extract_append_high (op ++ o.keepa ++ o.dst ++ o.sa ++ o.sb) o.mod 37 8 (by decide)).trans <|
    (extract_append_high (op ++ o.keepa ++ o.dst ++ o.sa) o.sb 25 8 (by decide)).trans <|
    (extract_append_high (op ++ o.keepa ++ o.dst) o.sa 17 8 (by decide)).trans <|
    (extract_append_high (op ++ o.keepa) o.dst 9 8 (by decide)).trans <|
    (extract_append_high (op) o.keepa 1 8 (by decide)).trans <|
    (extract_all op)

theorem v_keepa (op : BitVec 8) (o : VOps) : (Encode.v op o).extractLsb' 55 1 = o.keepa :=
  (extract_append_high (op ++ o.keepa ++ o.dst ++ o.sa ++ o.sb ++ o.mod ++ o.sc ++ o.fmt) o.qual 55 1 (by decide)).trans <|
    (extract_append_high (op ++ o.keepa ++ o.dst ++ o.sa ++ o.sb ++ o.mod ++ o.sc) o.fmt 50 1 (by decide)).trans <|
    (extract_append_high (op ++ o.keepa ++ o.dst ++ o.sa ++ o.sb ++ o.mod) o.sc 44 1 (by decide)).trans <|
    (extract_append_high (op ++ o.keepa ++ o.dst ++ o.sa ++ o.sb) o.mod 36 1 (by decide)).trans <|
    (extract_append_high (op ++ o.keepa ++ o.dst ++ o.sa) o.sb 24 1 (by decide)).trans <|
    (extract_append_high (op ++ o.keepa ++ o.dst) o.sa 16 1 (by decide)).trans <|
    (extract_append_high (op ++ o.keepa) o.dst 8 1 (by decide)).trans <|
    (extract_append_low (op) o.keepa 0 1 (by decide)).trans <|
    (extract_all o.keepa)

theorem v_dst (op : BitVec 8) (o : VOps) : (Encode.v op o).extractLsb' 47 8 = o.dst :=
  (extract_append_high (op ++ o.keepa ++ o.dst ++ o.sa ++ o.sb ++ o.mod ++ o.sc ++ o.fmt) o.qual 47 8 (by decide)).trans <|
    (extract_append_high (op ++ o.keepa ++ o.dst ++ o.sa ++ o.sb ++ o.mod ++ o.sc) o.fmt 42 8 (by decide)).trans <|
    (extract_append_high (op ++ o.keepa ++ o.dst ++ o.sa ++ o.sb ++ o.mod) o.sc 36 8 (by decide)).trans <|
    (extract_append_high (op ++ o.keepa ++ o.dst ++ o.sa ++ o.sb) o.mod 28 8 (by decide)).trans <|
    (extract_append_high (op ++ o.keepa ++ o.dst ++ o.sa) o.sb 16 8 (by decide)).trans <|
    (extract_append_high (op ++ o.keepa ++ o.dst) o.sa 8 8 (by decide)).trans <|
    (extract_append_low (op ++ o.keepa) o.dst 0 8 (by decide)).trans <|
    (extract_all o.dst)

theorem v_sa (op : BitVec 8) (o : VOps) : (Encode.v op o).extractLsb' 39 8 = o.sa :=
  (extract_append_high (op ++ o.keepa ++ o.dst ++ o.sa ++ o.sb ++ o.mod ++ o.sc ++ o.fmt) o.qual 39 8 (by decide)).trans <|
    (extract_append_high (op ++ o.keepa ++ o.dst ++ o.sa ++ o.sb ++ o.mod ++ o.sc) o.fmt 34 8 (by decide)).trans <|
    (extract_append_high (op ++ o.keepa ++ o.dst ++ o.sa ++ o.sb ++ o.mod) o.sc 28 8 (by decide)).trans <|
    (extract_append_high (op ++ o.keepa ++ o.dst ++ o.sa ++ o.sb) o.mod 20 8 (by decide)).trans <|
    (extract_append_high (op ++ o.keepa ++ o.dst ++ o.sa) o.sb 8 8 (by decide)).trans <|
    (extract_append_low (op ++ o.keepa ++ o.dst) o.sa 0 8 (by decide)).trans <|
    (extract_all o.sa)

theorem v_sb (op : BitVec 8) (o : VOps) : (Encode.v op o).extractLsb' 31 8 = o.sb :=
  (extract_append_high (op ++ o.keepa ++ o.dst ++ o.sa ++ o.sb ++ o.mod ++ o.sc ++ o.fmt) o.qual 31 8 (by decide)).trans <|
    (extract_append_high (op ++ o.keepa ++ o.dst ++ o.sa ++ o.sb ++ o.mod ++ o.sc) o.fmt 26 8 (by decide)).trans <|
    (extract_append_high (op ++ o.keepa ++ o.dst ++ o.sa ++ o.sb ++ o.mod) o.sc 20 8 (by decide)).trans <|
    (extract_append_high (op ++ o.keepa ++ o.dst ++ o.sa ++ o.sb) o.mod 12 8 (by decide)).trans <|
    (extract_append_low (op ++ o.keepa ++ o.dst ++ o.sa) o.sb 0 8 (by decide)).trans <|
    (extract_all o.sb)

theorem v_mod (op : BitVec 8) (o : VOps) : (Encode.v op o).extractLsb' 19 12 = o.mod :=
  (extract_append_high (op ++ o.keepa ++ o.dst ++ o.sa ++ o.sb ++ o.mod ++ o.sc ++ o.fmt) o.qual 19 12 (by decide)).trans <|
    (extract_append_high (op ++ o.keepa ++ o.dst ++ o.sa ++ o.sb ++ o.mod ++ o.sc) o.fmt 14 12 (by decide)).trans <|
    (extract_append_high (op ++ o.keepa ++ o.dst ++ o.sa ++ o.sb ++ o.mod) o.sc 8 12 (by decide)).trans <|
    (extract_append_low (op ++ o.keepa ++ o.dst ++ o.sa ++ o.sb) o.mod 0 12 (by decide)).trans <|
    (extract_all o.mod)

theorem v_sc (op : BitVec 8) (o : VOps) : (Encode.v op o).extractLsb' 11 8 = o.sc :=
  (extract_append_high (op ++ o.keepa ++ o.dst ++ o.sa ++ o.sb ++ o.mod ++ o.sc ++ o.fmt) o.qual 11 8 (by decide)).trans <|
    (extract_append_high (op ++ o.keepa ++ o.dst ++ o.sa ++ o.sb ++ o.mod ++ o.sc) o.fmt 6 8 (by decide)).trans <|
    (extract_append_low (op ++ o.keepa ++ o.dst ++ o.sa ++ o.sb ++ o.mod) o.sc 0 8 (by decide)).trans <|
    (extract_all o.sc)

theorem v_fmt (op : BitVec 8) (o : VOps) : (Encode.v op o).extractLsb' 5 6 = o.fmt :=
  (extract_append_high (op ++ o.keepa ++ o.dst ++ o.sa ++ o.sb ++ o.mod ++ o.sc ++ o.fmt) o.qual 5 6 (by decide)).trans <|
    (extract_append_low (op ++ o.keepa ++ o.dst ++ o.sa ++ o.sb ++ o.mod ++ o.sc) o.fmt 0 6 (by decide)).trans <|
    (extract_all o.fmt)

theorem v_qual (op : BitVec 8) (o : VOps) : (Encode.v op o).extractLsb' 0 5 = o.qual :=
  (extract_append_low (op ++ o.keepa ++ o.dst ++ o.sa ++ o.sb ++ o.mod ++ o.sc ++ o.fmt) o.qual 0 5 (by decide)).trans <|
    (extract_all o.qual)

theorem opc_v (op : BitVec 8) (o : VOps) : opc (Encode.v op o) = op := v_op op o

theorem vOps_v (op : BitVec 8) (o : VOps) : vOps (Encode.v op o) = o := by
  cases o
  simp only [vOps, v_keepa, v_dst, v_sa, v_sb, v_mod, v_sc, v_fmt, v_qual]

theorem i_op (op : BitVec 8) (o : IOps) : (Encode.i op o).extractLsb' 56 8 = op :=
  (extract_append_high (op ++ o.dst ++ (0 : BitVec 16)) o.imm 56 8 (by decide)).trans <|
    (extract_append_high (op ++ o.dst) (0 : BitVec 16) 24 8 (by decide)).trans <|
    (extract_append_high (op) o.dst 8 8 (by decide)).trans <|
    (extract_all op)

theorem i_dst (op : BitVec 8) (o : IOps) : (Encode.i op o).extractLsb' 48 8 = o.dst :=
  (extract_append_high (op ++ o.dst ++ (0 : BitVec 16)) o.imm 48 8 (by decide)).trans <|
    (extract_append_high (op ++ o.dst) (0 : BitVec 16) 16 8 (by decide)).trans <|
    (extract_append_low (op) o.dst 0 8 (by decide)).trans <|
    (extract_all o.dst)

theorem i_zero (op : BitVec 8) (o : IOps) : (Encode.i op o).extractLsb' 32 16 = (0 : BitVec 16) :=
  (extract_append_high (op ++ o.dst ++ (0 : BitVec 16)) o.imm 32 16 (by decide)).trans <|
    (extract_append_low (op ++ o.dst) (0 : BitVec 16) 0 16 (by decide)).trans <|
    (extract_all (0 : BitVec 16))

theorem i_imm (op : BitVec 8) (o : IOps) : (Encode.i op o).extractLsb' 0 32 = o.imm :=
  (extract_append_low (op ++ o.dst ++ (0 : BitVec 16)) o.imm 0 32 (by decide)).trans <|
    (extract_all o.imm)

theorem opc_i (op : BitVec 8) (o : IOps) : opc (Encode.i op o) = op := i_op op o

theorem iOps_i (op : BitVec 8) (o : IOps) : iOps (Encode.i op o) = o := by
  cases o
  simp only [iOps, i_dst, i_imm]

theorem m_op (op : BitVec 8) (o : MOps) : (Encode.m op o).extractLsb' 56 8 = op :=
  (extract_append_high (op ++ o.data ++ o.base ++ o.ofs ++ o.scl ++ o.imm ++ o.szf) o.mode 56 8 (by decide)).trans <|
    (extract_append_high (op ++ o.data ++ o.base ++ o.ofs ++ o.scl ++ o.imm) o.szf 50 8 (by decide)).trans <|
    (extract_append_high (op ++ o.data ++ o.base ++ o.ofs ++ o.scl) o.imm 44 8 (by decide)).trans <|
    (extract_append_high (op ++ o.data ++ o.base ++ o.ofs) o.scl 24 8 (by decide)).trans <|
    (extract_append_high (op ++ o.data ++ o.base) o.ofs 22 8 (by decide)).trans <|
    (extract_append_high (op ++ o.data) o.base 14 8 (by decide)).trans <|
    (extract_append_high (op) o.data 8 8 (by decide)).trans <|
    (extract_all op)

theorem m_data (op : BitVec 8) (o : MOps) : (Encode.m op o).extractLsb' 48 8 = o.data :=
  (extract_append_high (op ++ o.data ++ o.base ++ o.ofs ++ o.scl ++ o.imm ++ o.szf) o.mode 48 8 (by decide)).trans <|
    (extract_append_high (op ++ o.data ++ o.base ++ o.ofs ++ o.scl ++ o.imm) o.szf 42 8 (by decide)).trans <|
    (extract_append_high (op ++ o.data ++ o.base ++ o.ofs ++ o.scl) o.imm 36 8 (by decide)).trans <|
    (extract_append_high (op ++ o.data ++ o.base ++ o.ofs) o.scl 16 8 (by decide)).trans <|
    (extract_append_high (op ++ o.data ++ o.base) o.ofs 14 8 (by decide)).trans <|
    (extract_append_high (op ++ o.data) o.base 6 8 (by decide)).trans <|
    (extract_append_low (op) o.data 0 8 (by decide)).trans <|
    (extract_all o.data)

theorem m_base (op : BitVec 8) (o : MOps) : (Encode.m op o).extractLsb' 42 6 = o.base :=
  (extract_append_high (op ++ o.data ++ o.base ++ o.ofs ++ o.scl ++ o.imm ++ o.szf) o.mode 42 6 (by decide)).trans <|
    (extract_append_high (op ++ o.data ++ o.base ++ o.ofs ++ o.scl ++ o.imm) o.szf 36 6 (by decide)).trans <|
    (extract_append_high (op ++ o.data ++ o.base ++ o.ofs ++ o.scl) o.imm 30 6 (by decide)).trans <|
    (extract_append_high (op ++ o.data ++ o.base ++ o.ofs) o.scl 10 6 (by decide)).trans <|
    (extract_append_high (op ++ o.data ++ o.base) o.ofs 8 6 (by decide)).trans <|
    (extract_append_low (op ++ o.data) o.base 0 6 (by decide)).trans <|
    (extract_all o.base)

theorem m_ofs (op : BitVec 8) (o : MOps) : (Encode.m op o).extractLsb' 34 8 = o.ofs :=
  (extract_append_high (op ++ o.data ++ o.base ++ o.ofs ++ o.scl ++ o.imm ++ o.szf) o.mode 34 8 (by decide)).trans <|
    (extract_append_high (op ++ o.data ++ o.base ++ o.ofs ++ o.scl ++ o.imm) o.szf 28 8 (by decide)).trans <|
    (extract_append_high (op ++ o.data ++ o.base ++ o.ofs ++ o.scl) o.imm 22 8 (by decide)).trans <|
    (extract_append_high (op ++ o.data ++ o.base ++ o.ofs) o.scl 2 8 (by decide)).trans <|
    (extract_append_low (op ++ o.data ++ o.base) o.ofs 0 8 (by decide)).trans <|
    (extract_all o.ofs)

theorem m_scl (op : BitVec 8) (o : MOps) : (Encode.m op o).extractLsb' 32 2 = o.scl :=
  (extract_append_high (op ++ o.data ++ o.base ++ o.ofs ++ o.scl ++ o.imm ++ o.szf) o.mode 32 2 (by decide)).trans <|
    (extract_append_high (op ++ o.data ++ o.base ++ o.ofs ++ o.scl ++ o.imm) o.szf 26 2 (by decide)).trans <|
    (extract_append_high (op ++ o.data ++ o.base ++ o.ofs ++ o.scl) o.imm 20 2 (by decide)).trans <|
    (extract_append_low (op ++ o.data ++ o.base ++ o.ofs) o.scl 0 2 (by decide)).trans <|
    (extract_all o.scl)

theorem m_imm (op : BitVec 8) (o : MOps) : (Encode.m op o).extractLsb' 12 20 = o.imm :=
  (extract_append_high (op ++ o.data ++ o.base ++ o.ofs ++ o.scl ++ o.imm ++ o.szf) o.mode 12 20 (by decide)).trans <|
    (extract_append_high (op ++ o.data ++ o.base ++ o.ofs ++ o.scl ++ o.imm) o.szf 6 20 (by decide)).trans <|
    (extract_append_low (op ++ o.data ++ o.base ++ o.ofs ++ o.scl) o.imm 0 20 (by decide)).trans <|
    (extract_all o.imm)

theorem m_szf (op : BitVec 8) (o : MOps) : (Encode.m op o).extractLsb' 6 6 = o.szf :=
  (extract_append_high (op ++ o.data ++ o.base ++ o.ofs ++ o.scl ++ o.imm ++ o.szf) o.mode 6 6 (by decide)).trans <|
    (extract_append_low (op ++ o.data ++ o.base ++ o.ofs ++ o.scl ++ o.imm) o.szf 0 6 (by decide)).trans <|
    (extract_all o.szf)

theorem m_mode (op : BitVec 8) (o : MOps) : (Encode.m op o).extractLsb' 0 6 = o.mode :=
  (extract_append_low (op ++ o.data ++ o.base ++ o.ofs ++ o.scl ++ o.imm ++ o.szf) o.mode 0 6 (by decide)).trans <|
    (extract_all o.mode)

theorem opc_m (op : BitVec 8) (o : MOps) : opc (Encode.m op o) = op := m_op op o

theorem mOps_m (op : BitVec 8) (o : MOps) : mOps (Encode.m op o) = o := by
  cases o
  simp only [mOps, m_data, m_base, m_ofs, m_scl, m_imm, m_szf, m_mode]

theorem x_op (op : BitVec 8) (o : XOps) : (Encode.x op o).extractLsb' 56 8 = op :=
  (extract_append_high (op ++ o.ra ++ o.rb ++ o.tr ++ o.tc ++ o.bat ++ o.cnt ++ o.fmt) o.xq 56 8 (by decide)).trans <|
    (extract_append_high (op ++ o.ra ++ o.rb ++ o.tr ++ o.tc ++ o.bat ++ o.cnt) o.fmt 46 8 (by decide)).trans <|
    (extract_append_high (op ++ o.ra ++ o.rb ++ o.tr ++ o.tc ++ o.bat) o.cnt 40 8 (by decide)).trans <|
    (extract_append_high (op ++ o.ra ++ o.rb ++ o.tr ++ o.tc) o.bat 28 8 (by decide)).trans <|
    (extract_append_high (op ++ o.ra ++ o.rb ++ o.tr) o.tc 24 8 (by decide)).trans <|
    (extract_append_high (op ++ o.ra ++ o.rb) o.tr 20 8 (by decide)).trans <|
    (extract_append_high (op ++ o.ra) o.rb 16 8 (by decide)).trans <|
    (extract_append_high (op) o.ra 8 8 (by decide)).trans <|
    (extract_all op)

theorem x_ra (op : BitVec 8) (o : XOps) : (Encode.x op o).extractLsb' 48 8 = o.ra :=
  (extract_append_high (op ++ o.ra ++ o.rb ++ o.tr ++ o.tc ++ o.bat ++ o.cnt ++ o.fmt) o.xq 48 8 (by decide)).trans <|
    (extract_append_high (op ++ o.ra ++ o.rb ++ o.tr ++ o.tc ++ o.bat ++ o.cnt) o.fmt 38 8 (by decide)).trans <|
    (extract_append_high (op ++ o.ra ++ o.rb ++ o.tr ++ o.tc ++ o.bat) o.cnt 32 8 (by decide)).trans <|
    (extract_append_high (op ++ o.ra ++ o.rb ++ o.tr ++ o.tc) o.bat 20 8 (by decide)).trans <|
    (extract_append_high (op ++ o.ra ++ o.rb ++ o.tr) o.tc 16 8 (by decide)).trans <|
    (extract_append_high (op ++ o.ra ++ o.rb) o.tr 12 8 (by decide)).trans <|
    (extract_append_high (op ++ o.ra) o.rb 8 8 (by decide)).trans <|
    (extract_append_low (op) o.ra 0 8 (by decide)).trans <|
    (extract_all o.ra)

theorem x_rb (op : BitVec 8) (o : XOps) : (Encode.x op o).extractLsb' 40 8 = o.rb :=
  (extract_append_high (op ++ o.ra ++ o.rb ++ o.tr ++ o.tc ++ o.bat ++ o.cnt ++ o.fmt) o.xq 40 8 (by decide)).trans <|
    (extract_append_high (op ++ o.ra ++ o.rb ++ o.tr ++ o.tc ++ o.bat ++ o.cnt) o.fmt 30 8 (by decide)).trans <|
    (extract_append_high (op ++ o.ra ++ o.rb ++ o.tr ++ o.tc ++ o.bat) o.cnt 24 8 (by decide)).trans <|
    (extract_append_high (op ++ o.ra ++ o.rb ++ o.tr ++ o.tc) o.bat 12 8 (by decide)).trans <|
    (extract_append_high (op ++ o.ra ++ o.rb ++ o.tr) o.tc 8 8 (by decide)).trans <|
    (extract_append_high (op ++ o.ra ++ o.rb) o.tr 4 8 (by decide)).trans <|
    (extract_append_low (op ++ o.ra) o.rb 0 8 (by decide)).trans <|
    (extract_all o.rb)

theorem x_tr (op : BitVec 8) (o : XOps) : (Encode.x op o).extractLsb' 36 4 = o.tr :=
  (extract_append_high (op ++ o.ra ++ o.rb ++ o.tr ++ o.tc ++ o.bat ++ o.cnt ++ o.fmt) o.xq 36 4 (by decide)).trans <|
    (extract_append_high (op ++ o.ra ++ o.rb ++ o.tr ++ o.tc ++ o.bat ++ o.cnt) o.fmt 26 4 (by decide)).trans <|
    (extract_append_high (op ++ o.ra ++ o.rb ++ o.tr ++ o.tc ++ o.bat) o.cnt 20 4 (by decide)).trans <|
    (extract_append_high (op ++ o.ra ++ o.rb ++ o.tr ++ o.tc) o.bat 8 4 (by decide)).trans <|
    (extract_append_high (op ++ o.ra ++ o.rb ++ o.tr) o.tc 4 4 (by decide)).trans <|
    (extract_append_low (op ++ o.ra ++ o.rb) o.tr 0 4 (by decide)).trans <|
    (extract_all o.tr)

theorem x_tc (op : BitVec 8) (o : XOps) : (Encode.x op o).extractLsb' 32 4 = o.tc :=
  (extract_append_high (op ++ o.ra ++ o.rb ++ o.tr ++ o.tc ++ o.bat ++ o.cnt ++ o.fmt) o.xq 32 4 (by decide)).trans <|
    (extract_append_high (op ++ o.ra ++ o.rb ++ o.tr ++ o.tc ++ o.bat ++ o.cnt) o.fmt 22 4 (by decide)).trans <|
    (extract_append_high (op ++ o.ra ++ o.rb ++ o.tr ++ o.tc ++ o.bat) o.cnt 16 4 (by decide)).trans <|
    (extract_append_high (op ++ o.ra ++ o.rb ++ o.tr ++ o.tc) o.bat 4 4 (by decide)).trans <|
    (extract_append_low (op ++ o.ra ++ o.rb ++ o.tr) o.tc 0 4 (by decide)).trans <|
    (extract_all o.tc)

theorem x_bat (op : BitVec 8) (o : XOps) : (Encode.x op o).extractLsb' 28 4 = o.bat :=
  (extract_append_high (op ++ o.ra ++ o.rb ++ o.tr ++ o.tc ++ o.bat ++ o.cnt ++ o.fmt) o.xq 28 4 (by decide)).trans <|
    (extract_append_high (op ++ o.ra ++ o.rb ++ o.tr ++ o.tc ++ o.bat ++ o.cnt) o.fmt 18 4 (by decide)).trans <|
    (extract_append_high (op ++ o.ra ++ o.rb ++ o.tr ++ o.tc ++ o.bat) o.cnt 12 4 (by decide)).trans <|
    (extract_append_low (op ++ o.ra ++ o.rb ++ o.tr ++ o.tc) o.bat 0 4 (by decide)).trans <|
    (extract_all o.bat)

theorem x_cnt (op : BitVec 8) (o : XOps) : (Encode.x op o).extractLsb' 16 12 = o.cnt :=
  (extract_append_high (op ++ o.ra ++ o.rb ++ o.tr ++ o.tc ++ o.bat ++ o.cnt ++ o.fmt) o.xq 16 12 (by decide)).trans <|
    (extract_append_high (op ++ o.ra ++ o.rb ++ o.tr ++ o.tc ++ o.bat ++ o.cnt) o.fmt 6 12 (by decide)).trans <|
    (extract_append_low (op ++ o.ra ++ o.rb ++ o.tr ++ o.tc ++ o.bat) o.cnt 0 12 (by decide)).trans <|
    (extract_all o.cnt)

theorem x_fmt (op : BitVec 8) (o : XOps) : (Encode.x op o).extractLsb' 10 6 = o.fmt :=
  (extract_append_high (op ++ o.ra ++ o.rb ++ o.tr ++ o.tc ++ o.bat ++ o.cnt ++ o.fmt) o.xq 10 6 (by decide)).trans <|
    (extract_append_low (op ++ o.ra ++ o.rb ++ o.tr ++ o.tc ++ o.bat ++ o.cnt) o.fmt 0 6 (by decide)).trans <|
    (extract_all o.fmt)

theorem x_xq (op : BitVec 8) (o : XOps) : (Encode.x op o).extractLsb' 0 10 = o.xq :=
  (extract_append_low (op ++ o.ra ++ o.rb ++ o.tr ++ o.tc ++ o.bat ++ o.cnt ++ o.fmt) o.xq 0 10 (by decide)).trans <|
    (extract_all o.xq)

theorem opc_x (op : BitVec 8) (o : XOps) : opc (Encode.x op o) = op := x_op op o

theorem xOps_x (op : BitVec 8) (o : XOps) : xOps (Encode.x op o) = o := by
  cases o
  simp only [xOps, x_ra, x_rb, x_tr, x_tc, x_bat, x_cnt, x_fmt, x_xq]

theorem c_op (op : BitVec 8) (o : COps) : (Encode.c op o).extractLsb' 56 8 = op :=
  (extract_append_high (op ++ o.cond ++ o.link ++ o.t1 ++ o.t2 ++ o.k ++ (0 : BitVec 7)) o.neg 56 8 (by decide)).trans <|
    (extract_append_high (op ++ o.cond ++ o.link ++ o.t1 ++ o.t2 ++ o.k) (0 : BitVec 7) 55 8 (by decide)).trans <|
    (extract_append_high (op ++ o.cond ++ o.link ++ o.t1 ++ o.t2) o.k 48 8 (by decide)).trans <|
    (extract_append_high (op ++ o.cond ++ o.link ++ o.t1) o.t2 40 8 (by decide)).trans <|
    (extract_append_high (op ++ o.cond ++ o.link) o.t1 28 8 (by decide)).trans <|
    (extract_append_high (op ++ o.cond) o.link 16 8 (by decide)).trans <|
    (extract_append_high (op) o.cond 8 8 (by decide)).trans <|
    (extract_all op)

theorem c_cond (op : BitVec 8) (o : COps) : (Encode.c op o).extractLsb' 48 8 = o.cond :=
  (extract_append_high (op ++ o.cond ++ o.link ++ o.t1 ++ o.t2 ++ o.k ++ (0 : BitVec 7)) o.neg 48 8 (by decide)).trans <|
    (extract_append_high (op ++ o.cond ++ o.link ++ o.t1 ++ o.t2 ++ o.k) (0 : BitVec 7) 47 8 (by decide)).trans <|
    (extract_append_high (op ++ o.cond ++ o.link ++ o.t1 ++ o.t2) o.k 40 8 (by decide)).trans <|
    (extract_append_high (op ++ o.cond ++ o.link ++ o.t1) o.t2 32 8 (by decide)).trans <|
    (extract_append_high (op ++ o.cond ++ o.link) o.t1 20 8 (by decide)).trans <|
    (extract_append_high (op ++ o.cond) o.link 8 8 (by decide)).trans <|
    (extract_append_low (op) o.cond 0 8 (by decide)).trans <|
    (extract_all o.cond)

theorem c_link (op : BitVec 8) (o : COps) : (Encode.c op o).extractLsb' 40 8 = o.link :=
  (extract_append_high (op ++ o.cond ++ o.link ++ o.t1 ++ o.t2 ++ o.k ++ (0 : BitVec 7)) o.neg 40 8 (by decide)).trans <|
    (extract_append_high (op ++ o.cond ++ o.link ++ o.t1 ++ o.t2 ++ o.k) (0 : BitVec 7) 39 8 (by decide)).trans <|
    (extract_append_high (op ++ o.cond ++ o.link ++ o.t1 ++ o.t2) o.k 32 8 (by decide)).trans <|
    (extract_append_high (op ++ o.cond ++ o.link ++ o.t1) o.t2 24 8 (by decide)).trans <|
    (extract_append_high (op ++ o.cond ++ o.link) o.t1 12 8 (by decide)).trans <|
    (extract_append_low (op ++ o.cond) o.link 0 8 (by decide)).trans <|
    (extract_all o.link)

theorem c_t1 (op : BitVec 8) (o : COps) : (Encode.c op o).extractLsb' 28 12 = o.t1 :=
  (extract_append_high (op ++ o.cond ++ o.link ++ o.t1 ++ o.t2 ++ o.k ++ (0 : BitVec 7)) o.neg 28 12 (by decide)).trans <|
    (extract_append_high (op ++ o.cond ++ o.link ++ o.t1 ++ o.t2 ++ o.k) (0 : BitVec 7) 27 12 (by decide)).trans <|
    (extract_append_high (op ++ o.cond ++ o.link ++ o.t1 ++ o.t2) o.k 20 12 (by decide)).trans <|
    (extract_append_high (op ++ o.cond ++ o.link ++ o.t1) o.t2 12 12 (by decide)).trans <|
    (extract_append_low (op ++ o.cond ++ o.link) o.t1 0 12 (by decide)).trans <|
    (extract_all o.t1)

theorem c_t2 (op : BitVec 8) (o : COps) : (Encode.c op o).extractLsb' 16 12 = o.t2 :=
  (extract_append_high (op ++ o.cond ++ o.link ++ o.t1 ++ o.t2 ++ o.k ++ (0 : BitVec 7)) o.neg 16 12 (by decide)).trans <|
    (extract_append_high (op ++ o.cond ++ o.link ++ o.t1 ++ o.t2 ++ o.k) (0 : BitVec 7) 15 12 (by decide)).trans <|
    (extract_append_high (op ++ o.cond ++ o.link ++ o.t1 ++ o.t2) o.k 8 12 (by decide)).trans <|
    (extract_append_low (op ++ o.cond ++ o.link ++ o.t1) o.t2 0 12 (by decide)).trans <|
    (extract_all o.t2)

theorem c_k (op : BitVec 8) (o : COps) : (Encode.c op o).extractLsb' 8 8 = o.k :=
  (extract_append_high (op ++ o.cond ++ o.link ++ o.t1 ++ o.t2 ++ o.k ++ (0 : BitVec 7)) o.neg 8 8 (by decide)).trans <|
    (extract_append_high (op ++ o.cond ++ o.link ++ o.t1 ++ o.t2 ++ o.k) (0 : BitVec 7) 7 8 (by decide)).trans <|
    (extract_append_low (op ++ o.cond ++ o.link ++ o.t1 ++ o.t2) o.k 0 8 (by decide)).trans <|
    (extract_all o.k)

theorem c_zero (op : BitVec 8) (o : COps) : (Encode.c op o).extractLsb' 1 7 = (0 : BitVec 7) :=
  (extract_append_high (op ++ o.cond ++ o.link ++ o.t1 ++ o.t2 ++ o.k ++ (0 : BitVec 7)) o.neg 1 7 (by decide)).trans <|
    (extract_append_low (op ++ o.cond ++ o.link ++ o.t1 ++ o.t2 ++ o.k) (0 : BitVec 7) 0 7 (by decide)).trans <|
    (extract_all (0 : BitVec 7))

theorem c_neg (op : BitVec 8) (o : COps) : (Encode.c op o).extractLsb' 0 1 = o.neg :=
  (extract_append_low (op ++ o.cond ++ o.link ++ o.t1 ++ o.t2 ++ o.k ++ (0 : BitVec 7)) o.neg 0 1 (by decide)).trans <|
    (extract_all o.neg)

theorem opc_c (op : BitVec 8) (o : COps) : opc (Encode.c op o) = op := c_op op o

theorem cOps_c (op : BitVec 8) (o : COps) : cOps (Encode.c op o) = o := by
  cases o
  simp only [cOps, c_cond, c_link, c_t1, c_t2, c_k, c_neg]

theorem sh_zero (n : BitVec 6) : ((0#10) ++ n : BitVec 16).extractLsb' 6 10 = 0 :=
  (extract_append_high ((0 : BitVec 10)) n 6 10 (by decide)).trans <|
    (extract_all (0 : BitVec 10))

theorem sh_n (n : BitVec 6) : ((0#10) ++ n : BitVec 16).extractLsb' 0 6 = n :=
  (extract_append_low ((0 : BitVec 10)) n 0 6 (by decide)).trans <|
    (extract_all n)

theorem lp_zero (l p : BitVec 6) : ((0#4) ++ l ++ p : BitVec 16).extractLsb' 12 4 = 0 :=
  (extract_append_high ((0 : BitVec 4) ++ l) p 12 4 (by decide)).trans <|
    (extract_append_high ((0 : BitVec 4)) l 6 4 (by decide)).trans <|
    (extract_all (0 : BitVec 4))

theorem lp_l (l p : BitVec 6) : ((0#4) ++ l ++ p : BitVec 16).extractLsb' 6 6 = l :=
  (extract_append_high ((0 : BitVec 4) ++ l) p 6 6 (by decide)).trans <|
    (extract_append_low ((0 : BitVec 4)) l 0 6 (by decide)).trans <|
    (extract_all l)

theorem lp_p (l p : BitVec 6) : ((0#4) ++ l ++ p : BitVec 16).extractLsb' 0 6 = p :=
  (extract_append_low ((0 : BitVec 4) ++ l) p 0 6 (by decide)).trans <|
    (extract_all p)

theorem zso_z (z s : BitVec 2) (o : BitVec 12) : (z ++ s ++ o : BitVec 16).extractLsb' 14 2 = z :=
  (extract_append_high (z ++ s) o 14 2 (by decide)).trans <|
    (extract_append_high (z) s 2 2 (by decide)).trans <|
    (extract_all z)

theorem zso_s (z s : BitVec 2) (o : BitVec 12) : (z ++ s ++ o : BitVec 16).extractLsb' 12 2 = s :=
  (extract_append_high (z ++ s) o 12 2 (by decide)).trans <|
    (extract_append_low (z) s 0 2 (by decide)).trans <|
    (extract_all s)

theorem zso_o (z s : BitVec 2) (o : BitVec 12) : (z ++ s ++ o : BitVec 16).extractLsb' 0 12 = o :=
  (extract_append_low (z ++ s) o 0 12 (by decide)).trans <|
    (extract_all o)

theorem amo_o (o : BitVec 2) (s : BitVec 1) (z r : BitVec 2) (c : BitVec 3) : (o ++ s ++ z ++ r ++ c ++ (0#1) : BitVec 11).extractLsb' 9 2 = o :=
  (extract_append_high (o ++ s ++ z ++ r ++ c) (0 : BitVec 1) 9 2 (by decide)).trans <|
    (extract_append_high (o ++ s ++ z ++ r) c 8 2 (by decide)).trans <|
    (extract_append_high (o ++ s ++ z) r 5 2 (by decide)).trans <|
    (extract_append_high (o ++ s) z 3 2 (by decide)).trans <|
    (extract_append_high (o) s 1 2 (by decide)).trans <|
    (extract_all o)

theorem amo_s (o : BitVec 2) (s : BitVec 1) (z r : BitVec 2) (c : BitVec 3) : (o ++ s ++ z ++ r ++ c ++ (0#1) : BitVec 11).extractLsb' 8 1 = s :=
  (extract_append_high (o ++ s ++ z ++ r ++ c) (0 : BitVec 1) 8 1 (by decide)).trans <|
    (extract_append_high (o ++ s ++ z ++ r) c 7 1 (by decide)).trans <|
    (extract_append_high (o ++ s ++ z) r 4 1 (by decide)).trans <|
    (extract_append_high (o ++ s) z 2 1 (by decide)).trans <|
    (extract_append_low (o) s 0 1 (by decide)).trans <|
    (extract_all s)

theorem amo_z (o : BitVec 2) (s : BitVec 1) (z r : BitVec 2) (c : BitVec 3) : (o ++ s ++ z ++ r ++ c ++ (0#1) : BitVec 11).extractLsb' 6 2 = z :=
  (extract_append_high (o ++ s ++ z ++ r ++ c) (0 : BitVec 1) 6 2 (by decide)).trans <|
    (extract_append_high (o ++ s ++ z ++ r) c 5 2 (by decide)).trans <|
    (extract_append_high (o ++ s ++ z) r 2 2 (by decide)).trans <|
    (extract_append_low (o ++ s) z 0 2 (by decide)).trans <|
    (extract_all z)

theorem amo_r (o : BitVec 2) (s : BitVec 1) (z r : BitVec 2) (c : BitVec 3) : (o ++ s ++ z ++ r ++ c ++ (0#1) : BitVec 11).extractLsb' 4 2 = r :=
  (extract_append_high (o ++ s ++ z ++ r ++ c) (0 : BitVec 1) 4 2 (by decide)).trans <|
    (extract_append_high (o ++ s ++ z ++ r) c 3 2 (by decide)).trans <|
    (extract_append_low (o ++ s ++ z) r 0 2 (by decide)).trans <|
    (extract_all r)

theorem amo_c (o : BitVec 2) (s : BitVec 1) (z r : BitVec 2) (c : BitVec 3) : (o ++ s ++ z ++ r ++ c ++ (0#1) : BitVec 11).extractLsb' 1 3 = c :=
  (extract_append_high (o ++ s ++ z ++ r ++ c) (0 : BitVec 1) 1 3 (by decide)).trans <|
    (extract_append_low (o ++ s ++ z ++ r) c 0 3 (by decide)).trans <|
    (extract_all c)

theorem amo_zero (o : BitVec 2) (s : BitVec 1) (z r : BitVec 2) (c : BitVec 3) : (o ++ s ++ z ++ r ++ c ++ (0#1) : BitVec 11).extractLsb' 0 1 = 0 :=
  (extract_append_low (o ++ s ++ z ++ r ++ c) (0 : BitVec 1) 0 1 (by decide)).trans <|
    (extract_all (0 : BitVec 1))

theorem fence_hi (k : BitVec 2) (c : BitVec 3) : ((0#5) ++ k ++ c ++ (0#1) : BitVec 11).extractLsb' 6 5 = 0 :=
  (extract_append_high ((0 : BitVec 5) ++ k ++ c) (0 : BitVec 1) 6 5 (by decide)).trans <|
    (extract_append_high ((0 : BitVec 5) ++ k) c 5 5 (by decide)).trans <|
    (extract_append_high ((0 : BitVec 5)) k 2 5 (by decide)).trans <|
    (extract_all (0 : BitVec 5))

theorem fence_k (k : BitVec 2) (c : BitVec 3) : ((0#5) ++ k ++ c ++ (0#1) : BitVec 11).extractLsb' 4 2 = k :=
  (extract_append_high ((0 : BitVec 5) ++ k ++ c) (0 : BitVec 1) 4 2 (by decide)).trans <|
    (extract_append_high ((0 : BitVec 5) ++ k) c 3 2 (by decide)).trans <|
    (extract_append_low ((0 : BitVec 5)) k 0 2 (by decide)).trans <|
    (extract_all k)

theorem fence_c (k : BitVec 2) (c : BitVec 3) : ((0#5) ++ k ++ c ++ (0#1) : BitVec 11).extractLsb' 1 3 = c :=
  (extract_append_high ((0 : BitVec 5) ++ k ++ c) (0 : BitVec 1) 1 3 (by decide)).trans <|
    (extract_append_low ((0 : BitVec 5) ++ k) c 0 3 (by decide)).trans <|
    (extract_all c)

theorem fence_lo (k : BitVec 2) (c : BitVec 3) : ((0#5) ++ k ++ c ++ (0#1) : BitVec 11).extractLsb' 0 1 = 0 :=
  (extract_append_low ((0 : BitVec 5) ++ k ++ c) (0 : BitVec 1) 0 1 (by decide)).trans <|
    (extract_all (0 : BitVec 1))

theorem c6_c (c : BitVec 5) : (c ++ (0#6) : BitVec 11).extractLsb' 6 5 = c :=
  (extract_append_high (c) (0 : BitVec 6) 6 5 (by decide)).trans <|
    (extract_all c)

theorem c6_zero (c : BitVec 5) : (c ++ (0#6) : BitVec 11).extractLsb' 0 6 = 0 :=
  (extract_append_low (c) (0 : BitVec 6) 0 6 (by decide)).trans <|
    (extract_all (0 : BitVec 6))

theorem spr_zero (s : BitVec 12) : ((0#4) ++ s : BitVec 16).extractLsb' 12 4 = 0 :=
  (extract_append_high ((0 : BitVec 4)) s 12 4 (by decide)).trans <|
    (extract_all (0 : BitVec 4))

theorem spr_s (s : BitVec 12) : ((0#4) ++ s : BitVec 16).extractLsb' 0 12 = s :=
  (extract_append_low ((0 : BitVec 4)) s 0 12 (by decide)).trans <|
    (extract_all s)

end Sys2Proof
end

