-- ==== Sys2Proof/Laws/Maps.lean ====
section
/-! SUPPORT. Sparse maps and memories: a read after a write, and that every operation keeps the canonical form. -/

namespace Sys2Proof

namespace SMap

variable {α : Type}

@[simp] theorem find?_nil (k : Nat) : SMap.find? ([] : SMap α) k = none := rfl

theorem find?_insert (m : SMap α) (k j : Nat) (x : α) :
    SMap.find? (insert m k x) j = if j = k then some x else SMap.find? m j := by
  induction m with
  | nil => simp only [insert, find?]; split <;> split <;> first | rfl | omega
  | cons e r ih =>
    obtain ⟨i, y⟩ := e
    simp only [insert]
    split
    · simp only [find?]; by_cases h1 : k = j <;> by_cases h2 : i = j <;> simp [h1, h2, eq_comm] <;> omega
    · split
      · rename_i _ h0; subst h0; simp only [find?]; by_cases h1 : k = j <;> simp [h1, eq_comm]
      · simp only [find?, ih]; by_cases h1 : k = j <;> by_cases h2 : i = j <;> simp [h1, h2, eq_comm] <;> omega

theorem find?_erase (m : SMap α) (k j : Nat) :
    SMap.find? (erase m k) j = if j = k then none else SMap.find? m j := by
  induction m with
  | nil => simp [erase]
  | cons e r ih =>
    obtain ⟨i, y⟩ := e
    simp only [erase]
    split
    · rename_i h0; subst h0; rw [ih]; simp only [find?]; by_cases h1 : k = j <;> simp [h1, eq_comm]
    · simp only [find?, ih]; by_cases h1 : k = j <;> by_cases h2 : i = j <;> simp [h1, h2, eq_comm] <;> omega

/-- A read after a write: the written key holds what was written, every other key what it held. -/
@[simp] theorem get_set [DecidableEq α] (d : α) (m : SMap α) (k j : Nat) (x : α) :
    get d (set d m k x) j = if j = k then x else get d m j := by
  unfold get set
  split
  · rw [find?_erase]; split <;> simp_all
  · rw [find?_insert]; split <;> simp_all

theorem rising_le (m : SMap α) (a b : Nat) (h : a ≤ b) : rising b m = true → rising a m = true := by
  cases m with
  | nil => simp [rising]
  | cons e r =>
    obtain ⟨i, y⟩ := e
    simp only [rising, Bool.and_eq_true, decide_eq_true_eq]
    exact fun hr => ⟨by omega, hr.2⟩

theorem rising_insert (m : SMap α) (k : Nat) (x : α) :
    ∀ lo, lo ≤ k → rising lo m = true → rising lo (insert m k x) = true := by
  induction m with
  | nil => intro lo h _; simp [insert, rising, h]
  | cons e r ih =>
    obtain ⟨i, y⟩ := e
    intro lo h hr
    simp only [rising, Bool.and_eq_true, decide_eq_true_eq] at hr
    simp only [insert]
    split
    · simp only [rising, Bool.and_eq_true, decide_eq_true_eq]
      exact ⟨h, by omega, hr.2⟩
    · split
      · subst_vars; simp only [rising, Bool.and_eq_true, decide_eq_true_eq]; exact ⟨h, hr.2⟩
      · simp only [rising, Bool.and_eq_true, decide_eq_true_eq]; exact ⟨hr.1, ih (i + 1) (by omega) hr.2⟩

theorem rising_erase (m : SMap α) (k : Nat) : ∀ lo, rising lo m = true → rising lo (erase m k) = true := by
  induction m with
  | nil => simp [erase]
  | cons e r ih =>
    obtain ⟨i, y⟩ := e
    intro lo hr
    simp only [rising, Bool.and_eq_true, decide_eq_true_eq] at hr
    simp only [erase]
    split
    · exact ih lo (rising_le r lo (i + 1) (by omega) hr.2)
    · simp only [rising, Bool.and_eq_true, decide_eq_true_eq]; exact ⟨hr.1, ih (i + 1) hr.2⟩

theorem all_insert (m : SMap α) (k : Nat) (x : α) (p : Nat × α → Bool) (hx : p (k, x) = true) :
    m.all p = true → (insert m k x).all p = true := by
  induction m with
  | nil => simp [insert, hx]
  | cons e r ih =>
    obtain ⟨i, y⟩ := e
    simp only [insert, List.all_cons, Bool.and_eq_true]
    intro h
    split
    · simp [hx, h]
    · split
      · simp [hx, h]
      · simp [h, ih h.2]

theorem all_erase (m : SMap α) (k : Nat) (p : Nat × α → Bool) : m.all p = true → (erase m k).all p = true := by
  induction m with
  | nil => simp [erase]
  | cons e r ih =>
    obtain ⟨i, y⟩ := e
    simp only [erase, List.all_cons, Bool.and_eq_true]
    intro h
    split
    · exact ih h.2
    · simp [h, ih h.2]

/-- A write keeps the canonical form. -/
theorem wf_set [DecidableEq α] (d : α) (m : SMap α) (k : Nat) (x : α) (h : wf d m = true) :
    wf d (set d m k x) = true := by
  simp only [wf, Bool.and_eq_true] at h ⊢
  unfold set
  split
  · exact ⟨rising_erase m k 0 h.1, all_erase m k _ h.2⟩
  · exact ⟨rising_insert m k x 0 (by omega) h.1, all_insert m k x _ (by simpa) h.2⟩

@[simp] theorem wf_nil [DecidableEq α] (d : α) : wf d ([] : SMap α) = true := rfl

end SMap

namespace Mem

@[simp] theorem byte_setByte (m : Mem) (a b : Nat) (x : Byte) :
    byte (setByte m a x) b = if b = a then x else byte m b := by simp [byte, setByte]

theorem byte_write (n : Nat) : ∀ (m : Mem) (a v b : Nat),
    byte (write m a n v) b = if a ≤ b ∧ b < a + n then BitVec.ofNat 8 (v / 256 ^ (b - a)) else byte m b := by
  induction n with
  | zero => intro m a v b; simp only [write]; split <;> first | rfl | omega
  | succ n ih =>
    intro m a v b
    simp only [write, ih, byte_setByte]
    by_cases h : b = a
    · subst h
      have h0 : ¬ (b + 1 ≤ b ∧ b < b + 1 + n) := by omega
      simp [h0]
    · by_cases h2 : a ≤ b ∧ b < a + (n + 1)
      · have h3 : a + 1 ≤ b ∧ b < a + 1 + n := by omega
        have h4 : b - a = (b - (a + 1)) + 1 := by omega
        simp only [h3, h2, and_self, if_true, h4, Nat.pow_succ, Nat.div_div_eq_div_mul]
        rw [Nat.mul_comm 256]
      · have h3 : ¬ (a + 1 ≤ b ∧ b < a + 1 + n) := by omega
        rw [if_neg h3, if_neg h, if_neg h2]

/-- A write leaves every other byte alone. -/
theorem byte_write_outside (m : Mem) (a n v b : Nat) (h : b < a ∨ a + n ≤ b) :
    byte (write m a n v) b = byte m b := by
  rw [byte_write]; split <;> first | rfl | omega

/-- A read after a write to the same place gives the value written. -/
theorem read_write (n : Nat) : ∀ (m : Mem) (a v : Nat), read (write m a n v) a n = v % 256 ^ n := by
  induction n with
  | zero => intro m a v; simp [read, Nat.mod_one]
  | succ n ih =>
    intro m a v
    have hb : byte (write (setByte m a (BitVec.ofNat 8 v)) (a + 1) n (v / 256)) a = BitVec.ofNat 8 v := by
      rw [byte_write_outside _ _ _ _ _ (by omega)]; simp
    simp only [read, write, hb, ih, BitVec.toNat_ofNat]
    rw [show 256 ^ (n + 1) = 256 * 256 ^ n from by rw [Nat.pow_succ, Nat.mul_comm], Nat.mod_mul]

theorem byte_writeBytes (l : List Byte) : ∀ (m : Mem) (a b : Nat),
    byte (writeBytes m a l) b = if a ≤ b ∧ b < a + l.length then l.getD (b - a) 0 else byte m b := by
  induction l with
  | nil => intro m a b; simp only [writeBytes, List.length_nil]; split <;> first | rfl | omega
  | cons x r ih =>
    intro m a b
    simp only [writeBytes, ih, byte_setByte, List.length_cons]
    by_cases h : b = a
    · subst h
      have h0 : ¬ (b + 1 ≤ b ∧ b < b + 1 + r.length) := by omega
      simp [h0]
    · by_cases h2 : a ≤ b ∧ b < a + (r.length + 1)
      · have h3 : a + 1 ≤ b ∧ b < a + 1 + r.length := by omega
        have h4 : b - a = (b - (a + 1)) + 1 := by omega
        simp only [h3, h2, and_self, if_true, h4, List.getD_cons_succ]
      · have h3 : ¬ (a + 1 ≤ b ∧ b < a + 1 + r.length) := by omega
        rw [if_neg h3, if_neg h, if_neg h2]

@[simp] theorem wf_nil : wf [] = true := rfl

theorem wf_setByte (m : Mem) (a : Nat) (b : Byte) (h : wf m = true) : wf (setByte m a b) = true :=
  SMap.wf_set 0 m a b h

/-- Writing bytes keeps the canonical form. -/
theorem wf_write (n : Nat) : ∀ (m : Mem) (a v : Nat), wf m = true → wf (write m a n v) = true := by
  induction n with
  | zero => intro m a v h; exact h
  | succ n ih => intro m a v h; exact ih _ _ _ (wf_setByte m a _ h)

theorem wf_writeBytes (l : List Byte) : ∀ (m : Mem) (a : Nat), wf m = true → wf (writeBytes m a l) = true := by
  induction l with
  | nil => intro m a h; exact h
  | cons b r ih => intro m a h; exact ih _ _ (wf_setByte m a b h)

end Mem

end Sys2Proof
end

