-- ==== Sys2Proof/Laws/State.lean ====
section
/-! SUPPORT. What the named updates of the state change, field by field, and what a die, a team, a group or a register
holds after one. -/

namespace Sys2Proof.Machine

open Sys2Proof

/-! ## Fields of the state -/

@[simp] theorem updDie_agenda (s : State) (d : Nat) (f : Die → Die) : (s.updDie d f).agenda = s.agenda := rfl
@[simp] theorem updDie_cur (s : State) (d : Nat) (f : Die → Die) : (s.updDie d f).cur = s.cur := rfl
@[simp] theorem updDie_freeCtr (s : State) (d : Nat) (f : Die → Die) : (s.updDie d f).freeCtr = s.freeCtr := rfl
@[simp] theorem updDie_turnNo (s : State) (d : Nat) (f : Die → Die) : (s.updDie d f).turnNo = s.turnNo := rfl
@[simp] theorem updDie_pick (s : State) (d : Nat) (f : Die → Die) : (s.updDie d f).pick = s.pick := rfl
@[simp] theorem updDie_busReply (s : State) (d : Nat) (f : Die → Die) : (s.updDie d f).busReply = s.busReply := rfl
@[simp] theorem updDie_outbox (s : State) (d : Nat) (f : Die → Die) : (s.updDie d f).outbox = s.outbox := rfl
@[simp] theorem updDie_pkg (s : State) (d : Nat) (f : Die → Die) : (s.updDie d f).pkg = s.pkg := rfl
@[simp] theorem updTeam_agenda (s : State) (d c : Nat) (f : Team → Team) : (s.updTeam d c f).agenda = s.agenda := rfl
@[simp] theorem updTeam_cur (s : State) (d c : Nat) (f : Team → Team) : (s.updTeam d c f).cur = s.cur := rfl
@[simp] theorem updTeam_freeCtr (s : State) (d c : Nat) (f : Team → Team) : (s.updTeam d c f).freeCtr = s.freeCtr := rfl
@[simp] theorem updTeam_turnNo (s : State) (d c : Nat) (f : Team → Team) : (s.updTeam d c f).turnNo = s.turnNo := rfl
@[simp] theorem updTeam_pick (s : State) (d c : Nat) (f : Team → Team) : (s.updTeam d c f).pick = s.pick := rfl
@[simp] theorem updTeam_busReply (s : State) (d c : Nat) (f : Team → Team) : (s.updTeam d c f).busReply = s.busReply := rfl
@[simp] theorem updTeam_outbox (s : State) (d c : Nat) (f : Team → Team) : (s.updTeam d c f).outbox = s.outbox := rfl
@[simp] theorem updTeam_pkg (s : State) (d c : Nat) (f : Team → Team) : (s.updTeam d c f).pkg = s.pkg := rfl
@[simp] theorem updGroup_agenda (s : State) (d c g : Nat) (f : Group → Group) : (s.updGroup d c g f).agenda = s.agenda := rfl
@[simp] theorem updGroup_cur (s : State) (d c g : Nat) (f : Group → Group) : (s.updGroup d c g f).cur = s.cur := rfl
@[simp] theorem updGroup_freeCtr (s : State) (d c g : Nat) (f : Group → Group) : (s.updGroup d c g f).freeCtr = s.freeCtr := rfl
@[simp] theorem updGroup_turnNo (s : State) (d c g : Nat) (f : Group → Group) : (s.updGroup d c g f).turnNo = s.turnNo := rfl
@[simp] theorem updGroup_pick (s : State) (d c g : Nat) (f : Group → Group) : (s.updGroup d c g f).pick = s.pick := rfl
@[simp] theorem updGroup_busReply (s : State) (d c g : Nat) (f : Group → Group) : (s.updGroup d c g f).busReply = s.busReply := rfl
@[simp] theorem updGroup_outbox (s : State) (d c g : Nat) (f : Group → Group) : (s.updGroup d c g f).outbox = s.outbox := rfl
@[simp] theorem updGroup_pkg (s : State) (d c g : Nat) (f : Group → Group) : (s.updGroup d c g f).pkg = s.pkg := rfl
@[simp] theorem updComp_agenda (s : State) (d c : Nat) (f : Composer → Composer) : (s.updComp d c f).agenda = s.agenda := rfl
@[simp] theorem updComp_cur (s : State) (d c : Nat) (f : Composer → Composer) : (s.updComp d c f).cur = s.cur := rfl
@[simp] theorem updComp_freeCtr (s : State) (d c : Nat) (f : Composer → Composer) : (s.updComp d c f).freeCtr = s.freeCtr := rfl
@[simp] theorem updComp_turnNo (s : State) (d c : Nat) (f : Composer → Composer) : (s.updComp d c f).turnNo = s.turnNo := rfl
@[simp] theorem updComp_pick (s : State) (d c : Nat) (f : Composer → Composer) : (s.updComp d c f).pick = s.pick := rfl
@[simp] theorem updComp_busReply (s : State) (d c : Nat) (f : Composer → Composer) : (s.updComp d c f).busReply = s.busReply := rfl
@[simp] theorem updComp_outbox (s : State) (d c : Nat) (f : Composer → Composer) : (s.updComp d c f).outbox = s.outbox := rfl
@[simp] theorem updComp_pkg (s : State) (d c : Nat) (f : Composer → Composer) : (s.updComp d c f).pkg = s.pkg := rfl
@[simp] theorem send_agenda (s : State) (m : Msg) : (s.send m).agenda = s.agenda := rfl
@[simp] theorem takeFree_agenda (s : State) : s.takeFree.2.agenda = s.agenda := rfl
@[simp] theorem postFw_agenda (s : State) (e : FwEvent) : (s.postFw e).agenda = s.agenda := by
  simp only [State.postFw]; split <;> split <;> first | rfl | (split <;> rfl)
@[simp] theorem send_cur (s : State) (m : Msg) : (s.send m).cur = s.cur := rfl
@[simp] theorem takeFree_cur (s : State) : s.takeFree.2.cur = s.cur := rfl
@[simp] theorem postFw_cur (s : State) (e : FwEvent) : (s.postFw e).cur = s.cur := by
  simp only [State.postFw]; split <;> split <;> first | rfl | (split <;> rfl)
@[simp] theorem send_freeCtr (s : State) (m : Msg) : (s.send m).freeCtr = s.freeCtr := rfl
@[simp] theorem postFw_freeCtr (s : State) (e : FwEvent) : (s.postFw e).freeCtr = s.freeCtr := by
  simp only [State.postFw]; split <;> split <;> first | rfl | (split <;> rfl)
@[simp] theorem send_turnNo (s : State) (m : Msg) : (s.send m).turnNo = s.turnNo := rfl
@[simp] theorem takeFree_turnNo (s : State) : s.takeFree.2.turnNo = s.turnNo := rfl
@[simp] theorem postFw_turnNo (s : State) (e : FwEvent) : (s.postFw e).turnNo = s.turnNo := by
  simp only [State.postFw]; split <;> split <;> first | rfl | (split <;> rfl)
@[simp] theorem send_pick (s : State) (m : Msg) : (s.send m).pick = s.pick := rfl
@[simp] theorem takeFree_pick (s : State) : s.takeFree.2.pick = s.pick := rfl
@[simp] theorem postFw_pick (s : State) (e : FwEvent) : (s.postFw e).pick = s.pick := by
  simp only [State.postFw]; split <;> split <;> first | rfl | (split <;> rfl)
@[simp] theorem send_busReply (s : State) (m : Msg) : (s.send m).busReply = s.busReply := rfl
@[simp] theorem takeFree_busReply (s : State) : s.takeFree.2.busReply = s.busReply := rfl
@[simp] theorem postFw_busReply (s : State) (e : FwEvent) : (s.postFw e).busReply = s.busReply := by
  simp only [State.postFw]; split <;> split <;> first | rfl | (split <;> rfl)
@[simp] theorem takeFree_outbox (s : State) : s.takeFree.2.outbox = s.outbox := rfl
@[simp] theorem postFw_outbox (s : State) (e : FwEvent) : (s.postFw e).outbox = s.outbox := by
  simp only [State.postFw]; split <;> split <;> first | rfl | (split <;> rfl)
@[simp] theorem send_pkg (s : State) (m : Msg) : (s.send m).pkg = s.pkg := rfl
@[simp] theorem takeFree_pkg (s : State) : s.takeFree.2.pkg = s.pkg := rfl
@[simp] theorem send_dies (s : State) (m : Msg) : (s.send m).dies = s.dies := rfl
@[simp] theorem takeFree_dies (s : State) : s.takeFree.2.dies = s.dies := rfl
@[simp] theorem postFw_dies (s : State) (e : FwEvent) : (s.postFw e).dies = s.dies := by
  simp only [State.postFw]; split <;> split <;> first | rfl | (split <;> rfl)

/-! ## Fields of a group -/

@[simp] theorem setV_st (x : Group) (n st : Nat) (w : Word32) : (x.setV n st w).st = x.st := rfl
@[simp] theorem setW_st (x : Group) (n : Nat) (w : Word32) : (x.setW n w).st = x.st := by
  unfold Group.setW; split <;> rfl
@[simp] theorem updSlot_st (x : Group) (k : Nat) (f : PcSlot → PcSlot) : (x.updSlot k f).st = x.st := by
  unfold Group.updSlot; split <;> rfl
@[simp] theorem setV_code (x : Group) (n st : Nat) (w : Word32) : (x.setV n st w).code = x.code := rfl
@[simp] theorem setW_code (x : Group) (n : Nat) (w : Word32) : (x.setW n w).code = x.code := by
  unfold Group.setW; split <;> rfl
@[simp] theorem updSlot_code (x : Group) (k : Nat) (f : PcSlot → PcSlot) : (x.updSlot k f).code = x.code := by
  unfold Group.updSlot; split <;> rfl
@[simp] theorem setV_slotF (x : Group) (n st : Nat) (w : Word32) : (x.setV n st w).slotF = x.slotF := rfl
@[simp] theorem setW_slotF (x : Group) (n : Nat) (w : Word32) : (x.setW n w).slotF = x.slotF := by
  unfold Group.setW; split <;> rfl
@[simp] theorem updSlot_slotF (x : Group) (k : Nat) (f : PcSlot → PcSlot) : (x.updSlot k f).slotF = x.slotF := by
  unfold Group.updSlot; split <;> rfl
@[simp] theorem setV_step (x : Group) (n st : Nat) (w : Word32) : (x.setV n st w).step = x.step := rfl
@[simp] theorem setW_step (x : Group) (n : Nat) (w : Word32) : (x.setW n w).step = x.step := by
  unfold Group.setW; split <;> rfl
@[simp] theorem updSlot_step (x : Group) (k : Nat) (f : PcSlot → PcSlot) : (x.updSlot k f).step = x.step := by
  unfold Group.updSlot; split <;> rfl
@[simp] theorem setV_stepping (x : Group) (n st : Nat) (w : Word32) : (x.setV n st w).stepping = x.stepping := rfl
@[simp] theorem setW_stepping (x : Group) (n : Nat) (w : Word32) : (x.setW n w).stepping = x.stepping := by
  unfold Group.setW; split <;> rfl
@[simp] theorem updSlot_stepping (x : Group) (k : Nat) (f : PcSlot → PcSlot) : (x.updSlot k f).stepping = x.stepping := by
  unfold Group.updSlot; split <;> rfl
@[simp] theorem setV_frame (x : Group) (n st : Nat) (w : Word32) : (x.setV n st w).frame = x.frame := rfl
@[simp] theorem setW_frame (x : Group) (n : Nat) (w : Word32) : (x.setW n w).frame = x.frame := by
  unfold Group.setW; split <;> rfl
@[simp] theorem updSlot_frame (x : Group) (k : Nat) (f : PcSlot → PcSlot) : (x.updSlot k f).frame = x.frame := by
  unfold Group.updSlot; split <;> rfl
@[simp] theorem setV_pc0 (x : Group) (n st : Nat) (w : Word32) : (x.setV n st w).pc0 = x.pc0 := rfl
@[simp] theorem setW_pc0 (x : Group) (n : Nat) (w : Word32) : (x.setW n w).pc0 = x.pc0 := by
  unfold Group.setW; split <;> rfl
@[simp] theorem setV_pc1 (x : Group) (n st : Nat) (w : Word32) : (x.setV n st w).pc1 = x.pc1 := rfl
@[simp] theorem setW_pc1 (x : Group) (n : Nat) (w : Word32) : (x.setW n w).pc1 = x.pc1 := by
  unfold Group.setW; split <;> rfl
@[simp] theorem setV_nest (x : Group) (n st : Nat) (w : Word32) : (x.setV n st w).nest = x.nest := rfl
@[simp] theorem setW_nest (x : Group) (n : Nat) (w : Word32) : (x.setW n w).nest = x.nest := by
  unfold Group.setW; split <;> rfl
@[simp] theorem updSlot_nest (x : Group) (k : Nat) (f : PcSlot → PcSlot) : (x.updSlot k f).nest = x.nest := by
  unfold Group.updSlot; split <;> rfl
@[simp] theorem setV_spill (x : Group) (n st : Nat) (w : Word32) : (x.setV n st w).spill = x.spill := rfl
@[simp] theorem setW_spill (x : Group) (n : Nat) (w : Word32) : (x.setW n w).spill = x.spill := by
  unfold Group.setW; split <;> rfl
@[simp] theorem updSlot_spill (x : Group) (k : Nat) (f : PcSlot → PcSlot) : (x.updSlot k f).spill = x.spill := by
  unfold Group.updSlot; split <;> rfl
@[simp] theorem setW_v (x : Group) (n : Nat) (w : Word32) : (x.setW n w).v = x.v := by
  unfold Group.setW; split <;> rfl
@[simp] theorem updSlot_v (x : Group) (k : Nat) (f : PcSlot → PcSlot) : (x.updSlot k f).v = x.v := by
  unfold Group.updSlot; split <;> rfl
@[simp] theorem setV_w (x : Group) (n st : Nat) (w : Word32) : (x.setV n st w).w = x.w := rfl
@[simp] theorem updSlot_w (x : Group) (k : Nat) (f : PcSlot → PcSlot) : (x.updSlot k f).w = x.w := by
  unfold Group.updSlot; split <;> rfl
@[simp] theorem setV_x (x : Group) (n st : Nat) (w : Word32) : (x.setV n st w).x = x.x := rfl
@[simp] theorem setW_x (x : Group) (n : Nat) (w : Word32) : (x.setW n w).x = x.x := by
  unfold Group.setW; split <;> rfl
@[simp] theorem updSlot_x (x : Group) (k : Nat) (f : PcSlot → PcSlot) : (x.updSlot k f).x = x.x := by
  unfold Group.updSlot; split <;> rfl
@[simp] theorem setV_e (x : Group) (n st : Nat) (w : Word32) : (x.setV n st w).e = x.e := rfl
@[simp] theorem setW_e (x : Group) (n : Nat) (w : Word32) : (x.setW n w).e = x.e := by
  unfold Group.setW; split <;> rfl
@[simp] theorem updSlot_e (x : Group) (k : Nat) (f : PcSlot → PcSlot) : (x.updSlot k f).e = x.e := by
  unfold Group.updSlot; split <;> rfl
@[simp] theorem setV_asf (x : Group) (n st : Nat) (w : Word32) : (x.setV n st w).asf = x.asf := rfl
@[simp] theorem setW_asf (x : Group) (n : Nat) (w : Word32) : (x.setW n w).asf = x.asf := by
  unfold Group.setW; split <;> rfl
@[simp] theorem updSlot_asf (x : Group) (k : Nat) (f : PcSlot → PcSlot) : (x.updSlot k f).asf = x.asf := by
  unfold Group.updSlot; split <;> rfl
@[simp] theorem setV_ate (x : Group) (n st : Nat) (w : Word32) : (x.setV n st w).ate = x.ate := rfl
@[simp] theorem setW_ate (x : Group) (n : Nat) (w : Word32) : (x.setW n w).ate = x.ate := by
  unfold Group.setW; split <;> rfl
@[simp] theorem updSlot_ate (x : Group) (k : Nat) (f : PcSlot → PcSlot) : (x.updSlot k f).ate = x.ate := by
  unfold Group.updSlot; split <;> rfl
@[simp] theorem setV_loads (x : Group) (n st : Nat) (w : Word32) : (x.setV n st w).loads = x.loads := rfl
@[simp] theorem setW_loads (x : Group) (n : Nat) (w : Word32) : (x.setW n w).loads = x.loads := by
  unfold Group.setW; split <;> rfl
@[simp] theorem updSlot_loads (x : Group) (k : Nat) (f : PcSlot → PcSlot) : (x.updSlot k f).loads = x.loads := by
  unfold Group.updSlot; split <;> rfl
@[simp] theorem setV_atom (x : Group) (n st : Nat) (w : Word32) : (x.setV n st w).atom = x.atom := rfl
@[simp] theorem setW_atom (x : Group) (n : Nat) (w : Word32) : (x.setW n w).atom = x.atom := by
  unfold Group.setW; split <;> rfl
@[simp] theorem updSlot_atom (x : Group) (k : Nat) (f : PcSlot → PcSlot) : (x.updSlot k f).atom = x.atom := by
  unfold Group.updSlot; split <;> rfl
@[simp] theorem setV_heldFrom (x : Group) (n st : Nat) (w : Word32) : (x.setV n st w).heldFrom = x.heldFrom := rfl
@[simp] theorem setW_heldFrom (x : Group) (n : Nat) (w : Word32) : (x.setW n w).heldFrom = x.heldFrom := by
  unfold Group.setW; split <;> rfl
@[simp] theorem updSlot_heldFrom (x : Group) (k : Nat) (f : PcSlot → PcSlot) : (x.updSlot k f).heldFrom = x.heldFrom := by
  unfold Group.updSlot; split <;> rfl
@[simp] theorem setV_spans (x : Group) (n st : Nat) (w : Word32) : (x.setV n st w).spans = x.spans := rfl
@[simp] theorem setW_spans (x : Group) (n : Nat) (w : Word32) : (x.setW n w).spans = x.spans := by
  unfold Group.setW; split <;> rfl
@[simp] theorem updSlot_spans (x : Group) (k : Nat) (f : PcSlot → PcSlot) : (x.updSlot k f).spans = x.spans := by
  unfold Group.updSlot; split <;> rfl
@[simp] theorem setV_storeErr (x : Group) (n st : Nat) (w : Word32) : (x.setV n st w).storeErr = x.storeErr := rfl
@[simp] theorem setW_storeErr (x : Group) (n : Nat) (w : Word32) : (x.setW n w).storeErr = x.storeErr := by
  unfold Group.setW; split <;> rfl
@[simp] theorem updSlot_storeErr (x : Group) (k : Nat) (f : PcSlot → PcSlot) : (x.updSlot k f).storeErr = x.storeErr := by
  unfold Group.updSlot; split <;> rfl
@[simp] theorem updSlot_latch (x : Group) (k : Nat) (f : PcSlot → PcSlot) : (x.updSlot k f).latch = x.latch := by
  unfold Group.updSlot; split <;> rfl
@[simp] theorem setV_feServed (x : Group) (n st : Nat) (w : Word32) : (x.setV n st w).feServed = x.feServed := rfl
@[simp] theorem setW_feServed (x : Group) (n : Nat) (w : Word32) : (x.setW n w).feServed = x.feServed := by
  unfold Group.setW; split <;> rfl
@[simp] theorem updSlot_feServed (x : Group) (k : Nat) (f : PcSlot → PcSlot) : (x.updSlot k f).feServed = x.feServed := by
  unfold Group.updSlot; split <;> rfl
@[simp] theorem setV_pend (x : Group) (n st : Nat) (w : Word32) : (x.setV n st w).pend = x.pend := rfl
@[simp] theorem setW_pend (x : Group) (n : Nat) (w : Word32) : (x.setW n w).pend = x.pend := by
  unfold Group.setW; split <;> rfl
@[simp] theorem updSlot_pend (x : Group) (k : Nat) (f : PcSlot → PcSlot) : (x.updSlot k f).pend = x.pend := by
  unfold Group.updSlot; split <;> rfl
@[simp] theorem setV_frec (x : Group) (n st : Nat) (w : Word32) : (x.setV n st w).frec = x.frec := rfl
@[simp] theorem setW_frec (x : Group) (n : Nat) (w : Word32) : (x.setW n w).frec = x.frec := by
  unfold Group.setW; split <;> rfl
@[simp] theorem updSlot_frec (x : Group) (k : Nat) (f : PcSlot → PcSlot) : (x.updSlot k f).frec = x.frec := by
  unfold Group.updSlot; split <;> rfl
@[simp] theorem giveUp_st (x : Group) (n : Nat) : (x.giveUp n).st = x.st := rfl
@[simp] theorem giveUp_code (x : Group) (n : Nat) : (x.giveUp n).code = x.code := rfl
@[simp] theorem giveUp_slotF (x : Group) (n : Nat) : (x.giveUp n).slotF = x.slotF := rfl
@[simp] theorem giveUp_step (x : Group) (n : Nat) : (x.giveUp n).step = x.step := rfl
@[simp] theorem giveUp_stepping (x : Group) (n : Nat) : (x.giveUp n).stepping = x.stepping := rfl
@[simp] theorem giveUp_frame (x : Group) (n : Nat) : (x.giveUp n).frame = x.frame := rfl
@[simp] theorem giveUp_nest (x : Group) (n : Nat) : (x.giveUp n).nest = x.nest := rfl
@[simp] theorem giveUp_spill (x : Group) (n : Nat) : (x.giveUp n).spill = x.spill := rfl
@[simp] theorem giveUp_v (x : Group) (n : Nat) : (x.giveUp n).v = x.v := rfl
@[simp] theorem giveUp_w (x : Group) (n : Nat) : (x.giveUp n).w = x.w := rfl
@[simp] theorem giveUp_x (x : Group) (n : Nat) : (x.giveUp n).x = x.x := rfl
@[simp] theorem giveUp_e (x : Group) (n : Nat) : (x.giveUp n).e = x.e := rfl
@[simp] theorem giveUp_asf (x : Group) (n : Nat) : (x.giveUp n).asf = x.asf := rfl
@[simp] theorem giveUp_ate (x : Group) (n : Nat) : (x.giveUp n).ate = x.ate := rfl
@[simp] theorem giveUp_atom (x : Group) (n : Nat) : (x.giveUp n).atom = x.atom := rfl
@[simp] theorem giveUp_heldFrom (x : Group) (n : Nat) : (x.giveUp n).heldFrom = x.heldFrom := rfl
@[simp] theorem giveUp_spans (x : Group) (n : Nat) : (x.giveUp n).spans = x.spans := rfl
@[simp] theorem giveUp_storeErr (x : Group) (n : Nat) : (x.giveUp n).storeErr = x.storeErr := rfl
@[simp] theorem giveUp_latch (x : Group) (n : Nat) : (x.giveUp n).latch = x.latch := rfl
@[simp] theorem giveUp_feServed (x : Group) (n : Nat) : (x.giveUp n).feServed = x.feServed := rfl
@[simp] theorem giveUp_pend (x : Group) (n : Nat) : (x.giveUp n).pend = x.pend := rfl
@[simp] theorem giveUp_frec (x : Group) (n : Nat) : (x.giveUp n).frec = x.frec := rfl
@[simp] theorem setReg_pc (k : Composer) (r : BitVec 5) (w : Word64) : (k.setReg r w).pc = k.pc := by
  unfold Composer.setReg; split <;> rfl
@[simp] theorem setReg_bbase (k : Composer) (r : BitVec 5) (w : Word64) : (k.setReg r w).bbase = k.bbase := by
  unfold Composer.setReg; split <;> rfl
@[simp] theorem setReg_fgen (k : Composer) (r : BitVec 5) (w : Word64) : (k.setReg r w).fgen = k.fgen := by
  unfold Composer.setReg; split <;> rfl
@[simp] theorem setReg_fvec (k : Composer) (r : BitVec 5) (w : Word64) : (k.setReg r w).fvec = k.fvec := by
  unfold Composer.setReg; split <;> rfl
@[simp] theorem setReg_evctl (k : Composer) (r : BitVec 5) (w : Word64) : (k.setReg r w).evctl = k.evctl := by
  unfold Composer.setReg; split <;> rfl
@[simp] theorem setReg_evgrp (k : Composer) (r : BitVec 5) (w : Word64) : (k.setReg r w).evgrp = k.evgrp := by
  unfold Composer.setReg; split <;> rfl
@[simp] theorem setReg_cycle (k : Composer) (r : BitVec 5) (w : Word64) : (k.setReg r w).cycle = k.cycle := by
  unfold Composer.setReg; split <;> rfl
@[simp] theorem setReg_stat (k : Composer) (r : BitVec 5) (w : Word64) : (k.setReg r w).stat = k.stat := by
  unfold Composer.setReg; split <;> rfl
@[simp] theorem setReg_wait (k : Composer) (r : BitVec 5) (w : Word64) : (k.setReg r w).wait = k.wait := by
  unfold Composer.setReg; split <;> rfl
@[simp] theorem setReg_pend (k : Composer) (r : BitVec 5) (w : Word64) : (k.setReg r w).pend = k.pend := by
  unfold Composer.setReg; split <;> rfl
@[simp] theorem setReg_evq (k : Composer) (r : BitVec 5) (w : Word64) : (k.setReg r w).evq = k.evq := by
  unfold Composer.setReg; split <;> rfl
@[simp] theorem setReg_frec (k : Composer) (r : BitVec 5) (w : Word64) : (k.setReg r w).frec = k.frec := by
  unfold Composer.setReg; split <;> rfl
@[simp] theorem setReg_walkFail (k : Composer) (r : BitVec 5) (w : Word64) : (k.setReg r w).walkFail = k.walkFail := by
  unfold Composer.setReg; split <;> rfl
@[simp] theorem setReg_storeErr (k : Composer) (r : BitVec 5) (w : Word64) : (k.setReg r w).storeErr = k.storeErr := by
  unfold Composer.setReg; split <;> rfl
@[simp] theorem setReg_icache (k : Composer) (r : BitVec 5) (w : Word64) : (k.setReg r w).icache = k.icache := by
  unfold Composer.setReg; split <;> rfl
@[simp] theorem setReg_dbgStep (k : Composer) (r : BitVec 5) (w : Word64) : (k.setReg r w).dbgStep = k.dbgStep := by
  unfold Composer.setReg; split <;> rfl

/-! ## Registers after a write -/

/-- A vector register's elements after one is written. -/
@[simp] theorem vreg_setV (x : Group) (n st m u : Nat) (w : Word32) (h : st < 32) (h' : u < 32) :
    (x.setV n st w).vreg m u = if m = n ∧ u = st then w else x.vreg m u := by
  simp only [Group.vreg, Group.setV, SMap.get_set]
  by_cases hm : m = n ∧ u = st
  · simp [hm]
  · have : ¬ (32 * m + u = 32 * n + st) := by omega
    simp [hm, this]

@[simp] theorem wreg_setV (x : Group) (n st m : Nat) (w : Word32) : (x.setV n st w).wreg m = x.wreg m := rfl

/-- A uniform register after one is written; w63 reads as zero. -/
@[simp] theorem wreg_setW (x : Group) (n m : Nat) (w : Word32) :
    (x.setW n w).wreg m = if m = n ∧ n ≠ 63 then w else x.wreg m := by
  unfold Group.wreg Group.setW
  by_cases hm : m = 63 <;> by_cases hn : n = 63 <;> simp [hm, hn] <;> omega

@[simp] theorem vreg_setW (x : Group) (n m u : Nat) (w : Word32) : (x.setW n w).vreg m u = x.vreg m u := by
  unfold Group.vreg Group.setW; split <;> rfl

/-- A composer register after one is written; g0 reads as zero. -/
@[simp] theorem reg_setReg (k : Composer) (r q : BitVec 5) (w : Word64) :
    (k.setReg r w).reg q = if q = r ∧ r ≠ 0 then w else k.reg q := by
  unfold Composer.reg Composer.setReg
  by_cases hr : r = 0
  · simp [hr]
  · by_cases hq : q = 0
    · have h0 : ¬ (0#5 = r) := fun h => hr h.symm
      simp [hq, h0]
    · have h0 : r ≠ 0#5 := hr
      rw [if_neg hq, if_neg hr, if_neg hq]; simp [h0, BitVec.toNat_inj]

@[simp] theorem slot_updSlot (x : Group) (k j : Nat) (f : PcSlot → PcSlot) (hk : k < 2) (hj : j < 2) :
    (x.updSlot k f).slot j = if j = k then f (x.slot k) else x.slot j := by
  unfold Group.slot Group.updSlot
  have : k = 0 ∨ k = 1 := by omega
  have : j = 0 ∨ j = 1 := by omega
  rcases ‹k = 0 ∨ k = 1› with rfl | rfl <;> rcases ‹j = 0 ∨ j = 1› with rfl | rfl <;> simp

/-! ## Dies, teams and groups after an update -/

theorem getElem?_updAt {α : Type} (l : List α) (k j : Nat) (f : α → α) :
    (Bits.updAt l k f)[j]? = if j = k then l[k]?.map f else l[j]? := by
  induction l generalizing k j with
  | nil => cases k <;> simp [Bits.updAt]
  | cons x r ih =>
    cases k with
    | zero => cases j <;> simp [Bits.updAt]
    | succ k => cases j <;> simp [Bits.updAt, ih]

@[simp] theorem length_updAt {α : Type} (l : List α) (k : Nat) (f : α → α) : (Bits.updAt l k f).length = l.length := by
  induction l generalizing k with
  | nil => cases k <;> rfl
  | cons x r ih => cases k <;> simp [Bits.updAt, ih]

@[simp] theorem die_updDie (s : State) (d e : Nat) (f : Die → Die) :
    (s.updDie d f).die e = if e = d ∧ d < s.dies.length then f (s.die d) else s.die e := by
  simp only [State.die, State.updDie, List.getD_eq_getElem?_getD, getElem?_updAt]
  by_cases h : e = d
  · subst h
    by_cases h2 : e < s.dies.length
    · simp [h2]
    · simp [h2]
  · simp [h]

@[simp] theorem dies_length_updDie (s : State) (d : Nat) (f : Die → Die) :
    (s.updDie d f).dies.length = s.dies.length := by
  simp [State.updDie]

/-- A team stands only on a die of the package. -/
theorem lt_of_team (s : State) (d c : Nat) (t : Team) (h : s.team? d c = some t) : d < s.dies.length := by
  by_cases hd : d < s.dies.length
  · exact hd
  · simp [State.team?, State.die, List.getD_eq_getElem?_getD, hd] at h

/-- A team after an update of it, or of another. -/
@[simp] theorem team?_updTeam (s : State) (d c e b : Nat) (f : Team → Team) :
    (s.updTeam d c f).team? e b = if e = d ∧ b = c then (s.team? d c).map f else s.team? e b := by
  by_cases hd : d < s.dies.length
  · by_cases he : e = d
    · subst he
      simp only [State.team?, State.updTeam, die_updDie, hd, and_self, if_true, true_and]
      cases ht : (s.die e).teams.find? c with
      | none => by_cases hb : b = c <;> simp [hb, ht]
      | some t => rw [SMap.find?_insert]; by_cases hb : b = c <;> simp [hb]
    · simp [State.team?, State.updTeam, he]
  · have hn : s.team? d c = none := by
      cases h : s.team? d c with
      | none => rfl
      | some t => exact absurd (lt_of_team s d c t h) hd
    by_cases he : e = d ∧ b = c
    · obtain ⟨rfl, rfl⟩ := he
      simp [State.updTeam, State.team?, hd] at hn ⊢
      simp [hn]
    · simp [State.updTeam, State.team?, hd, he]

@[simp] theorem team?_updGroup (s : State) (d c g e b : Nat) (f : Group → Group) :
    (s.updGroup d c g f).team? e b =
      if e = d ∧ b = c then (s.team? d c).map (fun t => { t with groups := Bits.updAt t.groups g f }) else s.team? e b :=
  team?_updTeam s d c e b _

@[simp] theorem team?_updComp (s : State) (d c e b : Nat) (f : Composer → Composer) :
    (s.updComp d c f).team? e b =
      if e = d ∧ b = c then (s.team? d c).map (fun t => { t with comp := f t.comp }) else s.team? e b :=
  team?_updTeam s d c e b _

/-- A group after an update of it, or of another. -/
@[simp] theorem group?_updGroup (s : State) (d c g e b h : Nat) (f : Group → Group) :
    (s.updGroup d c g f).group? e b h =
      if e = d ∧ b = c ∧ h = g then (s.group? d c g).map f else s.group? e b h := by
  simp only [State.group?, team?_updGroup]
  by_cases h1 : e = d ∧ b = c
  · obtain ⟨rfl, rfl⟩ := h1
    simp only [and_self, if_true, true_and]
    cases s.team? e b with
    | none => by_cases hh : h = g <;> simp [hh]
    | some t => simp only [Option.map_some, Option.bind_some, getElem?_updAt]
  · have h2 : ¬ (e = d ∧ b = c ∧ h = g) := fun h => h1 ⟨h.1, h.2.1⟩
    simp [h1, h2]

@[simp] theorem group?_updComp (s : State) (d c e b h : Nat) (f : Composer → Composer) :
    (s.updComp d c f).group? e b h = s.group? e b h := by
  simp only [State.group?, team?_updComp]
  by_cases h1 : e = d ∧ b = c
  · obtain ⟨rfl, rfl⟩ := h1
    simp only [and_self, if_true]
    cases s.team? e b <;> rfl
  · simp [h1]

/-! ## Updates one after the other -/

theorem updAt_updAt {α : Type} (l : List α) (k : Nat) (f h : α → α) :
    Bits.updAt (Bits.updAt l k f) k h = Bits.updAt l k fun x => h (f x) := by
  induction l generalizing k with
  | nil => cases k <;> rfl
  | cons x r ih => cases k <;> simp [Bits.updAt, ih]

theorem updAt_congr {α : Type} (l : List α) (k : Nat) (f h : α → α) (e : ∀ x, l[k]? = some x → f x = h x) :
    Bits.updAt l k f = Bits.updAt l k h := by
  induction l generalizing k with
  | nil => cases k <;> rfl
  | cons x r ih =>
    cases k with
    | zero => simp [Bits.updAt, e x]
    | succ k => simp only [Bits.updAt]; rw [ih k fun y hy => e y (by simpa using hy)]

theorem insert_insert {α : Type} (m : SMap α) (k : Nat) (x y : α) : (m.insert k x).insert k y = m.insert k y := by
  induction m with
  | nil => simp [SMap.insert]
  | cons e r ih =>
    obtain ⟨j, z⟩ := e
    by_cases h1 : k < j
    · simp [SMap.insert, h1]
    · by_cases h2 : k = j
      · simp [SMap.insert, h2]
      · simp [SMap.insert, h1, h2, ih]

theorem updDie_updDie (s : State) (d : Nat) (f h : Die → Die) :
    (s.updDie d f).updDie d h = s.updDie d fun x => h (f x) := by
  simp [State.updDie, updAt_updAt]

theorem updTeam_updTeam (s : State) (d c : Nat) (f h : Team → Team) :
    (s.updTeam d c f).updTeam d c h = s.updTeam d c fun t => h (f t) := by
  simp only [State.updTeam, updDie_updDie]
  congr 1
  funext x
  cases hx : x.teams.find? c with
  | none => simp [hx]
  | some t => simp [SMap.find?_insert, insert_insert]

theorem updComp_eq (s : State) (d c : Nat) (f : Composer → Composer) :
    s.updComp d c f = s.updTeam d c fun t => { t with comp := f t.comp } := rfl

theorem updGroup_eq (s : State) (d c g : Nat) (f : Group → Group) :
    s.updGroup d c g f = s.updTeam d c fun t => { t with groups := Bits.updAt t.groups g f } := rfl

/-- The function of an update matters only at the team that is there. -/
theorem updTeam_congr (s : State) (d c : Nat) (t : Team) (f h : Team → Team) (ht : s.team? d c = some t)
    (e : f t = h t) : s.updTeam d c f = s.updTeam d c h := by
  simp only [State.updTeam, State.updDie]
  congr 1
  apply updAt_congr
  intro x hx
  have : s.die d = x := by simp [State.die, List.getD_eq_getElem?_getD, hx]
  simp only [State.team?, this] at ht
  simp [ht, e]

/-- An update of a team that is there puts the new team in its place. -/
theorem updTeam_const (s : State) (d c : Nat) (t : Team) (f : Team → Team) (ht : s.team? d c = some t) :
    s.updTeam d c f = s.updTeam d c fun _ => f t := updTeam_congr s d c t _ _ ht rfl

end Sys2Proof.Machine
end

