-- ==== Sys2Proof/Laws/Composer.lean ====
section
/-! SUPPORT. What a step of a composer is, once the effect of its instruction is known. -/

namespace Sys2Proof.Machine

open Sys2Proof

/-- An instruction that changes the composer's team to `u` and goes on at `pc`. -/
theorem execComposer_team (m : Nat → Nat → Team → State → CRes) (s : State) (d c : Nat) (t u : Team) (pc : Word64)
    (hc : s.cur = .composer d c) (ht : s.team? d c = some t) (hr : compReady t = true)
    (hd : u.comp.dbgStep = false)
    (hm : m d c t s = .next (s.updTeam d c fun _ => u) ∧ pc = t.comp.pc + 4 ∨
      m d c t s = .jump (s.updTeam d c fun _ => u) pc) :
    execComposer m s =
      .next (s.updTeam d c fun _ => { u with comp := { u.comp with pc := pc, walkFail := [] } }) := by
  have key : compStepped (setPc (s.updTeam d c fun _ => u) d c pc) d c =
      s.updTeam d c fun _ => { u with comp := { u.comp with pc := pc, walkFail := [] } } := by
    simp only [setPc, updComp_eq, updTeam_updTeam, compStepped, team?_updTeam, and_self, if_true, ht, Option.map_some, hd,
      Bool.false_and]
    rfl
  rcases hm with ⟨hm, rfl⟩ | hm <;> rw [← key] <;> simp [execComposer, hc, ht, hr, hm]

/-- An instruction that waits. -/
theorem execComposer_wait (m : Nat → Nat → Team → State → CRes) (s s' : State) (d c : Nat) (t : Team)
    (hc : s.cur = .composer d c) (ht : s.team? d c = some t) (hr : compReady t = true)
    (hm : m d c t s = .wait s') : execComposer m s = .next s' := by
  simp [execComposer, hc, ht, hr, hm]

/-- An instruction that faults. -/
theorem execComposer_fault (m : Nat → Nat → Team → State → CRes) (s s' : State) (f : FaultInfo) (d c : Nat) (t : Team)
    (hc : s.cur = .composer d c) (ht : s.team? d c = some t) (hr : compReady t = true)
    (hm : m d c t s = .fault f s') : execComposer m s = .next (takeCompFault s' d c f) := by
  simp [execComposer, hc, ht, hr, hm]

/-- An instruction that only changes the composer, and goes on at `pc`. -/
theorem execComposer_comp (m : Nat → Nat → Team → State → CRes) (s : State) (d c : Nat) (t : Team) (pc : Word64)
    (f : Composer → Composer)
    (hc : s.cur = .composer d c) (ht : s.team? d c = some t) (hr : compReady t = true)
    (hd : (f t.comp).dbgStep = false)
    (hm : m d c t s = .next (s.updComp d c f) ∧ pc = t.comp.pc + 4 ∨ m d c t s = .jump (s.updComp d c f) pc) :
    execComposer m s = .next (s.updComp d c fun k => { f k with pc := pc, walkFail := [] }) := by
  have e : s.updComp d c f = s.updTeam d c fun _ => { t with comp := f t.comp } := updTeam_const s d c t _ ht
  rw [execComposer_team m s d c t { t with comp := f t.comp } pc hc ht hr hd (by rwa [← e])]
  exact congrArg _ (updTeam_const s d c t
    (fun t => { t with comp := { f t.comp with pc := pc, walkFail := [] } }) ht).symm

end Sys2Proof.Machine
end

