-- ==== Sys2Proof/Laws/Lane.lean ====
section
/-! SUPPORT. What a step of a PC slot is, once the effect of its instruction is known. -/

namespace Sys2Proof.Machine

open Sys2Proof

/-- The step of a lane instruction, by what its effect answers. -/
def laneOutcome (s : State) (d c g sl : Nat) (cls : PClass) (p : Nat) (r : LRes) : State :=
  let r0 := laneRecord s d c g sl { code := 0 }
  match r with
  | .done s' => finishLane (advanceSlot (started s' d c g sl cls p) d c g sl) d c g r0
  | .moved s' => finishLane (started s' d c g sl cls p) d c g r0
  | .held s' => started s' d c g sl cls p
  | .wait s' => s'
  | .fault f s' => takeLaneFault (noWait s' d (slotUnit c g sl)) d c g sl f
  | .stop f s' =>
    stopBehind (advanceSlot (charge (noWait s' d (slotUnit c g sl)) d c cls p) d c g sl) d c g sl r0
      { r0 with code := f.code, mask := f.mask, access := f.access, aux := f.aux }

/-- An instruction that may issue, with active strands or structural, has its effect. -/
theorem execLaneWith_issue (k : LaneKind) (price : LaneCtx → State → Nat) (m : LaneCtx → State → LRes) (s : State)
    (d c g sl : Nat) (t : Team) (x : Group) (hc : s.cur = .lane d c g sl) (ht : s.team? d c = some t)
    (hg : s.group? d c g = some x) (hr : laneReady t x sl = true) (hq : k.behindLoads = true ∨ x.unbound = false)
    (ha : x.active sl ≠ 0 ∨ k.structural = true)
    (hp : mayStart s d c k.cls (price { d, c, g, sl, t, x, act := x.active sl } s) = true) :
    execLaneWith k price m s =
      .next (laneOutcome s d c g sl k.cls (price { d, c, g, sl, t, x, act := x.active sl } s)
        (m { d, c, g, sl, t, x, act := x.active sl } s)) := by
  have q : (!k.behindLoads && x.unbound) = false := by rcases hq with h | h <;> simp [h]
  have a : (decide (x.active sl = 0) && !k.structural) = false := by
    rcases ha with h | h
    · rw [decide_eq_false h]; rfl
    · simp [h]
  simp only [execLaneWith, hc, ht, hg, hr, q, hp, a, laneOutcome, Bool.not_true, Bool.or_false, Bool.false_eq_true,
    if_false]
  split <;> simp_all

/-- Without an active strand an instruction that is not structural completes without effect (05 R162). -/
theorem execLaneWith_inactive (k : LaneKind) (price : LaneCtx → State → Nat) (m : LaneCtx → State → LRes) (s : State)
    (d c g sl : Nat) (t : Team) (x : Group) (hc : s.cur = .lane d c g sl) (ht : s.team? d c = some t)
    (hg : s.group? d c g = some x) (hr : laneReady t x sl = true) (hq : k.behindLoads = true ∨ x.unbound = false)
    (ha : x.active sl = 0) (hk : k.structural = false)
    (hp : mayStart s d c k.cls (price { d, c, g, sl, t, x, act := x.active sl } s) = true) :
    execLaneWith k price m s =
      .next (laneOutcome s d c g sl k.cls (price { d, c, g, sl, t, x, act := x.active sl } s)
        (.done s)) := by
  have q : (!k.behindLoads && x.unbound) = false := by rcases hq with h | h <;> simp [h]
  rw [ha] at hp ⊢
  simp [execLaneWith, hc, ht, hg, hr, q, ha, hk, laneOutcome]
  exact fun e => absurd (hp.symm.trans e) (by decide)

/-- An instruction that may not start waits and changes nothing else: where its tokens are what it lacks it is counted
waiting for them, and where its launch's quota is spent it is not (12 R370, R372, 11 R363). -/
theorem execLaneWith_unpaid (k : LaneKind) (price : LaneCtx → State → Nat) (m : LaneCtx → State → LRes) (s : State)
    (d c g sl : Nat) (t : Team) (x : Group) (hc : s.cur = .lane d c g sl) (ht : s.team? d c = some t)
    (hg : s.group? d c g = some x) (hr : laneReady t x sl = true) (hq : k.behindLoads = true ∨ x.unbound = false)
    (hp : mayStart s d c k.cls (price { d, c, g, sl, t, x, act := x.active sl } s) = false) :
    execLaneWith k price m s =
      .next (if permitCovers s d c k.cls (price { d, c, g, sl, t, x, act := x.active sl } s) then s
        else noteWait s d (slotUnit c g sl) (price { d, c, g, sl, t, x, act := x.active sl } s)) := by
  have q : (!k.behindLoads && x.unbound) = false := by rcases hq with h | h <;> simp [h]
  simp [execLaneWith, hc, ht, hg, hr, q, hp]

end Sys2Proof.Machine
end

