-- ==== Sys2Proof/Laws/PerInstr.lean ====
section
/-! SUPPORT. One statement per instruction about its coding: what the encoder builds, the decoder reads back with every
operand. -/

set_option linter.unusedSimpArgs false

namespace Sys2Proof.Laws.Coding

open Sys2Proof Decode Encode

/-- A well-formed instruction has a word, and the decoder reads the instruction from it. -/
def Statement (i : Instr) : Prop :=
  wellFormed i = true → ∃ n w, encode i = some (n, w) ∧ decodeTableWord n w = some i

/-- A composer instruction whose word decodes to it meets the statement. -/
theorem of_composer (i : Instr) (w : Word32) (he : encodeComposer i = some w)
    (hd : wellFormed i = true → decodeComposer w = .ok i) : Statement i := fun h =>
  ⟨32, w.toNat, by simp [encode, he], by simp [decodeTableWord, hd h]⟩

/-- A lane instruction whose word has its fields meets the statement. -/
theorem of_lane (i : Instr) (w : Word64) (hc : encodeComposer i = none) (he : encodeLane i = some w)
    (hk : wellFormed i = true → Checks.lane 192 i = none) (hs : spareZero w i = true)
    (hd : wellFormed i = true → laneFields w = .ok i) : Statement i := fun h =>
  ⟨64, w.toNat, by simp [encode, hc, he], by simp [decodeTableWord, decodeLane, hd h, hs, hk h]⟩

/-- A lane instruction is well formed when no check of its word fails. -/
theorem checks_of_wellFormed (i : Instr) (hc : WellFormed.isComposer i = false) (hl : WellFormed.isLane i = true)
    (h : wellFormed i = true) : Checks.lane 192 i = none := by
  simpa [wellFormed, hc, hl] using h

/-- A composer instruction is well formed when no sub-field of its word is reserved. -/
theorem composer_of_wellFormed (i : Instr) (hc : WellFormed.isComposer i = true) (h : wellFormed i = true) :
    Checks.composer i = true := by
  simpa [wellFormed, hc] using h

/-- The operation codes of FEOP. -/
theorem setf_szf (o : MOps) (h : Checks.lane 192 (.lFeopSetf o) = none) : o.szf = 0 := by
  have h3 : Checks.m3 (.lFeopSetf o) = true := by
    cases hm : Checks.m3 (.lFeopSetf o)
    · simp only [Checks.lane, Checks.vUse, Checks.mOps, hm] at h
      split at h <;> simp at h
    · rfl
  simpa [Checks.m3, Checks.sizeOk] using h3

theorem sete_szf (o : MOps) (h : Checks.lane 192 (.lFeopSete o) = none) : o.szf = 1 := by
  have h3 : Checks.m3 (.lFeopSete o) = true := by
    cases hm : Checks.m3 (.lFeopSete o)
    · simp only [Checks.lane, Checks.vUse, Checks.mOps, hm] at h
      split at h <;> simp at h
    · rfl
  simpa [Checks.m3, Checks.sizeOk] using h3

theorem rdf_szf (o : MOps) (h : Checks.lane 192 (.lFeopRdf o) = none) : o.szf = 2 := by
  have h3 : Checks.m3 (.lFeopRdf o) = true := by
    cases hm : Checks.m3 (.lFeopRdf o)
    · simp only [Checks.lane, Checks.vUse, Checks.mOps, hm] at h
      split at h <;> simp at h
    · rfl
  simpa [Checks.m3, Checks.sizeOk] using h3

/-- A word with an absent composer opcode decodes to its row. -/
theorem absent_decodes (w : Word32) (h : WellFormed.absentComposer w = true) :
    decodeComposer w = .ok (.xAbsentComposerOpcode w) := by
  unfold WellFormed.absentComposer at h
  unfold decodeComposer
  split
  case h_1 hm =>
    have hc : w.extractLsb' 26 6 = 0#6 := BitVec.eq_of_toNat_eq (by simpa [cMajor] using hm)
    simp only [hc, WellFormed.majors] at h
    unfold cAlu
    split <;> first | rfl | (rename_i hf; simp only [cFn] at hf; simp [hf, WellFormed.aluCodes] at h)
  all_goals first | rfl | (rename_i hm; simp only [cMajor] at hm; simp [hm, WellFormed.majors] at h)

/-- An unallocated lane opcode has the row of the unallocated opcodes. -/
theorem unallocated_arm (n : Nat) (v : VOps) (i : IOps) (m : MOps) (c : COps) (x : XOps) (w : Word64)
    (h : WellFormed.unallocated n = true) : laneArm n v i m c x w = .ok (.xUnallocatedLaneOpcode w) := by
  unfold laneArm
  split <;> first | rfl | exact absurd h (by decide)

/-- No word encodes an event. -/
theorem of_event (i : Instr) (h : wellFormed i = false) : Statement i := fun h' => by simp [h] at h'

theorem cAdd (d a b : BitVec 5) : Statement (.cAdd d a b) :=
  of_composer _ _ rfl fun h => by
    have h1 := composer_of_wellFormed _ rfl h
    simp [cMajor_cr, cD_cr, cA_cr, cB_cr, cFn_cr, cMajor_ci, cD_ci, cA_ci, cImm_ci, cMajor_cj, cD_cj, cOff21_cj, sh_zero, sh_n, lp_zero, lp_l, lp_p, zso_z, zso_s, zso_o, amo_o, amo_s, amo_z, amo_r, amo_c, amo_zero, fence_hi, fence_k, fence_c, fence_lo, c6_c, c6_zero, spr_zero, spr_s, decodeComposer, cOk, cAlu, cGctl, h1]

theorem cSub (d a b : BitVec 5) : Statement (.cSub d a b) :=
  of_composer _ _ rfl fun h => by
    have h1 := composer_of_wellFormed _ rfl h
    simp [cMajor_cr, cD_cr, cA_cr, cB_cr, cFn_cr, cMajor_ci, cD_ci, cA_ci, cImm_ci, cMajor_cj, cD_cj, cOff21_cj, sh_zero, sh_n, lp_zero, lp_l, lp_p, zso_z, zso_s, zso_o, amo_o, amo_s, amo_z, amo_r, amo_c, amo_zero, fence_hi, fence_k, fence_c, fence_lo, c6_c, c6_zero, spr_zero, spr_s, decodeComposer, cOk, cAlu, cGctl, h1]

theorem cMul (d a b : BitVec 5) : Statement (.cMul d a b) :=
  of_composer _ _ rfl fun h => by
    have h1 := composer_of_wellFormed _ rfl h
    simp [cMajor_cr, cD_cr, cA_cr, cB_cr, cFn_cr, cMajor_ci, cD_ci, cA_ci, cImm_ci, cMajor_cj, cD_cj, cOff21_cj, sh_zero, sh_n, lp_zero, lp_l, lp_p, zso_z, zso_s, zso_o, amo_o, amo_s, amo_z, amo_r, amo_c, amo_zero, fence_hi, fence_k, fence_c, fence_lo, c6_c, c6_zero, spr_zero, spr_s, decodeComposer, cOk, cAlu, cGctl, h1]

theorem cMulh (d a b : BitVec 5) : Statement (.cMulh d a b) :=
  of_composer _ _ rfl fun h => by
    have h1 := composer_of_wellFormed _ rfl h
    simp [cMajor_cr, cD_cr, cA_cr, cB_cr, cFn_cr, cMajor_ci, cD_ci, cA_ci, cImm_ci, cMajor_cj, cD_cj, cOff21_cj, sh_zero, sh_n, lp_zero, lp_l, lp_p, zso_z, zso_s, zso_o, amo_o, amo_s, amo_z, amo_r, amo_c, amo_zero, fence_hi, fence_k, fence_c, fence_lo, c6_c, c6_zero, spr_zero, spr_s, decodeComposer, cOk, cAlu, cGctl, h1]

theorem cDivu (d a b : BitVec 5) : Statement (.cDivu d a b) :=
  of_composer _ _ rfl fun h => by
    have h1 := composer_of_wellFormed _ rfl h
    simp [cMajor_cr, cD_cr, cA_cr, cB_cr, cFn_cr, cMajor_ci, cD_ci, cA_ci, cImm_ci, cMajor_cj, cD_cj, cOff21_cj, sh_zero, sh_n, lp_zero, lp_l, lp_p, zso_z, zso_s, zso_o, amo_o, amo_s, amo_z, amo_r, amo_c, amo_zero, fence_hi, fence_k, fence_c, fence_lo, c6_c, c6_zero, spr_zero, spr_s, decodeComposer, cOk, cAlu, cGctl, h1]

theorem cRemu (d a b : BitVec 5) : Statement (.cRemu d a b) :=
  of_composer _ _ rfl fun h => by
    have h1 := composer_of_wellFormed _ rfl h
    simp [cMajor_cr, cD_cr, cA_cr, cB_cr, cFn_cr, cMajor_ci, cD_ci, cA_ci, cImm_ci, cMajor_cj, cD_cj, cOff21_cj, sh_zero, sh_n, lp_zero, lp_l, lp_p, zso_z, zso_s, zso_o, amo_o, amo_s, amo_z, amo_r, amo_c, amo_zero, fence_hi, fence_k, fence_c, fence_lo, c6_c, c6_zero, spr_zero, spr_s, decodeComposer, cOk, cAlu, cGctl, h1]

theorem cAnd (d a b : BitVec 5) : Statement (.cAnd d a b) :=
  of_composer _ _ rfl fun h => by
    have h1 := composer_of_wellFormed _ rfl h
    simp [cMajor_cr, cD_cr, cA_cr, cB_cr, cFn_cr, cMajor_ci, cD_ci, cA_ci, cImm_ci, cMajor_cj, cD_cj, cOff21_cj, sh_zero, sh_n, lp_zero, lp_l, lp_p, zso_z, zso_s, zso_o, amo_o, amo_s, amo_z, amo_r, amo_c, amo_zero, fence_hi, fence_k, fence_c, fence_lo, c6_c, c6_zero, spr_zero, spr_s, decodeComposer, cOk, cAlu, cGctl, h1]

theorem cOr (d a b : BitVec 5) : Statement (.cOr d a b) :=
  of_composer _ _ rfl fun h => by
    have h1 := composer_of_wellFormed _ rfl h
    simp [cMajor_cr, cD_cr, cA_cr, cB_cr, cFn_cr, cMajor_ci, cD_ci, cA_ci, cImm_ci, cMajor_cj, cD_cj, cOff21_cj, sh_zero, sh_n, lp_zero, lp_l, lp_p, zso_z, zso_s, zso_o, amo_o, amo_s, amo_z, amo_r, amo_c, amo_zero, fence_hi, fence_k, fence_c, fence_lo, c6_c, c6_zero, spr_zero, spr_s, decodeComposer, cOk, cAlu, cGctl, h1]

theorem cXor (d a b : BitVec 5) : Statement (.cXor d a b) :=
  of_composer _ _ rfl fun h => by
    have h1 := composer_of_wellFormed _ rfl h
    simp [cMajor_cr, cD_cr, cA_cr, cB_cr, cFn_cr, cMajor_ci, cD_ci, cA_ci, cImm_ci, cMajor_cj, cD_cj, cOff21_cj, sh_zero, sh_n, lp_zero, lp_l, lp_p, zso_z, zso_s, zso_o, amo_o, amo_s, amo_z, amo_r, amo_c, amo_zero, fence_hi, fence_k, fence_c, fence_lo, c6_c, c6_zero, spr_zero, spr_s, decodeComposer, cOk, cAlu, cGctl, h1]

theorem cShl (d a b : BitVec 5) : Statement (.cShl d a b) :=
  of_composer _ _ rfl fun h => by
    have h1 := composer_of_wellFormed _ rfl h
    simp [cMajor_cr, cD_cr, cA_cr, cB_cr, cFn_cr, cMajor_ci, cD_ci, cA_ci, cImm_ci, cMajor_cj, cD_cj, cOff21_cj, sh_zero, sh_n, lp_zero, lp_l, lp_p, zso_z, zso_s, zso_o, amo_o, amo_s, amo_z, amo_r, amo_c, amo_zero, fence_hi, fence_k, fence_c, fence_lo, c6_c, c6_zero, spr_zero, spr_s, decodeComposer, cOk, cAlu, cGctl, h1]

theorem cShr (d a b : BitVec 5) : Statement (.cShr d a b) :=
  of_composer _ _ rfl fun h => by
    have h1 := composer_of_wellFormed _ rfl h
    simp [cMajor_cr, cD_cr, cA_cr, cB_cr, cFn_cr, cMajor_ci, cD_ci, cA_ci, cImm_ci, cMajor_cj, cD_cj, cOff21_cj, sh_zero, sh_n, lp_zero, lp_l, lp_p, zso_z, zso_s, zso_o, amo_o, amo_s, amo_z, amo_r, amo_c, amo_zero, fence_hi, fence_k, fence_c, fence_lo, c6_c, c6_zero, spr_zero, spr_s, decodeComposer, cOk, cAlu, cGctl, h1]

theorem cSra (d a b : BitVec 5) : Statement (.cSra d a b) :=
  of_composer _ _ rfl fun h => by
    have h1 := composer_of_wellFormed _ rfl h
    simp [cMajor_cr, cD_cr, cA_cr, cB_cr, cFn_cr, cMajor_ci, cD_ci, cA_ci, cImm_ci, cMajor_cj, cD_cj, cOff21_cj, sh_zero, sh_n, lp_zero, lp_l, lp_p, zso_z, zso_s, zso_o, amo_o, amo_s, amo_z, amo_r, amo_c, amo_zero, fence_hi, fence_k, fence_c, fence_lo, c6_c, c6_zero, spr_zero, spr_s, decodeComposer, cOk, cAlu, cGctl, h1]

theorem cSlt (d a b : BitVec 5) : Statement (.cSlt d a b) :=
  of_composer _ _ rfl fun h => by
    have h1 := composer_of_wellFormed _ rfl h
    simp [cMajor_cr, cD_cr, cA_cr, cB_cr, cFn_cr, cMajor_ci, cD_ci, cA_ci, cImm_ci, cMajor_cj, cD_cj, cOff21_cj, sh_zero, sh_n, lp_zero, lp_l, lp_p, zso_z, zso_s, zso_o, amo_o, amo_s, amo_z, amo_r, amo_c, amo_zero, fence_hi, fence_k, fence_c, fence_lo, c6_c, c6_zero, spr_zero, spr_s, decodeComposer, cOk, cAlu, cGctl, h1]

theorem cSltu (d a b : BitVec 5) : Statement (.cSltu d a b) :=
  of_composer _ _ rfl fun h => by
    have h1 := composer_of_wellFormed _ rfl h
    simp [cMajor_cr, cD_cr, cA_cr, cB_cr, cFn_cr, cMajor_ci, cD_ci, cA_ci, cImm_ci, cMajor_cj, cD_cj, cOff21_cj, sh_zero, sh_n, lp_zero, lp_l, lp_p, zso_z, zso_s, zso_o, amo_o, amo_s, amo_z, amo_r, amo_c, amo_zero, fence_hi, fence_k, fence_c, fence_lo, c6_c, c6_zero, spr_zero, spr_s, decodeComposer, cOk, cAlu, cGctl, h1]

theorem cMin (d a b : BitVec 5) : Statement (.cMin d a b) :=
  of_composer _ _ rfl fun h => by
    have h1 := composer_of_wellFormed _ rfl h
    simp [cMajor_cr, cD_cr, cA_cr, cB_cr, cFn_cr, cMajor_ci, cD_ci, cA_ci, cImm_ci, cMajor_cj, cD_cj, cOff21_cj, sh_zero, sh_n, lp_zero, lp_l, lp_p, zso_z, zso_s, zso_o, amo_o, amo_s, amo_z, amo_r, amo_c, amo_zero, fence_hi, fence_k, fence_c, fence_lo, c6_c, c6_zero, spr_zero, spr_s, decodeComposer, cOk, cAlu, cGctl, h1]

theorem cMax (d a b : BitVec 5) : Statement (.cMax d a b) :=
  of_composer _ _ rfl fun h => by
    have h1 := composer_of_wellFormed _ rfl h
    simp [cMajor_cr, cD_cr, cA_cr, cB_cr, cFn_cr, cMajor_ci, cD_ci, cA_ci, cImm_ci, cMajor_cj, cD_cj, cOff21_cj, sh_zero, sh_n, lp_zero, lp_l, lp_p, zso_z, zso_s, zso_o, amo_o, amo_s, amo_z, amo_r, amo_c, amo_zero, fence_hi, fence_k, fence_c, fence_lo, c6_c, c6_zero, spr_zero, spr_s, decodeComposer, cOk, cAlu, cGctl, h1]

theorem cAddi (d a : BitVec 5) (i : BitVec 16) : Statement (.cAddi d a i) :=
  of_composer _ _ rfl fun h => by
    have h1 := composer_of_wellFormed _ rfl h
    simp [cMajor_cr, cD_cr, cA_cr, cB_cr, cFn_cr, cMajor_ci, cD_ci, cA_ci, cImm_ci, cMajor_cj, cD_cj, cOff21_cj, sh_zero, sh_n, lp_zero, lp_l, lp_p, zso_z, zso_s, zso_o, amo_o, amo_s, amo_z, amo_r, amo_c, amo_zero, fence_hi, fence_k, fence_c, fence_lo, c6_c, c6_zero, spr_zero, spr_s, decodeComposer, cOk, cAlu, cGctl, h1]

theorem cAndi (d a : BitVec 5) (i : BitVec 16) : Statement (.cAndi d a i) :=
  of_composer _ _ rfl fun h => by
    have h1 := composer_of_wellFormed _ rfl h
    simp [cMajor_cr, cD_cr, cA_cr, cB_cr, cFn_cr, cMajor_ci, cD_ci, cA_ci, cImm_ci, cMajor_cj, cD_cj, cOff21_cj, sh_zero, sh_n, lp_zero, lp_l, lp_p, zso_z, zso_s, zso_o, amo_o, amo_s, amo_z, amo_r, amo_c, amo_zero, fence_hi, fence_k, fence_c, fence_lo, c6_c, c6_zero, spr_zero, spr_s, decodeComposer, cOk, cAlu, cGctl, h1]

theorem cOri (d a : BitVec 5) (i : BitVec 16) : Statement (.cOri d a i) :=
  of_composer _ _ rfl fun h => by
    have h1 := composer_of_wellFormed _ rfl h
    simp [cMajor_cr, cD_cr, cA_cr, cB_cr, cFn_cr, cMajor_ci, cD_ci, cA_ci, cImm_ci, cMajor_cj, cD_cj, cOff21_cj, sh_zero, sh_n, lp_zero, lp_l, lp_p, zso_z, zso_s, zso_o, amo_o, amo_s, amo_z, amo_r, amo_c, amo_zero, fence_hi, fence_k, fence_c, fence_lo, c6_c, c6_zero, spr_zero, spr_s, decodeComposer, cOk, cAlu, cGctl, h1]

theorem cXori (d a : BitVec 5) (i : BitVec 16) : Statement (.cXori d a i) :=
  of_composer _ _ rfl fun h => by
    have h1 := composer_of_wellFormed _ rfl h
    simp [cMajor_cr, cD_cr, cA_cr, cB_cr, cFn_cr, cMajor_ci, cD_ci, cA_ci, cImm_ci, cMajor_cj, cD_cj, cOff21_cj, sh_zero, sh_n, lp_zero, lp_l, lp_p, zso_z, zso_s, zso_o, amo_o, amo_s, amo_z, amo_r, amo_c, amo_zero, fence_hi, fence_k, fence_c, fence_lo, c6_c, c6_zero, spr_zero, spr_s, decodeComposer, cOk, cAlu, cGctl, h1]

theorem cShli (d a : BitVec 5) (n : BitVec 6) : Statement (.cShli d a n) :=
  of_composer _ _ rfl fun h => by
    have h1 := composer_of_wellFormed _ rfl h
    simp [cMajor_cr, cD_cr, cA_cr, cB_cr, cFn_cr, cMajor_ci, cD_ci, cA_ci, cImm_ci, cMajor_cj, cD_cj, cOff21_cj, sh_zero, sh_n, lp_zero, lp_l, lp_p, zso_z, zso_s, zso_o, amo_o, amo_s, amo_z, amo_r, amo_c, amo_zero, fence_hi, fence_k, fence_c, fence_lo, c6_c, c6_zero, spr_zero, spr_s, decodeComposer, cOk, cAlu, cGctl, h1]

theorem cShri (d a : BitVec 5) (n : BitVec 6) : Statement (.cShri d a n) :=
  of_composer _ _ rfl fun h => by
    have h1 := composer_of_wellFormed _ rfl h
    simp [cMajor_cr, cD_cr, cA_cr, cB_cr, cFn_cr, cMajor_ci, cD_ci, cA_ci, cImm_ci, cMajor_cj, cD_cj, cOff21_cj, sh_zero, sh_n, lp_zero, lp_l, lp_p, zso_z, zso_s, zso_o, amo_o, amo_s, amo_z, amo_r, amo_c, amo_zero, fence_hi, fence_k, fence_c, fence_lo, c6_c, c6_zero, spr_zero, spr_s, decodeComposer, cOk, cAlu, cGctl, h1]

theorem cSrai (d a : BitVec 5) (n : BitVec 6) : Statement (.cSrai d a n) :=
  of_composer _ _ rfl fun h => by
    have h1 := composer_of_wellFormed _ rfl h
    simp [cMajor_cr, cD_cr, cA_cr, cB_cr, cFn_cr, cMajor_ci, cD_ci, cA_ci, cImm_ci, cMajor_cj, cD_cj, cOff21_cj, sh_zero, sh_n, lp_zero, lp_l, lp_p, zso_z, zso_s, zso_o, amo_o, amo_s, amo_z, amo_r, amo_c, amo_zero, fence_hi, fence_k, fence_c, fence_lo, c6_c, c6_zero, spr_zero, spr_s, decodeComposer, cOk, cAlu, cGctl, h1]

theorem cSlti (d a : BitVec 5) (i : BitVec 16) : Statement (.cSlti d a i) :=
  of_composer _ _ rfl fun h => by
    have h1 := composer_of_wellFormed _ rfl h
    simp [cMajor_cr, cD_cr, cA_cr, cB_cr, cFn_cr, cMajor_ci, cD_ci, cA_ci, cImm_ci, cMajor_cj, cD_cj, cOff21_cj, sh_zero, sh_n, lp_zero, lp_l, lp_p, zso_z, zso_s, zso_o, amo_o, amo_s, amo_z, amo_r, amo_c, amo_zero, fence_hi, fence_k, fence_c, fence_lo, c6_c, c6_zero, spr_zero, spr_s, decodeComposer, cOk, cAlu, cGctl, h1]

theorem cLui (d : BitVec 5) (i : BitVec 16) : Statement (.cLui d i) :=
  of_composer _ _ rfl fun h => by
    have h1 := composer_of_wellFormed _ rfl h
    simp [cMajor_cr, cD_cr, cA_cr, cB_cr, cFn_cr, cMajor_ci, cD_ci, cA_ci, cImm_ci, cMajor_cj, cD_cj, cOff21_cj, sh_zero, sh_n, lp_zero, lp_l, lp_p, zso_z, zso_s, zso_o, amo_o, amo_s, amo_z, amo_r, amo_c, amo_zero, fence_hi, fence_k, fence_c, fence_lo, c6_c, c6_zero, spr_zero, spr_s, decodeComposer, cOk, cAlu, cGctl, h1]

theorem cInsf (d a : BitVec 5) (l p : BitVec 6) : Statement (.cInsf d a l p) :=
  of_composer _ _ rfl fun h => by
    have h1 := composer_of_wellFormed _ rfl h
    simp [cMajor_cr, cD_cr, cA_cr, cB_cr, cFn_cr, cMajor_ci, cD_ci, cA_ci, cImm_ci, cMajor_cj, cD_cj, cOff21_cj, sh_zero, sh_n, lp_zero, lp_l, lp_p, zso_z, zso_s, zso_o, amo_o, amo_s, amo_z, amo_r, amo_c, amo_zero, fence_hi, fence_k, fence_c, fence_lo, c6_c, c6_zero, spr_zero, spr_s, decodeComposer, cOk, cAlu, cGctl, h1]

theorem cExtf (d a : BitVec 5) (l p : BitVec 6) : Statement (.cExtf d a l p) :=
  of_composer _ _ rfl fun h => by
    have h1 := composer_of_wellFormed _ rfl h
    simp [cMajor_cr, cD_cr, cA_cr, cB_cr, cFn_cr, cMajor_ci, cD_ci, cA_ci, cImm_ci, cMajor_cj, cD_cj, cOff21_cj, sh_zero, sh_n, lp_zero, lp_l, lp_p, zso_z, zso_s, zso_o, amo_o, amo_s, amo_z, amo_r, amo_c, amo_zero, fence_hi, fence_k, fence_c, fence_lo, c6_c, c6_zero, spr_zero, spr_s, decodeComposer, cOk, cAlu, cGctl, h1]

theorem cLd (d a : BitVec 5) (z s : BitVec 2) (o : BitVec 12) : Statement (.cLd d a z s o) :=
  of_composer _ _ rfl fun h => by
    have h1 := composer_of_wellFormed _ rfl h
    simp [cMajor_cr, cD_cr, cA_cr, cB_cr, cFn_cr, cMajor_ci, cD_ci, cA_ci, cImm_ci, cMajor_cj, cD_cj, cOff21_cj, sh_zero, sh_n, lp_zero, lp_l, lp_p, zso_z, zso_s, zso_o, amo_o, amo_s, amo_z, amo_r, amo_c, amo_zero, fence_hi, fence_k, fence_c, fence_lo, c6_c, c6_zero, spr_zero, spr_s, decodeComposer, cOk, cAlu, cGctl, h1]

theorem cSt (d a : BitVec 5) (z s : BitVec 2) (o : BitVec 12) : Statement (.cSt d a z s o) :=
  of_composer _ _ rfl fun h => by
    have h1 := composer_of_wellFormed _ rfl h
    simp [cMajor_cr, cD_cr, cA_cr, cB_cr, cFn_cr, cMajor_ci, cD_ci, cA_ci, cImm_ci, cMajor_cj, cD_cj, cOff21_cj, sh_zero, sh_n, lp_zero, lp_l, lp_p, zso_z, zso_s, zso_o, amo_o, amo_s, amo_z, amo_r, amo_c, amo_zero, fence_hi, fence_k, fence_c, fence_lo, c6_c, c6_zero, spr_zero, spr_s, decodeComposer, cOk, cAlu, cGctl, h1]

theorem cAmo (d a b : BitVec 5) (o : BitVec 2) (s : BitVec 1) (z r : BitVec 2) (c : BitVec 3) : Statement (.cAmo d a b o s z r c) :=
  of_composer _ _ rfl fun h => by
    have h1 := composer_of_wellFormed _ rfl h
    simp [cMajor_cr, cD_cr, cA_cr, cB_cr, cFn_cr, cMajor_ci, cD_ci, cA_ci, cImm_ci, cMajor_cj, cD_cj, cOff21_cj, sh_zero, sh_n, lp_zero, lp_l, lp_p, zso_z, zso_s, zso_o, amo_o, amo_s, amo_z, amo_r, amo_c, amo_zero, fence_hi, fence_k, fence_c, fence_lo, c6_c, c6_zero, spr_zero, spr_s, decodeComposer, cOk, cAlu, cGctl, h1]

theorem cFence (k : BitVec 2) (c : BitVec 3) : Statement (.cFence k c) :=
  of_composer _ _ rfl fun h => by
    have h1 := composer_of_wellFormed _ rfl h
    simp [cMajor_cr, cD_cr, cA_cr, cB_cr, cFn_cr, cMajor_ci, cD_ci, cA_ci, cImm_ci, cMajor_cj, cD_cj, cOff21_cj, sh_zero, sh_n, lp_zero, lp_l, lp_p, zso_z, zso_s, zso_o, amo_o, amo_s, amo_z, amo_r, amo_c, amo_zero, fence_hi, fence_k, fence_c, fence_lo, c6_c, c6_zero, spr_zero, spr_s, decodeComposer, cOk, cAlu, cGctl, h1]

theorem cBeq (a b : BitVec 5) (o : BitVec 16) : Statement (.cBeq a b o) :=
  of_composer _ _ rfl fun h => by
    have h1 := composer_of_wellFormed _ rfl h
    simp [cMajor_cr, cD_cr, cA_cr, cB_cr, cFn_cr, cMajor_ci, cD_ci, cA_ci, cImm_ci, cMajor_cj, cD_cj, cOff21_cj, sh_zero, sh_n, lp_zero, lp_l, lp_p, zso_z, zso_s, zso_o, amo_o, amo_s, amo_z, amo_r, amo_c, amo_zero, fence_hi, fence_k, fence_c, fence_lo, c6_c, c6_zero, spr_zero, spr_s, decodeComposer, cOk, cAlu, cGctl, h1]

theorem cBne (a b : BitVec 5) (o : BitVec 16) : Statement (.cBne a b o) :=
  of_composer _ _ rfl fun h => by
    have h1 := composer_of_wellFormed _ rfl h
    simp [cMajor_cr, cD_cr, cA_cr, cB_cr, cFn_cr, cMajor_ci, cD_ci, cA_ci, cImm_ci, cMajor_cj, cD_cj, cOff21_cj, sh_zero, sh_n, lp_zero, lp_l, lp_p, zso_z, zso_s, zso_o, amo_o, amo_s, amo_z, amo_r, amo_c, amo_zero, fence_hi, fence_k, fence_c, fence_lo, c6_c, c6_zero, spr_zero, spr_s, decodeComposer, cOk, cAlu, cGctl, h1]

theorem cBlt (a b : BitVec 5) (o : BitVec 16) : Statement (.cBlt a b o) :=
  of_composer _ _ rfl fun h => by
    have h1 := composer_of_wellFormed _ rfl h
    simp [cMajor_cr, cD_cr, cA_cr, cB_cr, cFn_cr, cMajor_ci, cD_ci, cA_ci, cImm_ci, cMajor_cj, cD_cj, cOff21_cj, sh_zero, sh_n, lp_zero, lp_l, lp_p, zso_z, zso_s, zso_o, amo_o, amo_s, amo_z, amo_r, amo_c, amo_zero, fence_hi, fence_k, fence_c, fence_lo, c6_c, c6_zero, spr_zero, spr_s, decodeComposer, cOk, cAlu, cGctl, h1]

theorem cBge (a b : BitVec 5) (o : BitVec 16) : Statement (.cBge a b o) :=
  of_composer _ _ rfl fun h => by
    have h1 := composer_of_wellFormed _ rfl h
    simp [cMajor_cr, cD_cr, cA_cr, cB_cr, cFn_cr, cMajor_ci, cD_ci, cA_ci, cImm_ci, cMajor_cj, cD_cj, cOff21_cj, sh_zero, sh_n, lp_zero, lp_l, lp_p, zso_z, zso_s, zso_o, amo_o, amo_s, amo_z, amo_r, amo_c, amo_zero, fence_hi, fence_k, fence_c, fence_lo, c6_c, c6_zero, spr_zero, spr_s, decodeComposer, cOk, cAlu, cGctl, h1]

theorem cBltu (a b : BitVec 5) (o : BitVec 16) : Statement (.cBltu a b o) :=
  of_composer _ _ rfl fun h => by
    have h1 := composer_of_wellFormed _ rfl h
    simp [cMajor_cr, cD_cr, cA_cr, cB_cr, cFn_cr, cMajor_ci, cD_ci, cA_ci, cImm_ci, cMajor_cj, cD_cj, cOff21_cj, sh_zero, sh_n, lp_zero, lp_l, lp_p, zso_z, zso_s, zso_o, amo_o, amo_s, amo_z, amo_r, amo_c, amo_zero, fence_hi, fence_k, fence_c, fence_lo, c6_c, c6_zero, spr_zero, spr_s, decodeComposer, cOk, cAlu, cGctl, h1]

theorem cBgeu (a b : BitVec 5) (o : BitVec 16) : Statement (.cBgeu a b o) :=
  of_composer _ _ rfl fun h => by
    have h1 := composer_of_wellFormed _ rfl h
    simp [cMajor_cr, cD_cr, cA_cr, cB_cr, cFn_cr, cMajor_ci, cD_ci, cA_ci, cImm_ci, cMajor_cj, cD_cj, cOff21_cj, sh_zero, sh_n, lp_zero, lp_l, lp_p, zso_z, zso_s, zso_o, amo_o, amo_s, amo_z, amo_r, amo_c, amo_zero, fence_hi, fence_k, fence_c, fence_lo, c6_c, c6_zero, spr_zero, spr_s, decodeComposer, cOk, cAlu, cGctl, h1]

theorem cJal (d : BitVec 5) (o : BitVec 21) : Statement (.cJal d o) :=
  of_composer _ _ rfl fun h => by
    have h1 := composer_of_wellFormed _ rfl h
    simp [cMajor_cr, cD_cr, cA_cr, cB_cr, cFn_cr, cMajor_ci, cD_ci, cA_ci, cImm_ci, cMajor_cj, cD_cj, cOff21_cj, sh_zero, sh_n, lp_zero, lp_l, lp_p, zso_z, zso_s, zso_o, amo_o, amo_s, amo_z, amo_r, amo_c, amo_zero, fence_hi, fence_k, fence_c, fence_lo, c6_c, c6_zero, spr_zero, spr_s, decodeComposer, cOk, cAlu, cGctl, h1]

theorem cJalr (d a : BitVec 5) (i : BitVec 16) : Statement (.cJalr d a i) :=
  of_composer _ _ rfl fun h => by
    have h1 := composer_of_wellFormed _ rfl h
    simp [cMajor_cr, cD_cr, cA_cr, cB_cr, cFn_cr, cMajor_ci, cD_ci, cA_ci, cImm_ci, cMajor_cj, cD_cj, cOff21_cj, sh_zero, sh_n, lp_zero, lp_l, lp_p, zso_z, zso_s, zso_o, amo_o, amo_s, amo_z, amo_r, amo_c, amo_zero, fence_hi, fence_k, fence_c, fence_lo, c6_c, c6_zero, spr_zero, spr_s, decodeComposer, cOk, cAlu, cGctl, h1]

theorem cEvwait (d : BitVec 5) : Statement (.cEvwait d) :=
  of_composer _ _ rfl fun h => by
    have h1 := composer_of_wellFormed _ rfl h
    simp [cMajor_cr, cD_cr, cA_cr, cB_cr, cFn_cr, cMajor_ci, cD_ci, cA_ci, cImm_ci, cMajor_cj, cD_cj, cOff21_cj, sh_zero, sh_n, lp_zero, lp_l, lp_p, zso_z, zso_s, zso_o, amo_o, amo_s, amo_z, amo_r, amo_c, amo_zero, fence_hi, fence_k, fence_c, fence_lo, c6_c, c6_zero, spr_zero, spr_s, decodeComposer, cOk, cAlu, cGctl, h1]

theorem cBrkc (i : BitVec 16) : Statement (.cBrkc i) :=
  of_composer _ _ rfl fun h => by
    have h1 := composer_of_wellFormed _ rfl h
    simp [cMajor_cr, cD_cr, cA_cr, cB_cr, cFn_cr, cMajor_ci, cD_ci, cA_ci, cImm_ci, cMajor_cj, cD_cj, cOff21_cj, sh_zero, sh_n, lp_zero, lp_l, lp_p, zso_z, zso_s, zso_o, amo_o, amo_s, amo_z, amo_r, amo_c, amo_zero, fence_hi, fence_k, fence_c, fence_lo, c6_c, c6_zero, spr_zero, spr_s, decodeComposer, cOk, cAlu, cGctl, h1]

theorem cEmit (a : BitVec 5) : Statement (.cEmit a) :=
  of_composer _ _ rfl fun h => by
    have h1 := composer_of_wellFormed _ rfl h
    simp [cMajor_cr, cD_cr, cA_cr, cB_cr, cFn_cr, cMajor_ci, cD_ci, cA_ci, cImm_ci, cMajor_cj, cD_cj, cOff21_cj, sh_zero, sh_n, lp_zero, lp_l, lp_p, zso_z, zso_s, zso_o, amo_o, amo_s, amo_z, amo_r, amo_c, amo_zero, fence_hi, fence_k, fence_c, fence_lo, c6_c, c6_zero, spr_zero, spr_s, decodeComposer, cOk, cAlu, cGctl, h1]

theorem cEmitt (a b c : BitVec 5) : Statement (.cEmitt a b c) :=
  of_composer _ _ rfl fun h => by
    have h1 := composer_of_wellFormed _ rfl h
    simp [cMajor_cr, cD_cr, cA_cr, cB_cr, cFn_cr, cMajor_ci, cD_ci, cA_ci, cImm_ci, cMajor_cj, cD_cj, cOff21_cj, sh_zero, sh_n, lp_zero, lp_l, lp_p, zso_z, zso_s, zso_o, amo_o, amo_s, amo_z, amo_r, amo_c, amo_zero, fence_hi, fence_k, fence_c, fence_lo, c6_c, c6_zero, spr_zero, spr_s, decodeComposer, cOk, cAlu, cGctl, h1]

theorem cEmitb (a b : BitVec 5) : Statement (.cEmitb a b) :=
  of_composer _ _ rfl fun h => by
    have h1 := composer_of_wellFormed _ rfl h
    simp [cMajor_cr, cD_cr, cA_cr, cB_cr, cFn_cr, cMajor_ci, cD_ci, cA_ci, cImm_ci, cMajor_cj, cD_cj, cOff21_cj, sh_zero, sh_n, lp_zero, lp_l, lp_p, zso_z, zso_s, zso_o, amo_o, amo_s, amo_z, amo_r, amo_c, amo_zero, fence_hi, fence_k, fence_c, fence_lo, c6_c, c6_zero, spr_zero, spr_s, decodeComposer, cOk, cAlu, cGctl, h1]

theorem cEmitr (a b c : BitVec 5) : Statement (.cEmitr a b c) :=
  of_composer _ _ rfl fun h => by
    have h1 := composer_of_wellFormed _ rfl h
    simp [cMajor_cr, cD_cr, cA_cr, cB_cr, cFn_cr, cMajor_ci, cD_ci, cA_ci, cImm_ci, cMajor_cj, cD_cj, cOff21_cj, sh_zero, sh_n, lp_zero, lp_l, lp_p, zso_z, zso_s, zso_o, amo_o, amo_s, amo_z, amo_r, amo_c, amo_zero, fence_hi, fence_k, fence_c, fence_lo, c6_c, c6_zero, spr_zero, spr_s, decodeComposer, cOk, cAlu, cGctl, h1]

theorem cEmith (a : BitVec 5) : Statement (.cEmith a) :=
  of_composer _ _ rfl fun h => by
    have h1 := composer_of_wellFormed _ rfl h
    simp [cMajor_cr, cD_cr, cA_cr, cB_cr, cFn_cr, cMajor_ci, cD_ci, cA_ci, cImm_ci, cMajor_cj, cD_cj, cOff21_cj, sh_zero, sh_n, lp_zero, lp_l, lp_p, zso_z, zso_s, zso_o, amo_o, amo_s, amo_z, amo_r, amo_c, amo_zero, fence_hi, fence_k, fence_c, fence_lo, c6_c, c6_zero, spr_zero, spr_s, decodeComposer, cOk, cAlu, cGctl, h1]

theorem cSeal (d : BitVec 5) : Statement (.cSeal d) :=
  of_composer _ _ rfl fun h => by
    have h1 := composer_of_wellFormed _ rfl h
    simp [cMajor_cr, cD_cr, cA_cr, cB_cr, cFn_cr, cMajor_ci, cD_ci, cA_ci, cImm_ci, cMajor_cj, cD_cj, cOff21_cj, sh_zero, sh_n, lp_zero, lp_l, lp_p, zso_z, zso_s, zso_o, amo_o, amo_s, amo_z, amo_r, amo_c, amo_zero, fence_hi, fence_k, fence_c, fence_lo, c6_c, c6_zero, spr_zero, spr_s, decodeComposer, cOk, cAlu, cGctl, h1]

theorem cRun (a b : BitVec 5) : Statement (.cRun a b) :=
  of_composer _ _ rfl fun h => by
    have h1 := composer_of_wellFormed _ rfl h
    simp [cMajor_cr, cD_cr, cA_cr, cB_cr, cFn_cr, cMajor_ci, cD_ci, cA_ci, cImm_ci, cMajor_cj, cD_cj, cOff21_cj, sh_zero, sh_n, lp_zero, lp_l, lp_p, zso_z, zso_s, zso_o, amo_o, amo_s, amo_z, amo_r, amo_c, amo_zero, fence_hi, fence_k, fence_c, fence_lo, c6_c, c6_zero, spr_zero, spr_s, decodeComposer, cOk, cAlu, cGctl, h1]

theorem cWaitf (a b : BitVec 5) : Statement (.cWaitf a b) :=
  of_composer _ _ rfl fun h => by
    have h1 := composer_of_wellFormed _ rfl h
    simp [cMajor_cr, cD_cr, cA_cr, cB_cr, cFn_cr, cMajor_ci, cD_ci, cA_ci, cImm_ci, cMajor_cj, cD_cj, cOff21_cj, sh_zero, sh_n, lp_zero, lp_l, lp_p, zso_z, zso_s, zso_o, amo_o, amo_s, amo_z, amo_r, amo_c, amo_zero, fence_hi, fence_k, fence_c, fence_lo, c6_c, c6_zero, spr_zero, spr_s, decodeComposer, cOk, cAlu, cGctl, h1]

theorem cFree (a : BitVec 5) : Statement (.cFree a) :=
  of_composer _ _ rfl fun h => by
    have h1 := composer_of_wellFormed _ rfl h
    simp [cMajor_cr, cD_cr, cA_cr, cB_cr, cFn_cr, cMajor_ci, cD_ci, cA_ci, cImm_ci, cMajor_cj, cD_cj, cOff21_cj, sh_zero, sh_n, lp_zero, lp_l, lp_p, zso_z, zso_s, zso_o, amo_o, amo_s, amo_z, amo_r, amo_c, amo_zero, fence_hi, fence_k, fence_c, fence_lo, c6_c, c6_zero, spr_zero, spr_s, decodeComposer, cOk, cAlu, cGctl, h1]

theorem cGctlStop (a : BitVec 5) : Statement (.cGctlStop a) :=
  of_composer _ _ rfl fun h => by
    have h1 := composer_of_wellFormed _ rfl h
    simp [cMajor_cr, cD_cr, cA_cr, cB_cr, cFn_cr, cMajor_ci, cD_ci, cA_ci, cImm_ci, cMajor_cj, cD_cj, cOff21_cj, sh_zero, sh_n, lp_zero, lp_l, lp_p, zso_z, zso_s, zso_o, amo_o, amo_s, amo_z, amo_r, amo_c, amo_zero, fence_hi, fence_k, fence_c, fence_lo, c6_c, c6_zero, spr_zero, spr_s, decodeComposer, cOk, cAlu, cGctl, h1]

theorem cGctlResume (a : BitVec 5) : Statement (.cGctlResume a) :=
  of_composer _ _ rfl fun h => by
    have h1 := composer_of_wellFormed _ rfl h
    simp [cMajor_cr, cD_cr, cA_cr, cB_cr, cFn_cr, cMajor_ci, cD_ci, cA_ci, cImm_ci, cMajor_cj, cD_cj, cOff21_cj, sh_zero, sh_n, lp_zero, lp_l, lp_p, zso_z, zso_s, zso_o, amo_o, amo_s, amo_z, amo_r, amo_c, amo_zero, fence_hi, fence_k, fence_c, fence_lo, c6_c, c6_zero, spr_zero, spr_s, decodeComposer, cOk, cAlu, cGctl, h1]

theorem cGctlStep (a : BitVec 5) : Statement (.cGctlStep a) :=
  of_composer _ _ rfl fun h => by
    have h1 := composer_of_wellFormed _ rfl h
    simp [cMajor_cr, cD_cr, cA_cr, cB_cr, cFn_cr, cMajor_ci, cD_ci, cA_ci, cImm_ci, cMajor_cj, cD_cj, cOff21_cj, sh_zero, sh_n, lp_zero, lp_l, lp_p, zso_z, zso_s, zso_o, amo_o, amo_s, amo_z, amo_r, amo_c, amo_zero, fence_hi, fence_k, fence_c, fence_lo, c6_c, c6_zero, spr_zero, spr_s, decodeComposer, cOk, cAlu, cGctl, h1]

theorem cGctlKill (a : BitVec 5) : Statement (.cGctlKill a) :=
  of_composer _ _ rfl fun h => by
    have h1 := composer_of_wellFormed _ rfl h
    simp [cMajor_cr, cD_cr, cA_cr, cB_cr, cFn_cr, cMajor_ci, cD_ci, cA_ci, cImm_ci, cMajor_cj, cD_cj, cOff21_cj, sh_zero, sh_n, lp_zero, lp_l, lp_p, zso_z, zso_s, zso_o, amo_o, amo_s, amo_z, amo_r, amo_c, amo_zero, fence_hi, fence_k, fence_c, fence_lo, c6_c, c6_zero, spr_zero, spr_s, decodeComposer, cOk, cAlu, cGctl, h1]

theorem cWfetch (d : BitVec 5) : Statement (.cWfetch d) :=
  of_composer _ _ rfl fun h => by
    have h1 := composer_of_wellFormed _ rfl h
    simp [cMajor_cr, cD_cr, cA_cr, cB_cr, cFn_cr, cMajor_ci, cD_ci, cA_ci, cImm_ci, cMajor_cj, cD_cj, cOff21_cj, sh_zero, sh_n, lp_zero, lp_l, lp_p, zso_z, zso_s, zso_o, amo_o, amo_s, amo_z, amo_r, amo_c, amo_zero, fence_hi, fence_k, fence_c, fence_lo, c6_c, c6_zero, spr_zero, spr_s, decodeComposer, cOk, cAlu, cGctl, h1]

theorem cMkshp (d a : BitVec 5) : Statement (.cMkshp d a) :=
  of_composer _ _ rfl fun h => by
    have h1 := composer_of_wellFormed _ rfl h
    simp [cMajor_cr, cD_cr, cA_cr, cB_cr, cFn_cr, cMajor_ci, cD_ci, cA_ci, cImm_ci, cMajor_cj, cD_cj, cOff21_cj, sh_zero, sh_n, lp_zero, lp_l, lp_p, zso_z, zso_s, zso_o, amo_o, amo_s, amo_z, amo_r, amo_c, amo_zero, fence_hi, fence_k, fence_c, fence_lo, c6_c, c6_zero, spr_zero, spr_s, decodeComposer, cOk, cAlu, cGctl, h1]

theorem cMfs (d : BitVec 5) (s : BitVec 12) : Statement (.cMfs d s) :=
  of_composer _ _ rfl fun h => by
    have h1 := composer_of_wellFormed _ rfl h
    simp [cMajor_cr, cD_cr, cA_cr, cB_cr, cFn_cr, cMajor_ci, cD_ci, cA_ci, cImm_ci, cMajor_cj, cD_cj, cOff21_cj, sh_zero, sh_n, lp_zero, lp_l, lp_p, zso_z, zso_s, zso_o, amo_o, amo_s, amo_z, amo_r, amo_c, amo_zero, fence_hi, fence_k, fence_c, fence_lo, c6_c, c6_zero, spr_zero, spr_s, decodeComposer, cOk, cAlu, cGctl, h1]

theorem cMts (a : BitVec 5) (s : BitVec 12) : Statement (.cMts a s) :=
  of_composer _ _ rfl fun h => by
    have h1 := composer_of_wellFormed _ rfl h
    simp [cMajor_cr, cD_cr, cA_cr, cB_cr, cFn_cr, cMajor_ci, cD_ci, cA_ci, cImm_ci, cMajor_cj, cD_cj, cOff21_cj, sh_zero, sh_n, lp_zero, lp_l, lp_p, zso_z, zso_s, zso_o, amo_o, amo_s, amo_z, amo_r, amo_c, amo_zero, fence_hi, fence_k, fence_c, fence_lo, c6_c, c6_zero, spr_zero, spr_s, decodeComposer, cOk, cAlu, cGctl, h1]

theorem lIadd (o : VOps) : Statement (.lIadd o) :=
  of_lane _ _ rfl rfl (checks_of_wellFormed _ rfl rfl) rfl fun _ => by
    rw [laneFields, opc_v, vOps_v]; rfl

theorem lIsub (o : VOps) : Statement (.lIsub o) :=
  of_lane _ _ rfl rfl (checks_of_wellFormed _ rfl rfl) rfl fun _ => by
    rw [laneFields, opc_v, vOps_v]; rfl

theorem lImul (o : VOps) : Statement (.lImul o) :=
  of_lane _ _ rfl rfl (checks_of_wellFormed _ rfl rfl) rfl fun _ => by
    rw [laneFields, opc_v, vOps_v]; rfl

theorem lImulh (o : VOps) : Statement (.lImulh o) :=
  of_lane _ _ rfl rfl (checks_of_wellFormed _ rfl rfl) rfl fun _ => by
    rw [laneFields, opc_v, vOps_v]; rfl

theorem lImad (o : VOps) : Statement (.lImad o) :=
  of_lane _ _ rfl rfl (checks_of_wellFormed _ rfl rfl) rfl fun _ => by
    rw [laneFields, opc_v, vOps_v]; rfl

theorem lImin (o : VOps) : Statement (.lImin o) :=
  of_lane _ _ rfl rfl (checks_of_wellFormed _ rfl rfl) rfl fun _ => by
    rw [laneFields, opc_v, vOps_v]; rfl

theorem lImax (o : VOps) : Statement (.lImax o) :=
  of_lane _ _ rfl rfl (checks_of_wellFormed _ rfl rfl) rfl fun _ => by
    rw [laneFields, opc_v, vOps_v]; rfl

theorem lIabs (o : VOps) : Statement (.lIabs o) :=
  of_lane _ _ rfl rfl (checks_of_wellFormed _ rfl rfl) rfl fun _ => by
    rw [laneFields, opc_v, vOps_v]; rfl

theorem lIdot4 (o : VOps) : Statement (.lIdot4 o) :=
  of_lane _ _ rfl rfl (checks_of_wellFormed _ rfl rfl) rfl fun _ => by
    rw [laneFields, opc_v, vOps_v]; rfl

theorem lAnd (o : VOps) : Statement (.lAnd o) :=
  of_lane _ _ rfl rfl (checks_of_wellFormed _ rfl rfl) rfl fun _ => by
    rw [laneFields, opc_v, vOps_v]; rfl

theorem lOr (o : VOps) : Statement (.lOr o) :=
  of_lane _ _ rfl rfl (checks_of_wellFormed _ rfl rfl) rfl fun _ => by
    rw [laneFields, opc_v, vOps_v]; rfl

theorem lXor (o : VOps) : Statement (.lXor o) :=
  of_lane _ _ rfl rfl (checks_of_wellFormed _ rfl rfl) rfl fun _ => by
    rw [laneFields, opc_v, vOps_v]; rfl

theorem lAndn (o : VOps) : Statement (.lAndn o) :=
  of_lane _ _ rfl rfl (checks_of_wellFormed _ rfl rfl) rfl fun _ => by
    rw [laneFields, opc_v, vOps_v]; rfl

theorem lNot (o : VOps) : Statement (.lNot o) :=
  of_lane _ _ rfl rfl (checks_of_wellFormed _ rfl rfl) rfl fun _ => by
    rw [laneFields, opc_v, vOps_v]; rfl

theorem lShl (o : VOps) : Statement (.lShl o) :=
  of_lane _ _ rfl rfl (checks_of_wellFormed _ rfl rfl) rfl fun _ => by
    rw [laneFields, opc_v, vOps_v]; rfl

theorem lShr (o : VOps) : Statement (.lShr o) :=
  of_lane _ _ rfl rfl (checks_of_wellFormed _ rfl rfl) rfl fun _ => by
    rw [laneFields, opc_v, vOps_v]; rfl

theorem lSha (o : VOps) : Statement (.lSha o) :=
  of_lane _ _ rfl rfl (checks_of_wellFormed _ rfl rfl) rfl fun _ => by
    rw [laneFields, opc_v, vOps_v]; rfl

theorem lRotl (o : VOps) : Statement (.lRotl o) :=
  of_lane _ _ rfl rfl (checks_of_wellFormed _ rfl rfl) rfl fun _ => by
    rw [laneFields, opc_v, vOps_v]; rfl

theorem lPopc (o : VOps) : Statement (.lPopc o) :=
  of_lane _ _ rfl rfl (checks_of_wellFormed _ rfl rfl) rfl fun _ => by
    rw [laneFields, opc_v, vOps_v]; rfl

theorem lClz (o : VOps) : Statement (.lClz o) :=
  of_lane _ _ rfl rfl (checks_of_wellFormed _ rfl rfl) rfl fun _ => by
    rw [laneFields, opc_v, vOps_v]; rfl

theorem lBrev (o : VOps) : Statement (.lBrev o) :=
  of_lane _ _ rfl rfl (checks_of_wellFormed _ rfl rfl) rfl fun _ => by
    rw [laneFields, opc_v, vOps_v]; rfl

theorem lBfe (o : VOps) : Statement (.lBfe o) :=
  of_lane _ _ rfl rfl (checks_of_wellFormed _ rfl rfl) rfl fun _ => by
    rw [laneFields, opc_v, vOps_v]; rfl

theorem lBfi (o : VOps) : Statement (.lBfi o) :=
  of_lane _ _ rfl rfl (checks_of_wellFormed _ rfl rfl) rfl fun _ => by
    rw [laneFields, opc_v, vOps_v]; rfl

theorem lIcmp (o : VOps) : Statement (.lIcmp o) :=
  of_lane _ _ rfl rfl (checks_of_wellFormed _ rfl rfl) rfl fun _ => by
    rw [laneFields, opc_v, vOps_v]; rfl

theorem lSel (o : VOps) : Statement (.lSel o) :=
  of_lane _ _ rfl rfl (checks_of_wellFormed _ rfl rfl) rfl fun _ => by
    rw [laneFields, opc_v, vOps_v]; rfl

theorem lWform (op : IntOp) (o : VOps) : Statement (.lWform op o) := by
  cases op <;>
  exact of_lane _ _ rfl rfl (checks_of_wellFormed _ rfl rfl) rfl fun _ => by
    rw [laneFields, opc_v, vOps_v]; rfl

theorem lFadd (o : VOps) : Statement (.lFadd o) :=
  of_lane _ _ rfl rfl (checks_of_wellFormed _ rfl rfl) rfl fun _ => by
    rw [laneFields, opc_v, vOps_v]; rfl

theorem lFsub (o : VOps) : Statement (.lFsub o) :=
  of_lane _ _ rfl rfl (checks_of_wellFormed _ rfl rfl) rfl fun _ => by
    rw [laneFields, opc_v, vOps_v]; rfl

theorem lFmul (o : VOps) : Statement (.lFmul o) :=
  of_lane _ _ rfl rfl (checks_of_wellFormed _ rfl rfl) rfl fun _ => by
    rw [laneFields, opc_v, vOps_v]; rfl

theorem lFfma (o : VOps) : Statement (.lFfma o) :=
  of_lane _ _ rfl rfl (checks_of_wellFormed _ rfl rfl) rfl fun _ => by
    rw [laneFields, opc_v, vOps_v]; rfl

theorem lFmin (o : VOps) : Statement (.lFmin o) :=
  of_lane _ _ rfl rfl (checks_of_wellFormed _ rfl rfl) rfl fun _ => by
    rw [laneFields, opc_v, vOps_v]; rfl

theorem lFmax (o : VOps) : Statement (.lFmax o) :=
  of_lane _ _ rfl rfl (checks_of_wellFormed _ rfl rfl) rfl fun _ => by
    rw [laneFields, opc_v, vOps_v]; rfl

theorem lFcmp (o : VOps) : Statement (.lFcmp o) :=
  of_lane _ _ rfl rfl (checks_of_wellFormed _ rfl rfl) rfl fun _ => by
    rw [laneFields, opc_v, vOps_v]; rfl

theorem lFclass (o : VOps) : Statement (.lFclass o) :=
  of_lane _ _ rfl rfl (checks_of_wellFormed _ rfl rfl) rfl fun _ => by
    rw [laneFields, opc_v, vOps_v]; rfl

theorem lFscale (o : VOps) : Statement (.lFscale o) :=
  of_lane _ _ rfl rfl (checks_of_wellFormed _ rfl rfl) rfl fun _ => by
    rw [laneFields, opc_v, vOps_v]; rfl

theorem lFrnd (o : VOps) : Statement (.lFrnd o) :=
  of_lane _ _ rfl rfl (checks_of_wellFormed _ rfl rfl) rfl fun _ => by
    rw [laneFields, opc_v, vOps_v]; rfl

theorem lFrcp (o : VOps) : Statement (.lFrcp o) :=
  of_lane _ _ rfl rfl (checks_of_wellFormed _ rfl rfl) rfl fun _ => by
    rw [laneFields, opc_v, vOps_v]; rfl

theorem lFrsq (o : VOps) : Statement (.lFrsq o) :=
  of_lane _ _ rfl rfl (checks_of_wellFormed _ rfl rfl) rfl fun _ => by
    rw [laneFields, opc_v, vOps_v]; rfl

theorem lFsqrt (o : VOps) : Statement (.lFsqrt o) :=
  of_lane _ _ rfl rfl (checks_of_wellFormed _ rfl rfl) rfl fun _ => by
    rw [laneFields, opc_v, vOps_v]; rfl

theorem lFexp2 (o : VOps) : Statement (.lFexp2 o) :=
  of_lane _ _ rfl rfl (checks_of_wellFormed _ rfl rfl) rfl fun _ => by
    rw [laneFields, opc_v, vOps_v]; rfl

theorem lFlog2 (o : VOps) : Statement (.lFlog2 o) :=
  of_lane _ _ rfl rfl (checks_of_wellFormed _ rfl rfl) rfl fun _ => by
    rw [laneFields, opc_v, vOps_v]; rfl

theorem lFsin (o : VOps) : Statement (.lFsin o) :=
  of_lane _ _ rfl rfl (checks_of_wellFormed _ rfl rfl) rfl fun _ => by
    rw [laneFields, opc_v, vOps_v]; rfl

theorem lFcos (o : VOps) : Statement (.lFcos o) :=
  of_lane _ _ rfl rfl (checks_of_wellFormed _ rfl rfl) rfl fun _ => by
    rw [laneFields, opc_v, vOps_v]; rfl

theorem lFtanh (o : VOps) : Statement (.lFtanh o) :=
  of_lane _ _ rfl rfl (checks_of_wellFormed _ rfl rfl) rfl fun _ => by
    rw [laneFields, opc_v, vOps_v]; rfl

theorem lFsigm (o : VOps) : Statement (.lFsigm o) :=
  of_lane _ _ rfl rfl (checks_of_wellFormed _ rfl rfl) rfl fun _ => by
    rw [laneFields, opc_v, vOps_v]; rfl

theorem lCvt (o : VOps) : Statement (.lCvt o) :=
  of_lane _ _ rfl rfl (checks_of_wellFormed _ rfl rfl) rfl fun _ => by
    rw [laneFields, opc_v, vOps_v]; rfl

theorem lCvtn (o : VOps) : Statement (.lCvtn o) :=
  of_lane _ _ rfl rfl (checks_of_wellFormed _ rfl rfl) rfl fun _ => by
    rw [laneFields, opc_v, vOps_v]; rfl

theorem lCvtw (o : VOps) : Statement (.lCvtw o) :=
  of_lane _ _ rfl rfl (checks_of_wellFormed _ rfl rfl) rfl fun _ => by
    rw [laneFields, opc_v, vOps_v]; rfl

theorem lDq (o : VOps) : Statement (.lDq o) :=
  of_lane _ _ rfl rfl (checks_of_wellFormed _ rfl rfl) rfl fun _ => by
    rw [laneFields, opc_v, vOps_v]; rfl

theorem lQz (o : VOps) : Statement (.lQz o) :=
  of_lane _ _ rfl rfl (checks_of_wellFormed _ rfl rfl) rfl fun _ => by
    rw [laneFields, opc_v, vOps_v]; rfl

theorem lEfclr (o : VOps) : Statement (.lEfclr o) :=
  of_lane _ _ rfl rfl (checks_of_wellFormed _ rfl rfl) rfl fun _ => by
    rw [laneFields, opc_v, vOps_v]; rfl

theorem lEfmov (o : VOps) : Statement (.lEfmov o) :=
  of_lane _ _ rfl rfl (checks_of_wellFormed _ rfl rfl) rfl fun _ => by
    rw [laneFields, opc_v, vOps_v]; rfl

theorem lMov (o : VOps) : Statement (.lMov o) :=
  of_lane _ _ rfl rfl (checks_of_wellFormed _ rfl rfl) rfl fun _ => by
    rw [laneFields, opc_v, vOps_v]; rfl

theorem lMovi (o : IOps) : Statement (.lMovi o) :=
  of_lane _ _ rfl rfl (checks_of_wellFormed _ rfl rfl) (by simp [spareZero, i_zero]) fun _ => by
    rw [laneFields, opc_i, iOps_i]; rfl

theorem lWmov (o : VOps) : Statement (.lWmov o) :=
  of_lane _ _ rfl rfl (checks_of_wellFormed _ rfl rfl) rfl fun _ => by
    rw [laneFields, opc_v, vOps_v]; rfl

theorem lPrmt (o : VOps) : Statement (.lPrmt o) :=
  of_lane _ _ rfl rfl (checks_of_wellFormed _ rfl rfl) rfl fun _ => by
    rw [laneFields, opc_v, vOps_v]; rfl

theorem lShfl (o : VOps) : Statement (.lShfl o) :=
  of_lane _ _ rfl rfl (checks_of_wellFormed _ rfl rfl) rfl fun _ => by
    rw [laneFields, opc_v, vOps_v]; rfl

theorem lVote (o : VOps) : Statement (.lVote o) :=
  of_lane _ _ rfl rfl (checks_of_wellFormed _ rfl rfl) rfl fun _ => by
    rw [laneFields, opc_v, vOps_v]; rfl

theorem lGred (o : VOps) : Statement (.lGred o) :=
  of_lane _ _ rfl rfl (checks_of_wellFormed _ rfl rfl) rfl fun _ => by
    rw [laneFields, opc_v, vOps_v]; rfl

theorem lXset (o : VOps) : Statement (.lXset o) :=
  of_lane _ _ rfl rfl (checks_of_wellFormed _ rfl rfl) rfl fun _ => by
    rw [laneFields, opc_v, vOps_v]; rfl

theorem lXadd (o : VOps) : Statement (.lXadd o) :=
  of_lane _ _ rfl rfl (checks_of_wellFormed _ rfl rfl) rfl fun _ => by
    rw [laneFields, opc_v, vOps_v]; rfl

theorem lXld (o : VOps) : Statement (.lXld o) :=
  of_lane _ _ rfl rfl (checks_of_wellFormed _ rfl rfl) rfl fun _ => by
    rw [laneFields, opc_v, vOps_v]; rfl

theorem lXst (o : VOps) : Statement (.lXst o) :=
  of_lane _ _ rfl rfl (checks_of_wellFormed _ rfl rfl) rfl fun _ => by
    rw [laneFields, opc_v, vOps_v]; rfl

theorem lLd (n : Cnt) (o : MOps) : Statement (.lLd n o) := by
  cases n <;>
  exact of_lane _ _ rfl rfl (checks_of_wellFormed _ rfl rfl) rfl fun _ => by
    rw [laneFields, opc_m, mOps_m]; rfl

theorem lSt (n : Cnt) (o : MOps) : Statement (.lSt n o) := by
  cases n <;>
  exact of_lane _ _ rfl rfl (checks_of_wellFormed _ rfl rfl) rfl fun _ => by
    rw [laneFields, opc_m, mOps_m]; rfl

theorem lLds (n : Cnt) (o : MOps) : Statement (.lLds n o) := by
  cases n <;>
  exact of_lane _ _ rfl rfl (checks_of_wellFormed _ rfl rfl) rfl fun _ => by
    rw [laneFields, opc_m, mOps_m]; rfl

theorem lSts (n : Cnt) (o : MOps) : Statement (.lSts n o) := by
  cases n <;>
  exact of_lane _ _ rfl rfl (checks_of_wellFormed _ rfl rfl) rfl fun _ => by
    rw [laneFields, opc_m, mOps_m]; rfl

theorem lFeopSetf (o : MOps) : Statement (.lFeopSetf o) :=
  of_lane _ _ rfl rfl (checks_of_wellFormed _ rfl rfl) rfl fun h => by
    have h1 := setf_szf _ (checks_of_wellFormed _ rfl rfl h)
    rw [laneFields, opc_m, mOps_m]
    show (match feop o with
      | some i => Except.ok i
      | none => Except.error (DecodeError.illop (if o.mode = 0 then 3 else 2))) = _
    simp [feop, h1]

theorem lFeopSete (o : MOps) : Statement (.lFeopSete o) :=
  of_lane _ _ rfl rfl (checks_of_wellFormed _ rfl rfl) rfl fun h => by
    have h1 := sete_szf _ (checks_of_wellFormed _ rfl rfl h)
    rw [laneFields, opc_m, mOps_m]
    show (match feop o with
      | some i => Except.ok i
      | none => Except.error (DecodeError.illop (if o.mode = 0 then 3 else 2))) = _
    simp [feop, h1]

theorem lFeopRdf (o : MOps) : Statement (.lFeopRdf o) :=
  of_lane _ _ rfl rfl (checks_of_wellFormed _ rfl rfl) rfl fun h => by
    have h1 := rdf_szf _ (checks_of_wellFormed _ rfl rfl h)
    rw [laneFields, opc_m, mOps_m]
    show (match feop o with
      | some i => Except.ok i
      | none => Except.error (DecodeError.illop (if o.mode = 0 then 3 else 2))) = _
    simp [feop, h1]

theorem lAtom (o : MOps) : Statement (.lAtom o) :=
  of_lane _ _ rfl rfl (checks_of_wellFormed _ rfl rfl) rfl fun _ => by
    rw [laneFields, opc_m, mOps_m]; rfl

theorem lRed (o : MOps) : Statement (.lRed o) :=
  of_lane _ _ rfl rfl (checks_of_wellFormed _ rfl rfl) rfl fun _ => by
    rw [laneFields, opc_m, mOps_m]; rfl

theorem lRedCu (o : MOps) : Statement (.lRedCu o) :=
  of_lane _ _ rfl rfl (checks_of_wellFormed _ rfl rfl) rfl fun _ => by
    rw [laneFields, opc_m, mOps_m]; rfl

theorem lPref (o : MOps) : Statement (.lPref o) :=
  of_lane _ _ rfl rfl (checks_of_wellFormed _ rfl rfl) rfl fun _ => by
    rw [laneFields, opc_m, mOps_m]; rfl

theorem lFence (o : MOps) : Statement (.lFence o) :=
  of_lane _ _ rfl rfl (checks_of_wellFormed _ rfl rfl) rfl fun _ => by
    rw [laneFields, opc_m, mOps_m]; rfl

theorem lSync (o : VOps) : Statement (.lSync o) :=
  of_lane _ _ rfl rfl (checks_of_wellFormed _ rfl rfl) rfl fun _ => by
    rw [laneFields, opc_v, vOps_v]; rfl

theorem lRvinit (o : VOps) : Statement (.lRvinit o) :=
  of_lane _ _ rfl rfl (checks_of_wellFormed _ rfl rfl) rfl fun _ => by
    rw [laneFields, opc_v, vOps_v]; rfl

theorem lArrive (o : VOps) : Statement (.lArrive o) :=
  of_lane _ _ rfl rfl (checks_of_wellFormed _ rfl rfl) rfl fun _ => by
    rw [laneFields, opc_v, vOps_v]; rfl

theorem lWait (o : VOps) : Statement (.lWait o) :=
  of_lane _ _ rfl rfl (checks_of_wellFormed _ rfl rfl) rfl fun _ => by
    rw [laneFields, opc_v, vOps_v]; rfl

theorem lRarrive (o : VOps) : Statement (.lRarrive o) :=
  of_lane _ _ rfl rfl (checks_of_wellFormed _ rfl rfl) rfl fun _ => by
    rw [laneFields, opc_v, vOps_v]; rfl

theorem lSpana (o : VOps) : Statement (.lSpana o) :=
  of_lane _ _ rfl rfl (checks_of_wellFormed _ rfl rfl) rfl fun _ => by
    rw [laneFields, opc_v, vOps_v]; rfl

theorem lSpanw (o : VOps) : Statement (.lSpanw o) :=
  of_lane _ _ rfl rfl (checks_of_wellFormed _ rfl rfl) rfl fun _ => by
    rw [laneFields, opc_v, vOps_v]; rfl

theorem lBra (o : COps) : Statement (.lBra o) :=
  of_lane _ _ rfl rfl (checks_of_wellFormed _ rfl rfl) (by simp [spareZero, c_zero]) fun _ => by
    rw [laneFields, opc_c, cOps_c]; rfl

theorem lBrx (o : COps) : Statement (.lBrx o) :=
  of_lane _ _ rfl rfl (checks_of_wellFormed _ rfl rfl) (by simp [spareZero, c_zero]) fun _ => by
    rw [laneFields, opc_c, cOps_c]; rfl

theorem lCall (o : COps) : Statement (.lCall o) :=
  of_lane _ _ rfl rfl (checks_of_wellFormed _ rfl rfl) (by simp [spareZero, c_zero]) fun _ => by
    rw [laneFields, opc_c, cOps_c]; rfl

theorem lRet (o : COps) : Statement (.lRet o) :=
  of_lane _ _ rfl rfl (checks_of_wellFormed _ rfl rfl) (by simp [spareZero, c_zero]) fun _ => by
    rw [laneFields, opc_c, cOps_c]; rfl

theorem lIf (o : COps) : Statement (.lIf o) :=
  of_lane _ _ rfl rfl (checks_of_wellFormed _ rfl rfl) (by simp [spareZero, c_zero]) fun _ => by
    rw [laneFields, opc_c, cOps_c]; rfl

theorem lElse (o : COps) : Statement (.lElse o) :=
  of_lane _ _ rfl rfl (checks_of_wellFormed _ rfl rfl) (by simp [spareZero, c_zero]) fun _ => by
    rw [laneFields, opc_c, cOps_c]; rfl

theorem lEndif (o : COps) : Statement (.lEndif o) :=
  of_lane _ _ rfl rfl (checks_of_wellFormed _ rfl rfl) (by simp [spareZero, c_zero]) fun _ => by
    rw [laneFields, opc_c, cOps_c]; rfl

theorem lLoop (o : COps) : Statement (.lLoop o) :=
  of_lane _ _ rfl rfl (checks_of_wellFormed _ rfl rfl) (by simp [spareZero, c_zero]) fun _ => by
    rw [laneFields, opc_c, cOps_c]; rfl

theorem lBreak (o : COps) : Statement (.lBreak o) :=
  of_lane _ _ rfl rfl (checks_of_wellFormed _ rfl rfl) (by simp [spareZero, c_zero]) fun _ => by
    rw [laneFields, opc_c, cOps_c]; rfl

theorem lCont (o : COps) : Statement (.lCont o) :=
  of_lane _ _ rfl rfl (checks_of_wellFormed _ rfl rfl) (by simp [spareZero, c_zero]) fun _ => by
    rw [laneFields, opc_c, cOps_c]; rfl

theorem lEndl (o : COps) : Statement (.lEndl o) :=
  of_lane _ _ rfl rfl (checks_of_wellFormed _ rfl rfl) (by simp [spareZero, c_zero]) fun _ => by
    rw [laneFields, opc_c, cOps_c]; rfl

theorem lExit (o : COps) : Statement (.lExit o) :=
  of_lane _ _ rfl rfl (checks_of_wellFormed _ rfl rfl) (by simp [spareZero, c_zero]) fun _ => by
    rw [laneFields, opc_c, cOps_c]; rfl

theorem lYield (o : COps) : Statement (.lYield o) :=
  of_lane _ _ rfl rfl (checks_of_wellFormed _ rfl rfl) (by simp [spareZero, c_zero]) fun _ => by
    rw [laneFields, opc_c, cOps_c]; rfl

theorem lNop (o : COps) : Statement (.lNop o) :=
  of_lane _ _ rfl rfl (checks_of_wellFormed _ rfl rfl) (by simp [spareZero, c_zero]) fun _ => by
    rw [laneFields, opc_c, cOps_c]; rfl

theorem lTfence (o : VOps) : Statement (.lTfence o) :=
  of_lane _ _ rfl rfl (checks_of_wellFormed _ rfl rfl) rfl fun _ => by
    rw [laneFields, opc_v, vOps_v]; rfl

theorem lTrap (o : VOps) : Statement (.lTrap o) :=
  of_lane _ _ rfl rfl (checks_of_wellFormed _ rfl rfl) rfl fun _ => by
    rw [laneFields, opc_v, vOps_v]; rfl

theorem lBrk (o : VOps) : Statement (.lBrk o) :=
  of_lane _ _ rfl rfl (checks_of_wellFormed _ rfl rfl) rfl fun _ => by
    rw [laneFields, opc_v, vOps_v]; rfl

theorem lRds (o : VOps) : Statement (.lRds o) :=
  of_lane _ _ rfl rfl (checks_of_wellFormed _ rfl rfl) rfl fun _ => by
    rw [laneFields, opc_v, vOps_v]; rfl

theorem lWrs (o : VOps) : Statement (.lWrs o) :=
  of_lane _ _ rfl rfl (checks_of_wellFormed _ rfl rfl) rfl fun _ => by
    rw [laneFields, opc_v, vOps_v]; rfl

theorem lMma (o : XOps) : Statement (.lMma o) :=
  of_lane _ _ rfl rfl (checks_of_wellFormed _ rfl rfl) rfl fun _ => by
    rw [laneFields, opc_x, xOps_x]; rfl

theorem lMloop (o : XOps) : Statement (.lMloop o) :=
  of_lane _ _ rfl rfl (checks_of_wellFormed _ rfl rfl) rfl fun _ => by
    rw [laneFields, opc_x, xOps_x]; rfl

theorem lMbatch (o : XOps) : Statement (.lMbatch o) :=
  of_lane _ _ rfl rfl (checks_of_wellFormed _ rfl rfl) rfl fun _ => by
    rw [laneFields, opc_x, xOps_x]; rfl

theorem lMwait (o : XOps) : Statement (.lMwait o) :=
  of_lane _ _ rfl rfl (checks_of_wellFormed _ rfl rfl) rfl fun _ => by
    rw [laneFields, opc_x, xOps_x]; rfl

theorem lAclr (o : XOps) : Statement (.lAclr o) :=
  of_lane _ _ rfl rfl (checks_of_wellFormed _ rfl rfl) rfl fun _ => by
    rw [laneFields, opc_x, xOps_x]; rfl

theorem lAld (o : XOps) : Statement (.lAld o) :=
  of_lane _ _ rfl rfl (checks_of_wellFormed _ rfl rfl) rfl fun _ => by
    rw [laneFields, opc_x, xOps_x]; rfl

theorem lAst (o : XOps) : Statement (.lAst o) :=
  of_lane _ _ rfl rfl (checks_of_wellFormed _ rfl rfl) rfl fun _ => by
    rw [laneFields, opc_x, xOps_x]; rfl

theorem lScfeed (o : XOps) : Statement (.lScfeed o) :=
  of_lane _ _ rfl rfl (checks_of_wellFormed _ rfl rfl) rfl fun _ => by
    rw [laneFields, opc_x, xOps_x]; rfl

theorem lCpy (o : XOps) : Statement (.lCpy o) :=
  of_lane _ _ rfl rfl (checks_of_wellFormed _ rfl rfl) rfl fun _ => by
    rw [laneFields, opc_x, xOps_x]; rfl

theorem lCwait (o : XOps) : Statement (.lCwait o) :=
  of_lane _ _ rfl rfl (checks_of_wellFormed _ rfl rfl) rfl fun _ => by
    rw [laneFields, opc_x, xOps_x]; rfl

theorem lColl (o : XOps) : Statement (.lColl o) :=
  of_lane _ _ rfl rfl (checks_of_wellFormed _ rfl rfl) rfl fun _ => by
    rw [laneFields, opc_x, xOps_x]; rfl

theorem lCtrig (o : XOps) : Statement (.lCtrig o) :=
  of_lane _ _ rfl rfl (checks_of_wellFormed _ rfl rfl) rfl fun _ => by
    rw [laneFields, opc_x, xOps_x]; rfl

theorem lCdisarm (o : XOps) : Statement (.lCdisarm o) :=
  of_lane _ _ rfl rfl (checks_of_wellFormed _ rfl rfl) rfl fun _ => by
    rw [laneFields, opc_x, xOps_x]; rfl

theorem eRendezvousRelease (c g slot : Nat) : Statement (.eRendezvousRelease c g slot) := of_event _ rfl

theorem eSpanRelease (c g slot : Nat) : Statement (.eSpanRelease c g slot) := of_event _ rfl

theorem eFeGranuleServe (c g slot granule : Nat) : Statement (.eFeGranuleServe c g slot granule) := of_event _ rfl

theorem eLoadReturn (c g : Nat) : Statement (.eLoadReturn c g) := of_event _ rfl

theorem eStorePerformed (c : Nat) (st : StoreStage) : Statement (.eStorePerformed c st) := of_event _ rfl

theorem eHomeAgentAccess (c k : Nat) : Statement (.eHomeAgentAccess c k) := of_event _ rfl

theorem eTlbInvalidateRange (v : Word64) : Statement (.eTlbInvalidateRange v) := of_event _ rfl

theorem eTlbInvalidateAll (v : Word64) : Statement (.eTlbInvalidateAll v) := of_event _ rfl

theorem ePeerRequest (r : PeerReq) : Statement (.ePeerRequest r) := of_event _ rfl

theorem eRevocationComplete (e : Nat) : Statement (.eRevocationComplete e) := of_event _ rfl

theorem eMatrixStep (c : Nat) : Statement (.eMatrixStep c) := of_event _ rfl

theorem eMatrixAction (c : Nat) : Statement (.eMatrixAction c) := of_event _ rfl

theorem eCopyChunk (e : CopyEng) (k : Nat) : Statement (.eCopyChunk e k) := of_event _ rfl

theorem eCopyCompletion (e : CopyEng) (k : Nat) : Statement (.eCopyCompletion e k) := of_event _ rfl

theorem eClaim (q : Nat) : Statement (.eClaim q) := of_event _ rfl

theorem eCommit (q : Nat) (data : Word64) : Statement (.eCommit q data) := of_event _ rfl

theorem eLaunch (q : Nat) : Statement (.eLaunch q) := of_event _ rfl

theorem eTemplateImageLoad (l : LKey) : Statement (.eTemplateImageLoad l) := of_event _ rfl

theorem eTeamStart (c : Nat) (l : LKey) : Statement (.eTeamStart c l) := of_event _ rfl

theorem eTeamRetire (c : Nat) : Statement (.eTeamRetire c) := of_event _ rfl

theorem eCopy (q : Nat) : Statement (.eCopy q) := of_event _ rfl

theorem eWaitdep (q : Nat) : Statement (.eWaitdep q) := of_event _ rfl

theorem eWaitdepPoll (q : Nat) : Statement (.eWaitdepPoll q) := of_event _ rfl

theorem eSignal (q : Nat) : Statement (.eSignal q) := of_event _ rfl

theorem eGang (q : Nat) : Statement (.eGang q) := of_event _ rfl

theorem eGangReady (q : Nat) (m : ReadyMsg) : Statement (.eGangReady q m) := of_event _ rfl

theorem eGangGo (q : Nat) : Statement (.eGangGo q) := of_event _ rfl

theorem eGangStart (q : Nat) : Statement (.eGangStart q) := of_event _ rfl

theorem eCollective (q : Nat) : Statement (.eCollective q) := of_event _ rfl

theorem eNopPacket (q : Nat) : Statement (.eNopPacket q) := of_event _ rfl

theorem eQuotaExhausted (l : LKey) : Statement (.eQuotaExhausted l) := of_event _ rfl

theorem ePermitRefill (c : Nat) : Statement (.ePermitRefill c) := of_event _ rfl

theorem eIntentMessage (m : IntentMsg) : Statement (.eIntentMessage m) := of_event _ rfl

theorem ePreemptionRequest (l : LKey) (why : PreemptBy) : Statement (.ePreemptionRequest l why) := of_event _ rfl

theorem ePreemptionAck (c : Nat) : Statement (.ePreemptionAck c) := of_event _ rfl

theorem eLaunchResume (l : LKey) : Statement (.eLaunchResume l) := of_event _ rfl

theorem eFirmwareResume (c : Nat) (m : Master) : Statement (.eFirmwareResume c m) := of_event _ rfl

theorem eFirmwareEndLaunch (l : LKey) (status cause : Byte) : Statement (.eFirmwareEndLaunch l status cause) := of_event _ rfl

theorem eComposerDebugStep (c : Nat) : Statement (.eComposerDebugStep c) := of_event _ rfl

theorem eClusterGate (n : Nat) : Statement (.eClusterGate n) := of_event _ rfl

theorem eClusterUngate (n : Nat) : Statement (.eClusterUngate n) := of_event _ rfl

theorem eHostRequest (fn bar off : Nat) (op : HostOp) : Statement (.eHostRequest fn bar off op) := of_event _ rfl

theorem eFunctionLevelReset (fn : Nat) : Statement (.eFunctionLevelReset fn) := of_event _ rfl

theorem eExport (d : Nat) (va len : Word64) (rw ra : Bool) : Statement (.eExport d va len rw ra) := of_event _ rfl

theorem eImport (d : Nat) (handle : BitVec 128) (off : Word64) : Statement (.eImport d handle off) := of_event _ rfl

theorem eRevoke (d e : Nat) : Statement (.eRevoke d e) := of_event _ rfl

theorem eFnclear (fn : Option Nat) (d imp : Nat) : Statement (.eFnclear fn d imp) := of_event _ rfl

theorem eDieoff (d : Nat) : Statement (.eDieoff d) := of_event _ rfl

theorem eDieon (d : Nat) : Statement (.eDieon d) := of_event _ rfl

theorem eSwiaxFlit (link : Nat) (f : Flit) : Statement (.eSwiaxFlit link f) := of_event _ rfl

theorem eFlitReplay (link : Nat) : Statement (.eFlitReplay link) := of_event _ rfl

theorem eLinkDown (link : Nat) : Statement (.eLinkDown link) := of_event _ rfl

theorem eDieLinkFailure (link : Nat) : Statement (.eDieLinkFailure link) := of_event _ rfl

theorem eTimeMessage (master : Word64) (hops : BitVec 16) : Statement (.eTimeMessage master hops) := of_event _ rfl

theorem ePackageReset (images : List Image) (answers : BitVec 3) (trained : BitVec 3) : Statement (.ePackageReset images answers trained) := of_event _ rfl

theorem eRegisterWrite (b : RegBlock) (off : Nat) (v : Word64) : Statement (.eRegisterWrite b off v) := of_event _ rfl

theorem eLinkUp (l : LinkId) : Statement (.eLinkUp l) := of_event _ rfl

theorem eApertureRequestUnanswered (c : Nat) (p : Party) : Statement (.eApertureRequestUnanswered c p) := of_event _ rfl

theorem xAbsentComposerOpcode (w : Word32) : Statement (.xAbsentComposerOpcode w) :=
  of_composer _ _ rfl fun h => absent_decodes w h

theorem xUnallocatedLaneOpcode (w : Word64) : Statement (.xUnallocatedLaneOpcode w) :=
  of_lane _ _ rfl rfl (fun _ => rfl) rfl fun h => unallocated_arm _ _ _ _ _ _ w h

theorem cEret : Statement .cEret :=
  of_composer _ _ rfl fun h => by
    have h1 := composer_of_wellFormed _ rfl h
    simp [cMajor_cr, cD_cr, cA_cr, cB_cr, cFn_cr, cMajor_ci, cD_ci, cA_ci, cImm_ci, cMajor_cj, cD_cj, cOff21_cj, sh_zero, sh_n, lp_zero, lp_l, lp_p, zso_z, zso_s, zso_o, amo_o, amo_s, amo_z, amo_r, amo_c, amo_zero, fence_hi, fence_k, fence_c, fence_lo, c6_c, c6_zero, spr_zero, spr_s, decodeComposer, cOk, cAlu, cGctl, h1]

theorem cDone : Statement .cDone :=
  of_composer _ _ rfl fun h => by
    have h1 := composer_of_wellFormed _ rfl h
    simp [cMajor_cr, cD_cr, cA_cr, cB_cr, cFn_cr, cMajor_ci, cD_ci, cA_ci, cImm_ci, cMajor_cj, cD_cj, cOff21_cj, sh_zero, sh_n, lp_zero, lp_l, lp_p, zso_z, zso_s, zso_o, amo_o, amo_s, amo_z, amo_r, amo_c, amo_zero, fence_hi, fence_k, fence_c, fence_lo, c6_c, c6_zero, spr_zero, spr_s, decodeComposer, cOk, cAlu, cGctl, h1]

theorem cLtrig : Statement .cLtrig :=
  of_composer _ _ rfl fun h => by
    have h1 := composer_of_wellFormed _ rfl h
    simp [cMajor_cr, cD_cr, cA_cr, cB_cr, cFn_cr, cMajor_ci, cD_ci, cA_ci, cImm_ci, cMajor_cj, cD_cj, cOff21_cj, sh_zero, sh_n, lp_zero, lp_l, lp_p, zso_z, zso_s, zso_o, amo_o, amo_s, amo_z, amo_r, amo_c, amo_zero, fence_hi, fence_k, fence_c, fence_lo, c6_c, c6_zero, spr_zero, spr_s, decodeComposer, cOk, cAlu, cGctl, h1]

theorem cDepwait : Statement .cDepwait :=
  of_composer _ _ rfl fun h => by
    have h1 := composer_of_wellFormed _ rfl h
    simp [cMajor_cr, cD_cr, cA_cr, cB_cr, cFn_cr, cMajor_ci, cD_ci, cA_ci, cImm_ci, cMajor_cj, cD_cj, cOff21_cj, sh_zero, sh_n, lp_zero, lp_l, lp_p, zso_z, zso_s, zso_o, amo_o, amo_s, amo_z, amo_r, amo_c, amo_zero, fence_hi, fence_k, fence_c, fence_lo, c6_c, c6_zero, spr_zero, spr_s, decodeComposer, cOk, cAlu, cGctl, h1]

theorem eTranslationWalk : Statement .eTranslationWalk := of_event _ rfl

theorem eTlbInvalidationComplete : Statement .eTlbInvalidationComplete := of_event _ rfl

theorem eCollectiveChunkSelect : Statement .eCollectiveChunkSelect := of_event _ rfl

theorem eHopFwd : Statement .eHopFwd := of_event _ rfl

theorem eHopRedaddF32 : Statement .eHopRedaddF32 := of_event _ rfl

theorem eHopRedaddBf16 : Statement .eHopRedaddBf16 := of_event _ rfl

theorem eHopMin : Statement .eHopMin := of_event _ rfl

theorem eHopMax : Statement .eHopMax := of_event _ rfl

theorem eHopDeposit : Statement .eHopDeposit := of_event _ rfl

theorem eHopMcast : Statement .eHopMcast := of_event _ rfl

theorem eHopSignal : Statement .eHopSignal := of_event _ rfl

theorem eCollectiveCompletion : Statement .eCollectiveCompletion := of_event _ rfl

theorem eHawkerFetchServe : Statement .eHawkerFetchServe := of_event _ rfl

theorem eDispatchDraw : Statement .eDispatchDraw := of_event _ rfl

theorem eWatchItemRetry : Statement .eWatchItemRetry := of_event _ rfl

theorem eDieInterval : Statement .eDieInterval := of_event _ rfl

theorem eBucketInstallment : Statement .eBucketInstallment := of_event _ rfl

theorem ePackageBell : Statement .ePackageBell := of_event _ rfl

theorem eGrantArrival : Statement .eGrantArrival := of_event _ rfl

theorem eFloorTimeout : Statement .eFloorTimeout := of_event _ rfl

theorem eIntentDecision : Statement .eIntentDecision := of_event _ rfl

theorem eAttest : Statement .eAttest := of_event _ rfl

theorem eIdent : Statement .eIdent := of_event _ rfl

theorem eTimeBaseLost : Statement .eTimeBaseLost := of_event _ rfl

end Sys2Proof.Laws.Coding
end

