-- ==== Sys2Proof/Laws/Reports.lean ====
section
/-! SUPPORT. What a report to firmware can change: the queue of events and, of one die, a counter or a record slot. -/

namespace Sys2Proof.Machine

open Sys2Proof

@[simp] theorem postFw_die (s : State) (e : FwEvent) (d : Nat) : (s.postFw e).die d = s.die d := by
  simp [State.die]

@[simp] theorem postFw_team? (s : State) (e : FwEvent) (d c : Nat) : (s.postFw e).team? d c = s.team? d c := by
  simp [State.team?]

/-- A die's teams stay where only other fields of the die change. -/
theorem team?_updDie_of_teams (s : State) (d e c : Nat) (f : Die → Die) (h : ∀ x, (f x).teams = x.teams) :
    (s.updDie d f).team? e c = s.team? e c := by
  simp only [State.team?, die_updDie]; split <;> simp_all

/-- An uncorrectable error reported leaves every team (13 R388). -/
@[simp] theorem reportUe_team? (s : State) (d e c : Nat) : (reportUe s d).team? e c = s.team? e c := by
  rw [reportUe, postFw_team?]; exact team?_updDie_of_teams s d e c _ fun _ => rfl

/-- It leaves the memory of every die. -/
@[simp] theorem reportUe_hbm (s : State) (d e : Nat) : ((reportUe s d).die e).hbm = (s.die e).hbm := by
  simp only [reportUe, postFw_die, die_updDie]; split <;> simp_all

/-- It is counted in its die. -/
theorem reportUe_counts (s : State) (d : Nat) (h : d < s.dies.length) :
    ((reportUe s d).die d).ueCount = (s.die d).ueCount + 1 := by
  simp [reportUe, h]

/-- A fault told to firmware leaves every team: what stops is stopped by whoever tells it (13 R382). -/
@[simp] theorem tellFault_team? (s : State) (d c : Nat) (r : FaultRec) (e k : Nat) :
    (tellFault s d c r).team? e k = s.team? e k := by
  simp only [tellFault, postFw_team?]; exact team?_updDie_of_teams s d e k _ fun _ => rfl

/-- Its record stands in the core's slot of firmware memory (13 R384). -/
theorem tellFault_slot (s : State) (d c : Nat) (r : FaultRec) (h : d < s.dies.length) :
    ((tellFault s d c r).die d).faultSlots = (s.die d).faultSlots.insert c r := by
  simp [tellFault, h]

end Sys2Proof.Machine
end

