-- ==== Sys2Proof/Laws/Uncorrectable.lean ====
section
/-! SUPPORT. Where a core holds no uncorrectable word, the checks of 13 R388 find none and correct none. -/

namespace Sys2Proof.Machine

open Sys2Proof

variable {t : Team}

theorem badSp_of_good (h : t.bad = []) (ofs n : Nat) : t.badSp ofs n = false := by simp [Team.badSp, h]
theorem badStore_of_good (h : t.bad = []) (ofs n : Nat) : t.badStore ofs n = false := by simp [Team.badStore, h]
theorem badScale_of_good (h : t.bad = []) (lo n : Nat) : t.badScale lo n = false := by simp [Team.badScale, h]
theorem badTile_of_good (h : t.bad = []) (tr tc : Nat) : t.badTile tr tc = false := by simp [Team.badTile, h]
theorem badResidues_of_good (h : t.bad = []) (g : Nat) : t.badResidues g = false := by simp [Team.badResidues, h]
theorem provAt_of_good (h : t.bad = []) (k : Nat) : t.provAt k = t.prov.get 0 k := by simp [Team.provAt, h]
theorem heal_of_good (h : t.bad = []) (p : Ram → Bool) : t.heal p = t := by
  cases t; simp_all [Team.heal]
theorem badWord_of_good (h : t.bad = []) (x : Group) (sl : Nat) : badWord t x sl = false := by simp [badWord, h]

theorem withSources_of_good (h : t.bad = []) (s : State) (d c g sl : Nat) (x : Group) (i : Instr) :
    withSources s d c g sl t x i = .instr i s := by simp [withSources, h]

theorem replacedWords_of_good (h : t.bad = []) (x : Group) (d c g sl : Nat) (i : Instr) (s : State) :
    replacedWords t x d c g sl i s = s := by simp [replacedWords, h]

theorem stepUe_of_good (h : t.bad = []) (a : MatAct) : stepUe t a = false := by
  simp [stepUe, h]

theorem actionUe_of_good (h : t.bad = []) (a : MatAct) : actionUe t a = false := by
  unfold actionUe; split <;> simp [badSp_of_good h, badTile_of_good h, badResidues_of_good h]

/-- A write never adds an uncorrectable word. -/
theorem mem_heal {p : Ram → Bool} {r : Ram} : r ∈ (t.heal p).bad ↔ r ∈ t.bad ∧ p r = false := by
  simp [Team.heal]

@[simp] theorem heal_sp (p : Ram → Bool) : (t.heal p).sp = t.sp := rfl
@[simp] theorem heal_acc (p : Ram → Bool) : (t.heal p).acc = t.acc := rfl
@[simp] theorem heal_store (p : Ram → Bool) : (t.heal p).store = t.store := rfl
@[simp] theorem heal_groups (p : Ram → Bool) : (t.heal p).groups = t.groups := rfl
@[simp] theorem heal_fe (p : Ram → Bool) : (t.heal p).fe = t.fe := rfl

end Sys2Proof.Machine
end

