-- ==== Sys2Proof/Machine/RegisterViews.lean ====
section
/-! DEFINITION. What firmware reads at the offsets of the die register block and of the control-die register block:
each word is a view of the state that the machine acts on. An offset that holds no register, and a register that is
write-only, read 0. -/

namespace Sys2Proof.Machine

open Sys2Proof

/-! ## The die register block (01 R26) -/

/-- CU_STAT_n (03 Table 3.5b). -/
def cuStat (x : Die) : Nat := x.forced.toNat * 2 ^ 32 + Die.parkedCount x

/-- DPC_STAT (12 Table 12.10). -/
def dpcStat (x : Die) : Nat :=
  let p := x.power
  p.slewmiss * 2 ^ 48 + min 4095 (p.allow / watt) * 2 ^ 24 + min 4095 (p.rate / watt) * 2 ^ 12 +
    Bits.ofBool p.defer * 4 + Bits.ofBool p.lowchg * 2 + Bits.ofBool p.floor

/-- PRICE_TAB_n (12 Table 12.2). -/
def priceWord (x : Die) (n : Nat) : Nat := ((List.range 4).map fun j => x.price.getD (4 * n + j) 0 * 2 ^ (16 * j)).sum

/-- PERMIT_c (12 Table 12.4). -/
def permitWord (x : Die) (c : Nat) : Nat :=
  match x.permitNext.find? c with
  | some (k, r) => k * 2 ^ 32 + r
  | none => x.permitCap.getD c 0 * 2 ^ 32 + x.permitRate.getD c 0

/-- A word of SDT_n (01 Table 1.6). -/
def sdtWord (e : Desc) (j : Nat) : Nat :=
  if j = 0 then e.base
  else if j = 1 then e.limit
  else if j = 2 then e.shadow
  else Bits.ofBool e.valid * 256 + e.geom * 16 + e.fmt

/-- The 8-byte word at an offset of the die register block. -/
def readDieReg (x : Die) (off : Nat) : Nat :=
  let k := off / 8
  if off % 8 ≠ 0 then 0
  else if off = 0x2000 then cuStat x
  else if off = 0x3000 then x.phaseSpace.toNat
  else if 0x3008 ≤ off && off < 0x3030 then (x.phaseTab.getD (k - 0x601) 0).toNat
  else if off = 0x4000 then x.seed.toNat
  else if 0x5000 ≤ off && off < 0x5040 then priceWord x (k - 0xA00)
  else if 0x5040 ≤ off && off < 0x5060 then permitWord x (k - 0xA08)
  else if off = 0x5060 then x.dpcCfg.toNat
  else if off = 0x5068 then dpcStat x
  else if off = 0x5070 then x.vesper.toNat
  else if off = 0x5078 then x.chg.toNat
  else if 0x5100 ≤ off && off < 0x5310 then (x.swp.getD (k - 0xA20) 0).toNat
  else if 0x6000 ≤ off && off < 0x6028 then (x.hmap.getD (k - 0xC00) 0).toNat
  else if 0x6100 ≤ off && off < 0x6300 then (x.l2pt.getD (k - 0xC20) 0).toNat
  else if 0x8000 ≤ off && off < 0x8800 then sdtWord (x.sdt.getD ((off - 0x8000) / 32) {}) (k % 4)
  else if 0x10000 ≤ off && off < 0x10800 then (x.commTab.getD (k - 0x2000) 0).toNat
  else 0

/-! ## The control-die register block -/

/-- DIE_GRANT_d (12 Table 12.8): what the arbiter granted last. -/
def dieGrant (p : Power) : Nat := p.last.2.1 * 2 ^ 48 + p.last.2.2 * 2 ^ 32 + p.last.1

/-- INTENT_STAT (12 Table 12.15). With no intent pending, NEXT keeps the slot of the last one, as 16 Table 16.10 has it after
an admission; that it does so after EN = 0, and that DEFERS does, is the model's choice (log 43). -/
def intentStat (s : State) : Nat :=
  let k := s.pkg.intents
  k.next * 2 ^ 32 + k.defers * 2 ^ 8 + Bits.ofBool k.pend * 2 + Bits.ofBool s.admitted

/-- TLBSTAT_n (01 Table 1.16). -/
def tlbStat (x : Die) : Nat := Bits.ofBool x.tlbErr * 2 + Bits.ofBool x.tlbBusy.isSome

/-- The 8-byte word at an offset of the control-die register block; TLBINV_n is write-only. -/
def readControlReg (s : State) (off : Nat) : Nat :=
  if 0x1000 ≤ off && off < 0x1300 then
    let x := s.die ((off - 0x1000) / 0x100)
    if off % 0x100 = 0 then x.ptroot.toNat else if off % 0x100 = 0x10 then tlbStat x else 0
  else if off = 0x6000 then s.pkg.pwr.toNat
  else if off = 0x6008 then s.pkg.slew.toNat
  else if 0x6010 ≤ off && off < 0x6028 && off % 8 = 0 then dieGrant (s.die ((off - 0x6010) / 8)).power
  else if off = 0x6028 then s.pkg.intentCfg.toNat
  else if off = 0x6030 then intentStat s
  else if off = 0x7000 then tbstat s.pkg
  else 0

end Sys2Proof.Machine
end

