-- ==== Sys2Proof/Tests/Slice0.lean ====
section
/-! SUPPORT. Small tests: ill-formed terms, words of every encoding, one-step results that the spec works out, and for
every statement a state and operands that meet its hypotheses. -/

namespace Sys2Proof.Tests

open Sys2Proof.Machine

set_option Elab.async false

/-! ## Ill-formed terms: one for each check, which `wellFormed` refuses -/

theorem wf_smoke : wellFormed (.cAdd 1 2 3) = true ∧ wellFormed (.lIadd { dst := 1, sa := 2, sb := 3 }) = true ∧
    wellFormed (.lLd .x1 { base := 31, ofs := 255, szf := 0x3A }) = true := by decide +kernel

/-- R180: position + length above 64, RUN with b above 24, and a reserved space, kind and scope. -/
theorem ill_composer : ([.cInsf 1 2 63 1, .cExtf 1 2 31 33, .cRun 1 25, .cLd 1 2 3 3 0, .cSt 1 2 0 3 0, .cFence 3 6,
    .cAmo 1 2 3 0 0 3 0 6, .cAmo 1 2 3 0 0 1 0 0] : List Instr).all (fun i => !wellFormed i) = true := by decide +kernel

/-- R197 check 1 and R180: the words that stand for no instruction carry an absent or unallocated opcode. -/
theorem ill_opcode : ([.xAbsentComposerOpcode 0, .xAbsentComposerOpcode 0x0400_0000, .xUnallocatedLaneOpcode 0,
    .xUnallocatedLaneOpcode 0xF000_0000_0000_0000] : List Instr).all (fun i => !wellFormed i) = true := by decide +kernel

/-- R197 check 2: a field that the instruction does not use is not zero. -/
theorem ill_check2 : [Checks.lane 192 (.lIabs { dst := 1, sa := 2, sb := 3 }), Checks.lane 192 (.lFadd { sc := 1, fmt := 0x10 }),
    Checks.lane 192 (.lPref { data := 1 }), Checks.lane 192 (.lMbatch { bat := 1, cnt := 1 }),
    Checks.lane 192 (.lElse { t1 := 1, neg := 1 }), Checks.lane 192 (.lShfl { sb := 200, mod := 1 })] =
    List.replicate 6 (some 2) := by decide +kernel

/-- Check 3: a reserved sub-field value. -/
theorem ill_check3 : [Checks.lane 192 (.lIcmp { sc := 6 }), Checks.lane 192 (.lRds { dst := 1, sc := 7 }),
    Checks.lane 192 (.lLds .x1 { base := 63, szf := 0x3A, mode := 0x30 }), Checks.lane 192 (.lAtom { imm := 9 <<< 15 }),
    Checks.lane 192 (.lBreak { cond := 1, k := 254 }), Checks.lane 192 (.lLd .x4 { base := 31, szf := 0x3C })] =
    List.replicate 6 (some 3) := by decide +kernel

/-- Check 4: a format that is undefined or not accepted, or does not go with the operation. -/
theorem ill_check4 : [Checks.lane 192 (.lIadd { fmt := 0x04 }), Checks.lane 192 (.lFadd { fmt := 0x00 }),
    Checks.lane 192 (.lGred { dst := 1, sa := 1, sb := 192, sc := 3, fmt := 0x10 }),
    Checks.lane 192 (.lAtom { imm := 8 <<< 15, szf := 0x00 }),
    Checks.lane 192 (.lMma { rb := 192, fmt := 0x10 })] = List.replicate 5 (some 4) := by decide +kernel

/-- Check 5: an operand specifier beyond the declared registers, a misaligned run, a register that is not uniform. -/
theorem ill_check5 : [Checks.lane 64 (.lIadd { dst := 64 }), Checks.lane 192 (.lQz { sa := 12, sb := 192, fmt := 0x21 }),
    Checks.lane 192 (.lSync { sa := 191 }), Checks.lane 192 (.lMma { rb := 193, fmt := 0x12 }),
    Checks.lane 192 (.lWform .iadd { dst := 192, sa := 1, sb := 192 }), Checks.lane 192 (.lBra { cond := 3, t1 := 1 }),
    Checks.lane 192 (.lLd .x4 { base := 31, szf := 0x3B })] =
    List.replicate 7 (some 5) := by decide +kernel

/-- Check 6: a source-B modifier that breaks R184. -/
theorem ill_check6 : [Checks.lane 192 (.lIadd { sb := 192, mod := 1 }), Checks.lane 192 (.lMov { dst := 1, sb := 2, mod := 0x018 })] =
    List.replicate 2 (some 6) := by decide +kernel

/-- No word encodes an event. -/
theorem ill_event : wellFormed (.eLoadReturn 0 0) = false ∧ encode (.eLoadReturn 0 0) = none := by decide +kernel

/-! ## Decoding: for every instruction a word written out from the encoding tables of chapter 06 (the composer's rows
of Tables 6.2 to 6.4 in the operand order of the opcode table; opcodes of Table 6.5 with the fields of Tables 6.6, 6.9,
6.10, 6.13 and 6.15) -/

/-- Every word of the list decodes to its instruction. -/
def decodes (nbits : Nat) (l : List (Nat × Instr)) : Bool := l.all fun e => decodeTableWord nbits e.1 = some e.2

theorem decode_composer_1 : decodes 32 [
    (0x0113_9000, .cAdd 8 19 18),
    (0x00AC_A001, .cSub 5 12 20),
    (0x0215_9802, .cMul 16 21 19),
    (0x0074_0803, .cMulh 3 20 1),
    (0x03DB_8004, .cDivu 30 27 16),
    (0x0132_4005, .cRemu 9 18 8),
    (0x00F7_8008, .cAnd 7 23 16),
    (0x025B_9009, .cOr 18 27 18),
    (0x020D_A80A, .cXor 16 13 21),
    (0x0385_4010, .cShl 28 5 8),
    (0x02A5_8811, .cShr 21 5 17),
    (0x01B8_0812, .cSra 13 24 1),
    (0x02D9_1818, .cSlt 22 25 3),
    (0x00D9_9819, .cSltu 6 25 19),
    (0x004A_081A, .cMin 2 10 1),
    (0x037C_481B, .cMax 27 28 9),
    (0x0614_C674, .cAddi 16 20 50804),
    (0x0AFA_DA97, .cAndi 23 26 55959),
    (0x0DB8_E3A5, .cOri 13 24 58277),
    (0x13FE_44AF, .cXori 31 30 17583),
    (0x17AC_000C, .cShli 29 12 12),
    (0x1845_003F, .cShri 2 5 63),
    (0x1CE9_0037, .cSrai 7 9 55),
    (0x2335_9A20, .cSlti 25 21 39456),
    (0x25C0_C590, .cLui 14 50576),
    (0x2A6C_02F4, .cInsf 19 12 11 52),
    (0x2FAB_02F4, .cExtf 29 11 11 52),
    (0x4296_6354, .cLd 20 22 1 2 852),
    (0x46F5_53FB, .cSt 23 21 1 1 1019),
    (0x4870_ACD8, .cAmo 3 16 21 2 0 3 1 4)] = true := by decide +kernel

theorem decode_composer_2 : decodes 32 [
    (0x4C00_001A, .cFence 1 5),
    (0x814E_D494, .cBeq 10 14 54420),
    (0x8784_16A0, .cBne 28 4 5792),
    (0x8A94_1702, .cBlt 20 20 5890),
    (0x8DB7_A972, .cBge 13 23 43378),
    (0x9249_78CE, .cBltu 18 9 30926),
    (0x944A_03B4, .cBgeu 2 10 948),
    (0x9866_EB6D, .cJal 3 453485),
    (0x9E92_1010, .cJalr 20 18 4112),
    (0xA3E0_0000, .cEvwait 31),
    (0xA400_0000, .cEret),
    (0xA800_650F, .cBrkc 25871),
    (0xAC00_0000, .cDone),
    (0xC00E_0000, .cEmit 14),
    (0xC40A_A400, .cEmitt 10 20 16),
    (0xC805_B800, .cEmitb 5 23),
    (0xCC02_5D00, .cEmitr 2 11 20),
    (0xD00C_0000, .cEmith 12),
    (0xD7E0_0000, .cSeal 31),
    (0xD805_6800, .cRun 5 13),
    (0xDC0D_7800, .cWaitf 13 15),
    (0xE01C_0000, .cFree 28),
    (0xE411_0000, .cGctlStop 17),
    (0xE40D_0001, .cGctlResume 13),
    (0xE415_0002, .cGctlStep 21),
    (0xE41C_0003, .cGctlKill 28),
    (0xEA80_0000, .cWfetch 20),
    (0xEED2_0000, .cMkshp 22 18),
    (0xF000_0000, .cLtrig),
    (0xF400_0000, .cDepwait)] = true := by decide +kernel

theorem decode_composer_3 : decodes 32 [
    (0xF880_0030, .cMfs 4 48),
    (0xFC0E_079A, .cMts 14 1946)] = true := by decide +kernel

theorem decode_integer : decodes 64 [
    (0x0005_1E3C_0000_0030, .lIadd { dst := 10, sa := 60, fmt := 1, sb := 120, qual := 16 }),
    (0x0106_1F3D_0000_0040, .lIsub { dst := 12, sa := 62, fmt := 2, sb := 122 }),
    (0x0207_203E_0000_0000, .lImul { dst := 14, sa := 64, fmt := 0, sb := 124 }),
    (0x0308_213F_0000_0000, .lImulh { dst := 16, sa := 66, fmt := 0, sb := 126 }),
    (0x0409_2240_0001_2900, .lImad { dst := 18, sa := 68, fmt := 8, sb := 128, sc := 37 }),
    (0x050A_2341_0000_0040, .lImin { dst := 20, sa := 70, fmt := 2, sb := 130 }),
    (0x060B_2442_0000_0120, .lImax { dst := 22, sa := 72, fmt := 9, sb := 132 }),
    (0x070C_2500_0000_0020, .lIabs { dst := 24, sa := 74, fmt := 1 }),
    (0x080D_2644_0001_4850, .lIdot4 { dst := 26, sa := 76, fmt := 2, sb := 136, sc := 41, qual := 16 }),
    (0x090E_2745_0000_0000, .lAnd { dst := 28, sa := 78, fmt := 0, sb := 138 }),
    (0x0A0F_2846_0000_0020, .lOr { dst := 30, sa := 80, fmt := 1, sb := 140 }),
    (0x0B10_2947_0000_0060, .lXor { dst := 32, sa := 82, fmt := 3, sb := 142 }),
    (0x0C11_2A48_0000_0100, .lAndn { dst := 34, sa := 84, fmt := 8, sb := 144 }),
    (0x0D12_2B00_0000_0000, .lNot { dst := 36, sa := 86, fmt := 0 }),
    (0x0E13_2C4A_0000_0000, .lShl { dst := 38, sa := 88, fmt := 0, sb := 148 }),
    (0x0F14_2D4B_0000_0120, .lShr { dst := 40, sa := 90, fmt := 9, sb := 150 }),
    (0x1015_2E4C_0000_0040, .lSha { dst := 42, sa := 92, fmt := 2, sb := 152 }),
    (0x1116_2F4D_0000_0100, .lRotl { dst := 44, sa := 94, fmt := 8, sb := 154 }),
    (0x1217_3000_0000_0000, .lPopc { dst := 46, sa := 96, fmt := 0 }),
    (0x1318_3100_0000_0100, .lClz { dst := 48, sa := 98, fmt := 8 }),
    (0x1419_3200_0000_0000, .lBrev { dst := 50, sa := 100, fmt := 0 }),
    (0x151A_3351_0000_0100, .lBfe { dst := 52, sa := 102, fmt := 8, sb := 162 }),
    (0x161B_3452_0001_B800, .lBfi { dst := 54, sa := 104, fmt := 0, sb := 164, sc := 55 }),
    (0x171C_3553_0000_2820, .lIcmp { dst := 56, sa := 106, fmt := 1, sb := 166, sc := 5 }),
    (0x181D_3654_0001_C800, .lSel { dst := 58, sa := 108, fmt := 0, sb := 168, sc := 57 }),
    (0x3662_62E3_0006_3900, .lWform .bfi { dst := 196, sa := 197, sb := 198, sc := 199, fmt := 8 })] = true := by decide +kernel

theorem decode_floating_point_and_special_functions : decodes 64 [
    (0x400A_5FE4_0000_020C, .lFadd { dst := 20, sa := 191, fmt := 16, sb := 200, qual := 12 }),
    (0x410A_DF64_8000_0234, .lFsub { dst := 21, sa := 190, fmt := 17, sb := 201, qual := 20 }),
    (0x420B_5EE5_0000_025C, .lFmul { dst := 22, sa := 189, fmt := 18, sb := 202, qual := 28 }),
    (0x438B_DE65_8007_FA04, .lFfma { dst := 23, sa := 188, fmt := 16, sb := 203, sc := 255, keepa := 1, qual := 4 }),
    (0x440C_5DE6_0000_0224, .lFmin { dst := 24, sa := 187, fmt := 17, sb := 204, qual := 4 }),
    (0x450C_DD66_8000_0244, .lFmax { dst := 25, sa := 186, fmt := 18, sb := 205, qual := 4 }),
    (0x460D_5CE7_0000_3A04, .lFcmp { dst := 26, sa := 185, fmt := 16, sb := 206, sc := 7, qual := 4 }),
    (0x470D_DC00_0000_0220, .lFclass { dst := 27, sa := 184, fmt := 17 }),
    (0x480E_5BE8_0000_024C, .lFscale { dst := 28, sa := 183, fmt := 18, sb := 208, qual := 12 }),
    (0x490E_DB00_0000_0214, .lFrnd { dst := 29, sa := 182, fmt := 16, qual := 20 }),
    (0x500F_5A80_0000_0224, .lFrcp { dst := 30, sa := 181, fmt := 17, qual := 4 }),
    (0x510F_DA00_0000_0244, .lFrsq { dst := 31, sa := 180, fmt := 18, qual := 4 }),
    (0x5210_5980_0000_021C, .lFsqrt { dst := 32, sa := 179, fmt := 16, qual := 28 }),
    (0x5310_D900_0000_0224, .lFexp2 { dst := 33, sa := 178, fmt := 17, qual := 4 }),
    (0x5411_5880_0000_0244, .lFlog2 { dst := 34, sa := 177, fmt := 18, qual := 4 }),
    (0x5511_D800_0000_0204, .lFsin { dst := 35, sa := 176, fmt := 16, qual := 4 }),
    (0x5612_5780_0000_0224, .lFcos { dst := 36, sa := 175, fmt := 17, qual := 4 }),
    (0x5712_D700_0000_0244, .lFtanh { dst := 37, sa := 174, fmt := 18, qual := 4 }),
    (0x5813_5680_0000_0204, .lFsigm { dst := 38, sa := 173, fmt := 16, qual := 4 })] = true := by decide +kernel

theorem decode_conversion : decodes 64 [
    (0x7002_8300_0002_0A08, .lCvt { dst := 5, sa := 6, sc := 65, fmt := 16, qual := 8 }),
    (0x710A_8600_0000_029E, .lCvtn { dst := 21, sa := 12, fmt := 20, qual := 30 }),
    (0x720F_0480_0000_0060, .lCvtw { dst := 30, sa := 9, sc := 0, fmt := 3 }),
    (0x7310_03FD_0001_2A40, .lDq { dst := 32, sa := 7, sb := 250, sc := 37, fmt := 18 }),
    (0x7410_8805_0000_0448, .lQz { dst := 33, sa := 16, sb := 10, fmt := 34, qual := 8 }),
    (0x7500_0000_0000_3800, .lEfclr { sc := 7 }),
    (0x7600_5E00_0002_2800, .lEfmov { dst := 0, sa := 188, sc := 69 })] = true := by decide +kernel

theorem decode_moves_and_masked_operations : decodes 64 [
    (0x8001_8002_2C40_0000, .lMov { dst := 3, sb := 4, mod := 1416, fmt := 0 }),
    (0x81FA_0000_DEAD_BEEF, .lMovi { dst := 250, imm := 3735928559 }),
    (0x826F_8880_0000_F800, .lWmov { dst := 223, sa := 17, sc := 31 }),
    (0x8600_8101_8000_2000, .lPrmt { dst := 1, sa := 2, sb := 3, sc := 4 }),
    (0x8332_32FF_0003_3000, .lShfl { dst := 100, sa := 101, sb := 254, sc := 102 }),
    (0x846F_146E_8000_2800, .lVote { dst := 222, sa := 40, sb := 221, sc := 5 }),
    (0x8514_956E_0000_1200, .lGred { dst := 41, sa := 42, sb := 220, sc := 2, fmt := 16 }),
    (0x8800_6480_0000_1800, .lXset { sa := 201, sc := 3 }),
    (0x8B00_6500_0000_1000, .lXadd { sa := 202, sc := 2 }),
    (0x891B_E580_0000_0800, .lXld { dst := 55, sa := 203, sc := 1 }),
    (0x8A00_1C1C_8000_1800, .lXst { sa := 56, sb := 57, sc := 3 })] = true := by decide +kernel

theorem decode_memory : decodes 64 [
    (0x9008_7BFF_FFFF_0FBB, .lLd .x1 { data := 8, base := 30, ofs := 255, scl := 3, imm := 1048560, szf := 62, mode := 59 }),
    (0x9810_FD91_8BFF_CFA5, .lLds .x1 { data := 16, base := 63, ofs := 100, scl := 1, imm := 573436, szf := 62, mode := 37 }),
    (0x9418_7C1C_7FFF_FE15, .lSt .x1 { data := 24, base := 31, ofs := 7, scl := 0, imm := 524287, szf := 56, mode := 21 }),
    (0x9C20_2B22_0001_0E10, .lSts .x1 { data := 32, base := 10, ofs := 200, scl := 2, imm := 16, szf := 56, mode := 16 }),
    (0x9108_7BFF_FFFF_0EFB, .lLd .x2 { data := 8, base := 30, ofs := 255, scl := 3, imm := 1048560, szf := 59, mode := 59 }),
    (0x9910_FD91_8BFF_CEE5, .lLds .x2 { data := 16, base := 63, ofs := 100, scl := 1, imm := 573436, szf := 59, mode := 37 }),
    (0x9518_7C1C_7FFF_F2D5, .lSt .x2 { data := 24, base := 31, ofs := 7, scl := 0, imm := 524287, szf := 11, mode := 21 }),
    (0x9D20_2B22_0001_02D0, .lSts .x2 { data := 32, base := 10, ofs := 200, scl := 2, imm := 16, szf := 11, mode := 16 }),
    (0x9208_7BFF_FFFF_0EBB, .lLd .x4 { data := 8, base := 30, ofs := 255, scl := 3, imm := 1048560, szf := 58, mode := 59 }),
    (0x9A10_FD91_8BFF_CEA5, .lLds .x4 { data := 16, base := 63, ofs := 100, scl := 1, imm := 573436, szf := 58, mode := 37 }),
    (0x9618_7C1C_7FFF_FE95, .lSt .x4 { data := 24, base := 31, ofs := 7, scl := 0, imm := 524287, szf := 58, mode := 21 }),
    (0x9E20_2B22_0001_0E90, .lSts .x4 { data := 32, base := 10, ofs := 200, scl := 2, imm := 16, szf := 58, mode := 16 }),
    (0xA000_1425_0002_0000, .lFeopSetf { base := 5, ofs := 9, scl := 1, imm := 32, szf := 0 }),
    (0xA000_182A_0003_0040, .lFeopSete { base := 6, ofs := 10, scl := 2, imm := 48, szf := 1 }),
    (0xA00B_1C33_0004_0080, .lFeopRdf { data := 11, base := 7, ofs := 12, scl := 3, imm := 64, szf := 2 }),
    (0xA10E_083E_3C00_82C7, .lAtom { data := 14, base := 2, ofs := 15, scl := 2, imm := 245768, szf := 11, mode := 7 }),
    (0xA20F_0C42_41FF_C406, .lRed { data := 15, base := 3, ofs := 16, scl := 2, imm := 270332, szf := 16, mode := 6 }),
    (0xA310_1046_1000_440A, .lRedCu { data := 16, base := 4, ofs := 17, scl := 2, imm := 65540, szf := 16, mode := 10 }),
    (0xA400_144B_0010_0010, .lPref { base := 5, ofs := 18, scl := 3, imm := 256, mode := 16 }),
    (0xA500_0000_0000_0036, .lFence { mode := 54 })] = true := by decide +kernel

theorem decode_synchronisation_and_system : decodes 64 [
    (0xB000_6000_0000_0000, .lSync { sa := 192 }),
    (0xB100_6080_0000_B000, .lRvinit { sa := 193, sc := 22 }),
    (0xB261_0000_0000_A800, .lArrive { dst := 194, sc := 21 }),
    (0xB300_6180_0000_A000, .lWait { sa := 195, sc := 20 }),
    (0xB400_6200_0000_9800, .lRarrive { sa := 196, sc := 19 }),
    (0xB500_6280_0000_0000, .lSpana { sa := 197 }),
    (0xB600_6300_0000_0000, .lSpanw { sa := 198 }),
    (0xE800_0000_0000_0000, .lTfence {}),
    (0xE900_0000_0005_2800, .lTrap { sc := 165 }),
    (0xEA00_0000_0002_D000, .lBrk { sc := 90 }),
    (0xEB14_0000_0000_A000, .lRds { dst := 40, sc := 20 }),
    (0xEC00_6900_0000_4000, .lWrs { sa := 210, sc := 8 })] = true := by decide +kernel

theorem decode_control : decodes 64 [
    (0xC0FF_00FF_F000_0001, .lBra { cond := 255, t1 := 4095, neg := 1 }),
    (0xC107_0001_1000_0000, .lBrx { cond := 7, t1 := 17 }),
    (0xC200_C800_900A_0000, .lCall { link := 200, t1 := 9, t2 := 10 }),
    (0xC300_C900_0000_0000, .lRet { link := 201 }),
    (0xC408_0001_2000_0001, .lIf { cond := 8, t1 := 18, neg := 1 }),
    (0xC500_0001_3000_0000, .lElse { t1 := 19 }),
    (0xC600_0000_0000_0000, .lEndif {}),
    (0xC700_0000_0000_0000, .lLoop {}),
    (0xC809_0000_0000_FD00, .lBreak { cond := 9, k := 253 }),
    (0xC90A_0000_0000_0201, .lCont { cond := 10, k := 2, neg := 1 }),
    (0xCA00_0001_4000_0000, .lEndl { t1 := 20 }),
    (0xCB00_0000_0000_0000, .lExit {}),
    (0xCC00_0000_0000_0000, .lYield {}),
    (0xCD00_0000_0000_0000, .lNop {})] = true := by decide +kernel

theorem decode_matrix_copy_and_collective : decodes 64 [
    (0xD0B0_FC77_0000_9000, .lMma { ra := 176, rb := 252, tr := 7, tc := 7, fmt := 36 }),
    (0xD110_C012_0003_4828, .lMloop { ra := 16, rb := 192, tr := 1, tc := 2, cnt := 3, fmt := 18, xq := 40 }),
    (0xD200_0000_F000_0000, .lMbatch { bat := 15 }),
    (0xD300_0000_E000_0000, .lMwait { bat := 14 }),
    (0xD400_0034_0000_0000, .lAclr { tr := 3, tc := 4 }),
    (0xD500_CD56_0000_4800, .lAld { rb := 205, tr := 5, tc := 6, fmt := 18 }),
    (0xD600_CE21_0000_50D0, .lAst { rb := 206, tr := 2, tc := 1, fmt := 20, xq := 208 }),
    (0xD7BF_0000_9001_0000, .lScfeed { ra := 191, bat := 9, cnt := 1 }),
    (0xE000_F000_D000_0100, .lCpy { rb := 240, bat := 13, xq := 256 }),
    (0xE100_0000_C000_0000, .lCwait { bat := 12 }),
    (0xE200_F200_0000_0000, .lColl { rb := 242 }),
    (0xE3FA_F000_0000_0003, .lCtrig { ra := 250, rb := 240, xq := 3 }),
    (0xE400_F100_0000_0000, .lCdisarm { rb := 241 })] = true := by decide +kernel

theorem decode_no_instruction : decodes 32 [(0x0000_0006, .xAbsentComposerOpcode 0x0000_0006), (0x3000_0000, .xAbsentComposerOpcode 0x3000_0000)] = true ∧
    decodes 64 [(0x1900_0000_0000_0000, .xUnallocatedLaneOpcode 0x1900_0000_0000_0000), (0xFF00_0000_0000_0001, .xUnallocatedLaneOpcode 0xFF00_0000_0000_0001)] = true ∧
    decodeTableWord 64 0xF000_2000_0000_0000 = none ∧ decodeTableWord 16 0 = none := by decide +kernel

/-- The check that a word fails (06 R197). -/
def failedCheck (w : Word64) : Option Nat :=
  match Sys2Proof.decodeLane 192 w with | .error (.illop n) => some n | _ => none

/-- An ordering kind without MODE[0] fails MODE's check, DATA of FEOP.SETF the specifiers', MODE of FEOP is must-be-zero. -/
theorem decode_names_the_last_check :
    [(0xA104_7FFC_0000_0200 : Word64), 0xA104_7FFC_0200_0200, 0xA004_FFFC_0000_0000, 0xA004_FFFC_0000_0040, 0xA0FF_FFFC_0000_0001].map failedCheck =
      [none, some 3, some 5, some 5, some 2] := by decide +kernel

/-! ## Witnesses: states and operands that meet the hypotheses of the statements about the composer -/

/-- Core 0 of die 0 with a team of one group, its composer about to act. -/
def compSt (f : Team → Team) : State := { placeTeam State.reset (f probeTeam) with cur := .composer 0 0 }

/-- The composer's registers g1 and g2. -/
def withG (x y : Word64) (t : Team) : Team := { t with comp := (t.comp.setReg 1 x).setReg 2 y }

def compAtB (s : State) (t : Team) : Bool :=
  s.cur = .composer 0 0 && s.team? 0 0 = some t && compReady t && !t.comp.dbgStep

theorem compAt_of (s : State) (t : Team) (h : compAtB s t = true) : CompAt s 0 0 t := by
  simp only [compAtB, Bool.and_eq_true, decide_eq_true_eq, Bool.not_eq_true'] at h
  exact ⟨h.1.1.1, h.1.1.2, h.1.2, h.2⟩

/-- The composer may act with `f probeTeam`, and `p` holds of that team. -/
abbrev CompWit (f : Team → Team) (p : Team → Prop) : Prop := CompAt (compSt f) 0 0 (f probeTeam) ∧ p (f probeTeam)

theorem wit_ComposerIntegerResults :
    CompWit (withG 0 0) (fun t => t.comp.reg 2 = 0 ∧ (0 : BitVec 6).toNat + (63 : BitVec 6).toNat + 1 ≤ 64) ∧
    CompWit (withG 7 64) (fun t => 64 ≤ (t.comp.reg 2).toNat % 256 ∧ (63 : BitVec 6).toNat + (0 : BitVec 6).toNat + 1 ≤ 64) :=
  ⟨⟨compAt_of _ _ (by decide +kernel), by decide +kernel⟩, ⟨compAt_of _ _ (by decide +kernel), by decide +kernel⟩⟩

theorem wit_ComposerBranchTargets :
    CompWit (withG 8 8) (fun t => (t.comp.reg 1 + (4 : BitVec 16).signExtend 64).toNat % 4 = 0) ∧
    CompWit (withG 8 9) (fun t => (t.comp.reg 1 + (1 : BitVec 16).signExtend 64).toNat % 4 ≠ 0) :=
  ⟨⟨compAt_of _ _ (by decide +kernel), by decide +kernel⟩, ⟨compAt_of _ _ (by decide +kernel), by decide +kernel⟩⟩

theorem wit_ComposerStoreAccess :
    CompWit (withG 1 0) (fun t => (t.comp.reg 1).toNat % 2 ≠ 0) ∧
    CompWit (withG 0x20000 0) (fun t => (t.comp.reg 1).toNat % 8 = 0 ∧ 0x20000 ≤ (t.comp.reg 1).toNat) ∧
    CompWit (withG 0x1FFF8 0) (fun t => (t.comp.reg 1).toNat % 8 = 0 ∧ (t.comp.reg 1).toNat < 0x20000) ∧
    CompWit (withG 1568768 0) (fun t => (t.comp.reg 1).toNat % 8 = 0 ∧ t.scratch ≤ (t.comp.reg 1).toNat) ∧
    CompWit (withG 1568760 0) (fun t => (t.comp.reg 1).toNat % 8 = 0 ∧ (t.comp.reg 1).toNat < t.scratch ∧
      t.lockHit true false 1568760 8 = false ∧ t.lockHit true true 1568760 8 = false) :=
  ⟨⟨compAt_of _ _ (by decide +kernel), by decide +kernel⟩, ⟨compAt_of _ _ (by decide +kernel), by decide +kernel⟩,
   ⟨compAt_of _ _ (by decide +kernel), by decide +kernel⟩, ⟨compAt_of _ _ (by decide +kernel), by decide +kernel⟩,
   ⟨compAt_of _ _ (by decide +kernel), by decide +kernel⟩⟩

/-- The access at `va` translates, `ok` holds of the entry, and its bytes can be read. -/
def reaches (s : State) (va n : Nat) (ok : Die → TlbEntry → Bool) : Bool :=
  match translate (s.die 0) 0 .composer [] va with
  | (x, .ok e) => ok x e && (match readAt (s.updDie 0 fun _ => x) 0 (locAt s 0 e va) n (pageLl e.leaf) with | (_, .ok _) => true | _ => false)
  | _ => false

theorem wit_ComposerGlobalAccess :
    CompWit (withG 64 5) (fun t => (t.comp.reg 1).toNat % 8 = 0 ∧ t.lockHit false true 64 8 = false ∧
      t.lockHit false false 64 8 = false ∧
      reaches (compSt (withG 64 5)) 64 8 (fun x e => denied x .load 8 64 e = none && denied x .store 8 64 e = none &&
        !loadHeld (compSt (withG 64 5)) 0 0 t .composer 0 (locAt (compSt (withG 64 5)) 0 e 64) 8) = true) ∧
    CompWit (withG 0x10_0000_0000_0000 5) (fun t => (t.comp.reg 1).toNat % 8 = 0 ∧
      (translate ((compSt (withG 0x10_0000_0000_0000 5)).die 0) 0 .composer [] (2 ^ 52)).2 = .fail Cause.NONCANON) :=
  ⟨⟨compAt_of _ _ (by decide +kernel), by decide +kernel⟩, ⟨compAt_of _ _ (by decide +kernel), by decide +kernel⟩⟩

/-- The composer with its page replaced by one of leaf `l`. -/
def pagedSt (l : Leaf) : State :=
  (compSt (withG 64 5)).updDie 0 fun x => { x with coreTlb := [(0, [{ probePage with leaf := l }])] }

/-- The cause for which a translated access at 64 is denied. -/
def deniesB (s : State) (a : Access) (n : Nat) : Option (Option Nat) :=
  match translate (s.die 0) 0 .composer [] 64 with
  | (x, .ok e) => some (denied x a n 64 e)
  | _ => none

/-- A page without W denies a store, a device page a load of one byte. -/
theorem wit_ComposerDenied :
    (CompAt (pagedSt { probePage.leaf with w := false }) 0 0 (withG 64 5 probeTeam) ∧
      deniesB (pagedSt { probePage.leaf with w := false }) .store 8 = some (some Cause.NOWRITE)) ∧
    (CompAt (pagedSt { probePage.leaf with cache := 3 }) 0 0 (withG 64 5 probeTeam) ∧
      deniesB (pagedSt { probePage.leaf with cache := 3 }) .load 1 = some (some Cause.DEVICEKIND)) :=
  ⟨⟨compAt_of _ _ (by decide +kernel), by decide +kernel⟩, ⟨compAt_of _ _ (by decide +kernel), by decide +kernel⟩⟩

theorem wit_ComposerAtomicAndFence :
    CompWit (withG 1568760 3) (fun t => t.comp.storeErr = none ∧ t.drained .composer = true ∧
      t.peerPending .composer = false ∧ (t.comp.reg 1).toNat % 8 = 0 ∧ (t.comp.reg 1).toNat < t.scratch ∧
      t.lockHit true true 1568760 8 = false ∧ clusterHome ((compSt (withG 1568760 3)).die 0) 0 = true ∧
      spAmoReady ((compSt (withG 1568760 3)).die 0) t 0 1568760 8 5 = true ∧ t.badSp 1568760 8 = false) ∧
    CompWit (withG 64 3) (fun t => t.comp.storeErr = none ∧ t.drained .composer = true ∧ t.peerPending .composer = false ∧
      t.lockHit false true 64 8 = false ∧
      reaches (compSt (withG 64 3)) 64 8 (fun x e => denied x .atomic 8 64 e = none) = true) ∧
    CompWit (withG 2 3) (fun t => t.comp.storeErr = none ∧ t.drained .composer = true ∧ t.peerPending .composer = false ∧
      (t.comp.reg 1).toNat % 4 ≠ 0) :=
  ⟨⟨compAt_of _ _ (by decide +kernel), by decide +kernel⟩, ⟨compAt_of _ _ (by decide +kernel), by decide +kernel⟩,
   ⟨compAt_of _ _ (by decide +kernel), by decide +kernel⟩⟩

/-- The composer with an open frame. -/
def emitting (x y : Word64) (o : OpenFrame) (p : Option PendEmit) (t : Team) : Team :=
  let u := withG x y t
  { u with opened := some o, comp := { u.comp with pend := p } }

/-- The open frame `o` has room for a word. -/
abbrev Room (t : Team) (o : OpenFrame) : Prop :=
  t.opened = some o ∧ o.words < 4096 ∧ (o.words % 64 = 0 → t.freeChunks ≠ [])

theorem wit_EmissionAppendsWords :
    CompWit (emitting 5 2 { opened := true, starts := [0] } none) (fun t => Room t { opened := true, starts := [0] } ∧
      isHeader (t.comp.reg 1) = false ∧ 0 < (t.comp.reg 2).toNat) ∧
    CompWit (emitting 16 2 { chunks := [7], words := 63, opened := true, starts := [0] } none) (fun t =>
      Room t { chunks := [7], words := 63, opened := true, starts := [0] } ∧ (t.comp.reg 1).toNat % 16 = 0 ∧
      (t.comp.reg 1).toNat < 0x20000 ∧ isHeader (BitVec.ofNat 64 (t.store.read 16 8)) = false ∧
      patchOk (t.store.read 24 8) = true ∧
      isHeader (patchField (patchField (rebase t.comp.bbase 0) 0 (patchOf 0).l1 (patchOf 0).w1) 0 (patchOf 0).l2 (patchOf 0).w2) = false) ∧
    CompWit (emitting 5 0 { opened := true, starts := [0] } none) (fun t => t.comp.reg 2 = 0 ∧ t.comp.pend = none) ∧
    CompWit (emitting 5 2 { opened := true, starts := [0] } (some { i := 1 })) (fun t =>
      1 + 1 = (t.comp.reg 2).toNat ∧ t.comp.pend = some { i := 1 } ∧ isHeader (t.comp.reg 1 + 1 * t.comp.reg 2) = false) ∧
    CompWit (emitting 0xF000_000F_FF00_0000 0 { chunks := List.range 64, words := 4095, starts := [0] } none) (fun t =>
      Room t { chunks := List.range 64, words := 4095, starts := [0] } ∧ headerOk (t.comp.reg 1) = true ∧
      (t.comp.reg 1).extractLsb' 44 12 = 0 ∧ (t.comp.reg 1).extractLsb' 0 12 = 0) ∧
    CompWit (emitting 0xF000_000F_FF00_0000 0 { chunks := [0], words := 2, opened := true, starts := [0] } none) (fun t =>
      Room t { chunks := [0], words := 2, opened := true, starts := [0] } ∧ headerOk (t.comp.reg 1) = true ∧
      2 ≤ openLen { chunks := [0], words := 2, opened := true, starts := [0] } ∧
      openLen { chunks := [0], words := 1, opened := true, starts := [0] } ≤ 1) ∧
    CompWit (withG 0xF000_000F_FF00_0000 0) (fun t => t.opened = none ∧ headerOk (t.comp.reg 1) = true ∧
      ({} : OpenFrame).words < 4096 ∧ t.freeChunks ≠ []) :=
  ⟨⟨compAt_of _ _ (by decide +kernel), by decide +kernel⟩, ⟨compAt_of _ _ (by decide +kernel), by decide +kernel⟩,
   ⟨compAt_of _ _ (by decide +kernel), by decide +kernel⟩, ⟨compAt_of _ _ (by decide +kernel), by decide +kernel⟩,
   ⟨compAt_of _ _ (by decide +kernel), by decide +kernel⟩, ⟨compAt_of _ _ (by decide +kernel), by decide +kernel⟩,
   ⟨compAt_of _ _ (by decide +kernel), by decide +kernel⟩⟩

/-- A template of one block of two words at offset 32 of the composer store. -/
def templated (t : Team) : Team :=
  { emitting 32 1 {} none t with store := Mem.write [] 32 8 0xF000_200F_FF00_0000 }

theorem wit_TemplateBlocksAndSeal :
    CompWit templated (fun t => Room t {} ∧ (t.comp.reg 1).toNat % 16 = 0 ∧ (t.comp.reg 1).toNat < 0x20000 ∧
      1 ≤ (t.comp.reg 2).toNat ∧ (t.comp.reg 2).toNat ≤ 4096 ∧ headerOk (BitVec.ofNat 64 (t.store.read 32 8)) = true ∧
      Bits.field (t.store.read 32 8) 44 12 ≠ 0 ∧ Bits.field (t.store.read 32 8) 44 12 ≠ 1 ∧
      (Bits.field (t.store.read 32 8) 0 12 + t.comp.bbase.toNat) % 4096 = 0) ∧
    CompWit (emitting 0 0 { chunks := [0], words := 1, opened := true, starts := [0] } (some { i := 1, ofs := 0x1FFF0, blocks := 0, left := 1 }))
      (fun t => t.comp.pend = some { i := 1, ofs := 0x1FFF0, blocks := 0, left := 1 } ∧
        isHeader (BitVec.ofNat 64 (t.store.read 0x1FFF0 8)) = false ∧
        isHeader (rebase t.comp.bbase (BitVec.ofNat 64 (t.store.read 0x1FFF0 8))) = false) ∧
    CompWit (emitting 0 0 { chunks := [0], words := 2, starts := [0] } none) (fun t =>
      t.freeFrame = some 0 ∧ 0 < t.frames.length) ∧
    CompWit (emitting 0 0 { chunks := [0], words := 2, opened := true, starts := [0] } none) (fun t =>
      t.freeFrame = some 0 ∧ 2 ≤ openLen { chunks := [0], words := 2, opened := true, starts := [0] }) ∧
    CompWit (fun t => { templated t with opened := some { chunks := [0], words := 2, opened := true, starts := [0] }
                                         store := Mem.write [] 32 8 0xF000_200F_FF00_0001 }) (fun t =>
      Room t { chunks := [0], words := 2, opened := true, starts := [0] } ∧ headerOk (BitVec.ofNat 64 (t.store.read 32 8)) = true ∧
      2 ≤ openLen { chunks := [0], words := 2, opened := true, starts := [0] } ∧
      (Bits.field (t.store.read 32 8) 0 12 + t.comp.bbase.toNat) % 4096 = [0].length) ∧
    CompWit (emitting 0 1 { chunks := [0], words := 1, opened := true, starts := [0] } none) (fun t => t.comp.pend = none ∧
      openLen { chunks := [0], words := 1, opened := true, starts := [0] } ≤ 1 ∧ (t.comp.reg 1).toNat % 16 = 0 ∧
      1 ≤ (t.comp.reg 2).toNat ∧ (t.comp.reg 2).toNat ≤ 4096) ∧
    CompWit (fun t => { emitting 0 0 { chunks := [0], words := 2, starts := [0] } (some { i := 2, ofs := 32, blocks := 1, left := 0 }) t with
                        store := Mem.write [] 32 8 0xF000_200F_FF00_0001 }) (fun t =>
      t.comp.pend = some { i := 2, ofs := 32, blocks := 1, left := 0 } ∧ t.badStore 32 16 = false ∧
      headerOk (BitVec.ofNat 64 (t.store.read 32 8)) = true ∧ (Bits.field (t.store.read 32 8) 0 12 + t.comp.bbase.toNat) % 4096 = [0].length) ∧
    CompWit (emitting 0 0 { chunks := [0], words := 1, opened := true, starts := [0] } (some { i := 1, ofs := 0x1FFF0, blocks := 0, left := 2 }))
      (fun t => t.comp.pend = some { i := 1, ofs := 0x1FFF0, blocks := 0, left := 2 } ∧ t.badStore 0x1FFF0 16 = false ∧
        isHeader (rebase t.comp.bbase (BitVec.ofNat 64 (t.store.read 0x1FFF0 8))) = false) :=
  ⟨⟨compAt_of _ _ (by decide +kernel), by decide +kernel⟩, ⟨compAt_of _ _ (by decide +kernel), by decide +kernel⟩,
   ⟨compAt_of _ _ (by decide +kernel), by decide +kernel⟩, ⟨compAt_of _ _ (by decide +kernel), by decide +kernel⟩,
   ⟨compAt_of _ _ (by decide +kernel), by decide +kernel⟩, ⟨compAt_of _ _ (by decide +kernel), by decide +kernel⟩,
   ⟨compAt_of _ _ (by decide +kernel), by decide +kernel⟩, ⟨compAt_of _ _ (by decide +kernel), by decide +kernel⟩⟩

theorem wit_EmissionFaults :
    CompWit (withG 5 1) (fun t => t.opened = none ∧ t.comp.pend = none ∧ t.comp.reg 2 ≠ 0) ∧
    CompWit (emitting 8 1 {} none) (fun t => t.opened = some {} ∧ (t.comp.reg 1).toNat % 16 ≠ 0) ∧
    CompWit (emitting 0x20000 1 { opened := true } none) (fun t => Room t { opened := true } ∧
      isHeader (t.comp.reg 1) = false ∧ (t.comp.reg 1).toNat % 16 = 0 ∧ 0x20000 ≤ (t.comp.reg 1).toNat) ∧
    CompWit (emitting 0xF000_0000_0000_0000 1 { opened := true } none) (fun t => isHeader (t.comp.reg 1) = true) :=
  ⟨⟨compAt_of _ _ (by decide +kernel), by decide +kernel⟩, ⟨compAt_of _ _ (by decide +kernel), by decide +kernel⟩,
   ⟨compAt_of _ _ (by decide +kernel), by decide +kernel⟩, ⟨compAt_of _ _ (by decide +kernel), by decide +kernel⟩⟩

/-- A sealed frame of one block, and the RUN word g1 of group 0 on it. -/
def runnable (w : Word64) (st : GState) (fr : Option Nat) (t : Team) : Team :=
  { withG w 0 t with frames := { st := .sealed, chunks := [0], words := 2, starts := [0] } :: List.replicate 15 {}
                     groups := [{ st := st, frame := fr }] }

theorem wit_RunStartsTheRange :
    CompWit (runnable 0x1_0000 .idle none) (fun t => (2 : BitVec 5).toNat ≤ 24 ∧ (t.frames.getD 0 {}).st = .sealed ∧
      0 < (t.frames.getD 0 {}).blocks ∧ 0 + 1 ≤ t.groups.length ∧ (t.groups[0]?).map (·.st) = some .idle) ∧
    CompWit (runnable 0x1_0000 .running (some 0)) (fun t => (t.groups[0]?).map (·.st) = some .running) ∧
    CompWit (runnable 0x1_0000 .stopped (some 0)) (fun t => (t.groups[0]?).map (·.st) = some .stopped ∧ ∀ x ∈ t.groups, x.st ≠ .running) ∧
    CompWit (runnable 0x2_0000 .idle none) (fun t => ¬ 0 + 2 ≤ t.groups.length) ∧
    CompWit (runnable 0x1_0001_0000 .idle none) (fun t => (t.frames.getD 1 {}).st = .free) :=
  ⟨⟨compAt_of _ _ (by decide +kernel), by decide +kernel⟩, ⟨compAt_of _ _ (by decide +kernel), by decide +kernel⟩,
   ⟨compAt_of _ _ (by decide +kernel), by decide +kernel⟩, ⟨compAt_of _ _ (by decide +kernel), by decide +kernel⟩,
   ⟨compAt_of _ _ (by decide +kernel), by decide +kernel⟩⟩

theorem wit_FramesWaitedForAndFreed :
    CompWit (withG 16 0) (fun t => 15 < (t.comp.reg 1).toNat) ∧
    CompWit (withG 15 0) (fun t => (t.frames.getD (t.comp.reg 1).toNat {}).st = .free ∧ plainRangeOk t (t.comp.reg 2) = false) ∧
    CompWit (fun t => { runnable 0 .running none t with comp := (withG 0 0x1_0000 t).comp }) (fun t =>
      (t.comp.reg 1).toNat ≤ 15 ∧ (t.frames.getD 0 {}).st ≠ .free ∧ plainRangeOk t (t.comp.reg 2) = true ∧
      (rangeGroups t (t.comp.reg 2)).all (fun x => x.frame ≠ some 0) = true) ∧
    CompWit (fun t => { runnable 0 .running (some 0) t with comp := (withG 0 0x1_0000 t).comp }) (fun t =>
      (rangeGroups t (t.comp.reg 2)).all (fun x => x.frame ≠ some 0) = false ∧ t.comp.evq = []) :=
  ⟨⟨compAt_of _ _ (by decide +kernel), by decide +kernel⟩, ⟨compAt_of _ _ (by decide +kernel), by decide +kernel⟩,
   ⟨compAt_of _ _ (by decide +kernel), by decide +kernel⟩, ⟨compAt_of _ _ (by decide +kernel), by decide +kernel⟩⟩

theorem wit_GroupsControlled :
    CompWit (runnable 0x2_0000 .running (some 0)) (fun t => plainRangeOk t (t.comp.reg 1) = false) ∧
    CompWit (runnable 0x1_0000 .running (some 0)) (fun t => plainRangeOk t (t.comp.reg 1) = true ∧
      (rangeGroups t (t.comp.reg 1)).all (fun x => !x.inFlight false && !x.arriving) = true) ∧
    CompWit (runnable 0x1_0000 .stopped (some 0)) (fun t => (t.groups[0]?).map (·.st) = some .stopped ∧ t.comp.evgrp.toNat = 0) :=
  ⟨⟨compAt_of _ _ (by decide +kernel), by decide +kernel⟩, ⟨compAt_of _ _ (by decide +kernel), by decide +kernel⟩,
   ⟨compAt_of _ _ (by decide +kernel), by decide +kernel⟩⟩

/-- The stopped group of the third witness is one that resumes without a merge. -/
theorem wit_Resumable : Resumable { st := .stopped, frame := some 0 } :=
  ⟨rfl, by decide, by decide, rfl, by decide +kernel⟩

/-- A composer with queued events. -/
def noticed (q : List Ev) (st : GState) (t : Team) : Team :=
  let u := runnable 0 st (some 0) t
  { u with comp := { u.comp with evq := q } }

theorem wit_EventsAndEnds :
    CompWit (noticed [.fault 0 {}] .stopped) (fun t => t.comp.evq = [.fault 0 {}] ∧
      ((compSt (noticed [.fault 0 {}] .stopped)).group? 0 0 0).isSome = true) ∧
    CompWit (noticed [.step 0 {}] .stopped) (fun t => t.comp.evq = [.step 0 {}]) ∧
    CompWit (noticed [.frame 3 255] .stopped) (fun t => t.comp.evq = [.frame 3 255]) ∧
    CompWit (noticed [] .idle) (fun t => t.comp.evq = [] ∧ (∀ x ∈ t.groups, x.st ≠ .running) ∧ t.comp.evctl.getLsbD 0 = false) ∧
    CompWit (noticed [] .running) (fun t => t.comp.evq = [] ∧ ∃ x ∈ t.groups, x.st = .running) :=
  ⟨⟨compAt_of _ _ (by decide +kernel), by decide +kernel⟩, ⟨compAt_of _ _ (by decide +kernel), by decide +kernel⟩,
   ⟨compAt_of _ _ (by decide +kernel), by decide +kernel⟩, ⟨compAt_of _ _ (by decide +kernel), by decide +kernel⟩,
   ⟨compAt_of _ _ (by decide +kernel), by decide +kernel⟩⟩

/-- A shape record at the start of the composer store: one dimension of 4 F32 elements, box 4. -/
def recorded (a : Word64) (w : Nat) (t : Team) : Team := { withG a 0 t with store := Mem.write [] 0 64 w }

/-- The team belongs to a launch with a work list (HMODE 2). -/
def listSt : State :=
  (compSt id).updDie 0 fun x => { x with launches := [{ key := probeTeam.key, pkt := [0x201], st := .running }] }

theorem wit_WorkShapesAndDependences :
    CompWit (withG 0 0) (fun t => usesList (compSt (withG 0 0)) 0 t = false ∧ t.comp.storeErr = none ∧ t.ltrigSent = false ∧
      (((compSt (withG 0 0)).die 0).launch? t.key).isNone = true ∧ shapeOf (t.store.read 0 64) = none) ∧
    CompWit (withG 0x20005 0) (fun t => 0x20000 < (t.comp.reg 1).toNat - (t.comp.reg 1).toNat % 64 + 64) ∧
    CompWit (recorded 5 (1 + 0x10 * 2 ^ 8 + 4 * 2 ^ 32 + 4 * 2 ^ 384)) (fun t => (t.comp.reg 1).toNat % 64 = 5 ∧
      (shapeOf (t.store.read 0 64)).isSome = true) ∧
    (CompAt listSt 0 0 probeTeam ∧ usesList listSt 0 probeTeam = true) :=
  ⟨⟨compAt_of _ _ (by decide +kernel), by decide +kernel⟩, ⟨compAt_of _ _ (by decide +kernel), by decide +kernel⟩,
   ⟨compAt_of _ _ (by decide +kernel), by decide +kernel⟩, ⟨compAt_of _ _ (by decide +kernel), by decide +kernel⟩⟩

theorem wit_ComposerSpecialRegisters : CompWit (withG 0xFFFF_FFFF_FFFF_FFFF 0) (fun t => t.comp.reg 1 = 0xFFFF_FFFF_FFFF_FFFF) :=
  ⟨compAt_of _ _ (by decide +kernel), by decide +kernel⟩

/-! ## Witnesses: lane instructions -/

/-- A running group in PC slot 0 at the first word of block 0 of a frame of two blocks of two words. -/
def laneGroup (mask : BitVec 32) : Group :=
  { st := .running, frame := some 0, pc0 := { st := .live, mask, mark := 0xFFF, block := 0, word := 1 } }

/-- A team whose group 0 is `x`. -/
def laneTeam (x : Group) : Team :=
  { probeTeam with
    fb := SMap.insert (SMap.insert [] 0 (0xF000_2000_0100_0000 : Word64)) 2 0xF000_200F_FF00_0001
    frames := { st := .running, chunks := [0], words := 4, starts := [0, 2] } :: List.replicate 15 {}
    groups := [x], permits := { matrix := 8192, vector := 2048, sfu := 1024, memory := 4096 } }

def laneSt (t : Team) : State := { placeTeam State.reset t with cur := .lane 0 0 0 0 }

def laneAtB (t : Team) (x : Group) (cls : PClass) (price : Nat) : Bool :=
  let s := laneSt t
  s.team? 0 0 = some t && s.group? 0 0 0 = some x && laneReady t x 0 && !x.unbound && mayStart s 0 0 cls price

theorem laneAt_of (t : Team) (x : Group) (cls : PClass) (price : Nat) (h : laneAtB t x cls price = true) :
    LaneQuiet (laneSt t) 0 0 0 0 t x cls price := by
  simp only [laneAtB, Bool.and_eq_true, decide_eq_true_eq, Bool.not_eq_true'] at h
  exact ⟨⟨rfl, h.1.1.1.1, h.1.1.1.2, h.1.1.2, h.2⟩, h.1.2⟩

/-- Slot 0 of `x` may issue an instruction of class `cls` at entry `e` of the price table, nothing of the group is in flight, and
`p` holds. -/
abbrev LaneWit (x : Group) (cls : PClass) (e : Nat) (p : Prop) : Prop :=
  LaneQuiet (laneSt (laneTeam x)) 0 0 0 0 (laneTeam x) x cls (((laneSt (laneTeam x)).die 0).priceOf e) ∧ p

/-- A group whose uniform registers w8 to w15 hold `l`. -/
def withW (l : List Word32) (x : Group) : Group :=
  (List.range l.length).foldl (fun y k => y.setW (8 + k) (l.getD k 0)) x

theorem wit_register_instructions :
    LaneWit (laneGroup 0) .vector 0 True ∧ LaneWit (laneGroup 0xFFFF_FFFF) .vector 1 True ∧
    LaneWit (laneGroup 0x8000_0001) .vector (fltEntry { fmt := 0x11 }) True ∧
    LaneWit (laneGroup 1) .vector (fmaEntry { fmt := 0x10 }) True ∧ LaneWit (laneGroup 1) .sfu 10 True ∧
    LaneWit (laneGroup 1) .vector 6 (residueBusy (laneTeam (laneGroup 1)) 0 = false) ∧
    LaneWit (laneGroup 1) .vector 7 True ∧ LaneWit (laneGroup 1) .vector 8 True :=
  ⟨⟨laneAt_of _ _ _ _ (by decide +kernel), trivial⟩, ⟨laneAt_of _ _ _ _ (by decide +kernel), trivial⟩,
   ⟨laneAt_of _ _ _ _ (by decide +kernel), trivial⟩, ⟨laneAt_of _ _ _ _ (by decide +kernel), trivial⟩,
   ⟨laneAt_of _ _ _ _ (by decide +kernel), trivial⟩, ⟨laneAt_of _ _ _ _ (by decide +kernel), by decide +kernel⟩,
   ⟨laneAt_of _ _ _ _ (by decide +kernel), trivial⟩, ⟨laneAt_of _ _ _ _ (by decide +kernel), trivial⟩⟩

/-- CVTN.EF of E4M3x4 into v20, DQ into v24 to v31, EFMOV from v4 meet the register conditions. -/
theorem wit_LaneConversionResults :
    Checks.ef { dst := 20, fmt := 0x13, qual := 1 } = true ∧ Checks.ef { dst := 20, fmt := 0x13 } = false ∧
    Fmt.perContainer 0x13 ≤ 4 ∧ (184 : Nat) + Checks.dqRegs { sc := 0x21, fmt := 0x10 } ≤ 192 ∧
    (188 : Nat) + 4 ≤ 192 ∧ (0x47 : BitVec 8).getLsbD 6 = true := by decide +kernel

theorem wit_IntegerElementRules : (0 : Nat) < 2 ^ 8 ∧ 255 < 2 ^ 8 ∧ 2 ^ 63 < 2 ^ 64 := by decide

theorem wit_ShiftCountRules :
    (Fmt.elemBits 0x00 = 32 ∧ Fmt.is64 0x00 = false) ∧ (Fmt.elemBits 0x01 = 16 ∧ Fmt.is64 0x01 = false ∧ 1 < 32 / 16) ∧
    (Fmt.elemBits 0x0A = 8 ∧ Fmt.is64 0x0A = false ∧ 3 < 32 / 8) ∧ (Fmt.elemBits 0x03 = 64 ∧ Fmt.is64 0x03 = true) := by decide +kernel

/-- x3 has base 8, count 4 and offset 0; strand 0 addresses position v1 of the window. -/
def indexed (v : Word32) : Group := (({ laneGroup 1 with x := SMap.insert [] 3 0x0000_0408 }).setV 1 0 v).setW 8 (v + 0x0400)

theorem wit_IndexRegisterRules :
    LaneWit (indexed 3) .vector 7 ((indexed 3).active 0 ≠ 0 ∧ xCount ((indexed 3).xreg 3) = 4 ∧
      xOff ((indexed 3).xreg 3) + ((indexed 3).operand 0 1).toNat < 4) ∧
    LaneWit (indexed 4) .vector 7 ((indexed 4).active 0 ≠ 0 ∧ ¬ xOff ((indexed 4).xreg 3) + ((indexed 4).operand 0 1).toNat < 4) ∧
    (let w := (indexed 8).operand 0 200
     LaneWit (indexed 8) .vector 7 (w.toNat / 2 ^ 24 = 0 ∧ xCount w ≠ 0 ∧ xBase w + xCount w ≤ (laneTeam (indexed 8)).vregs ∧ xOff w < xCount w)) ∧
    (let w := (indexed 190).operand 0 200
     LaneWit (indexed 190) .vector 7 (¬ xBase w + xCount w ≤ (laneTeam (indexed 190)).vregs)) :=
  ⟨⟨laneAt_of _ _ _ _ (by decide +kernel), by decide +kernel⟩, ⟨laneAt_of _ _ _ _ (by decide +kernel), by decide +kernel⟩,
   ⟨laneAt_of _ _ _ _ (by decide +kernel), by decide +kernel⟩, ⟨laneAt_of _ _ _ _ (by decide +kernel), by decide +kernel⟩⟩

/-! Memory instructions: strands 0 and 31 access w4:w5 + 0 (global) or w8 (scratchpad). -/

def accessing (mode szf : BitVec 6) (imm : BitVec 20) : MOps := { data := 4, base := 2, ofs := 255, imm, szf, mode }
def spAccessing (mode szf : BitVec 6) : MOps := { data := 4, base := 8, ofs := 255, szf, mode }

/-- Every active strand has passed its checks. -/
def passedB {α : Type} (r : Found α) (lock : α → Option (Nat × FaultInfo)) : Bool :=
  !r.miss && r.bads.isEmpty && r.oks.all (fun p => (lock p).isNone) && !r.oks.isEmpty

theorem passed_of {α : Type} (r : Found α) (lock : α → Option (Nat × FaultInfo)) (h : passedB r lock = true) : Passed r lock := by
  simp only [passedB, Bool.and_eq_true, Bool.not_eq_true', List.isEmpty_iff, List.all_eq_true, Option.isNone_iff_eq_none] at h
  exact ⟨h.1.1.1, h.1.1.2, h.1.2⟩

def memGroup : Group := (laneGroup 0x8000_0001).setW 4 0x40
def memCtx : LaneCtx := ctxOf 0 0 0 0 (laneTeam memGroup) memGroup
def memSt : State := laneSt (laneTeam memGroup)

/-- The price of an access of `memGroup`. -/
abbrev MemWit (price : Nat) : Prop := LaneQuiet (laneSt (laneTeam memGroup)) 0 0 0 0 (laneTeam memGroup) memGroup .memory price

theorem wit_LaneLoadsIssue :
    memGroup.active 0 ≠ 0 ∧
    MemWit (memPrice (fun x st => x.eaGlobal (accessing 0x25 0x3A 0) 20 st) memCtx (laneSt (laneTeam memGroup))) ∧
    MemWit (memPrice (fun x st => x.eaScratch (spAccessing 0 0x3A) st) memCtx (laneSt (laneTeam memGroup))) ∧
    Passed (checkAll memCtx memSt (planLoad memCtx (accessing 0x25 0x3A 0) 1)) (lockedUnit (laneTeam memGroup) (accessOf 0 2 0)) ∧
    Passed (checkAll memCtx memSt (planSp memCtx 4 0 (spAccessing 0 0x3A))) (lockedSp memCtx memSt false 4 0) ∧
    Passed (checkAll memCtx memSt (planSp memCtx 4 0 (spAccessing 0x10 0x3A))) (fun _ => none) ∧
    Passed (checkAll memCtx memSt (planSp memCtx 16 5 (spAccessing 0 2))) (lockedSp memCtx memSt false 16 5) :=
  ⟨by decide +kernel, laneAt_of _ _ _ _ (by decide +kernel), laneAt_of _ _ _ _ (by decide +kernel),
   passed_of _ _ (by decide +kernel), passed_of _ _ (by decide +kernel), passed_of _ _ (by decide +kernel), passed_of _ _ (by decide +kernel)⟩

theorem wit_LaneStoresQueue :
    memGroup.active 0 ≠ 0 ∧ memGroup.storeErr = none ∧ (laneTeam memGroup).peerPending (.group 0) = false ∧
    MemWit (memPrice (fun x st => x.eaGlobal (accessing 0 0x3A 0) 20 st) memCtx (laneSt (laneTeam memGroup))) ∧
    MemWit (memPrice (fun x st => x.eaGlobal (accessing 0 0x08 0) 13 st) memCtx (laneSt (laneTeam memGroup))) ∧
    MemWit (memPrice (fun x st => x.eaScratch (spAccessing 0 0x3A) st) memCtx (laneSt (laneTeam memGroup))) ∧
    Passed (checkAll memCtx memSt (planWrite memCtx .store 4 1 20 (accessOf 1 2 0) (accessing 0 0x3A 0)))
      (lockedWrite (laneTeam memGroup) 4 (accessOf 1 2 0)) ∧
    Passed (checkAll memCtx memSt (planSp memCtx 4 1 (spAccessing 0 0x3A))) (lockedSp memCtx memSt true 4 1) ∧
    Passed (checkAll memCtx memSt (planSp memCtx 16 5 (spAccessing 0 0))) (lockedSp memCtx memSt true 16 5) ∧
    Passed (checkAll memCtx memSt (planWrite memCtx .atomic 4 1 13 (accessOf 3 2 0) (accessing 0 0x08 0)))
      (lockedWrite (laneTeam memGroup) 4 (accessOf 3 2 0)) ∧
    Passed (checkAll memCtx memSt (planWrite memCtx .atomic 4 1 13 (accessOf 4 2 0) (accessing 0 0x08 0)))
      (lockedWrite (laneTeam memGroup) 4 (accessOf 4 2 0)) ∧
    Passed (checkAll memCtx memSt (planWrite memCtx .atomic 4 1 13 (accessOf 2 2 0) (accessing 7 0x08 0x3_8000)))
      (lockedWrite (laneTeam memGroup) 4 (accessOf 2 2 0)) :=
  ⟨by decide +kernel, by decide +kernel, by decide +kernel, laneAt_of _ _ _ _ (by decide +kernel), laneAt_of _ _ _ _ (by decide +kernel),
   laneAt_of _ _ _ _ (by decide +kernel), passed_of _ _ (by decide +kernel), passed_of _ _ (by decide +kernel),
   passed_of _ _ (by decide +kernel), passed_of _ _ (by decide +kernel), passed_of _ _ (by decide +kernel), passed_of _ _ (by decide +kernel)⟩

/-- Strand 31's address is misaligned, or lies in range locks of both kinds. -/
def strayGroup : Group := (memGroup.setW 4 0x41)
def strayCtx : LaneCtx := ctxOf 0 0 0 0 (laneTeam strayGroup) strayGroup
def straySt : State := laneSt (laneTeam strayGroup)
def lockedTeam : Team :=
  { laneTeam memGroup with locks := [Team.lockOn (.copy 0) true false 0x40 16, Team.lockOn (.matrix 0) true true 0 64] }
def lockedCtx : LaneCtx := ctxOf 0 0 0 0 lockedTeam memGroup
def lockedSt : State := laneSt lockedTeam
/-- The line that `memGroup` reduces is uncorrectable at its home. -/
def lostSt : State := memSt.updDie 0 fun x => { x with bad := [(2, true)] }

/-- The faults of the statements about lane accesses occur: a strand that fails a check, a lock, uncorrectable data. -/
theorem wit_LaneAccessFaults :
    laneAtB (laneTeam strayGroup) strayGroup .memory (memPrice (fun x st => x.eaGlobal (accessing 0x25 0x3A 0) 20 st) strayCtx (laneSt (laneTeam strayGroup))) = true ∧
    (let r := checkAll strayCtx straySt (planLoad strayCtx (accessing 0x25 0x3A 0) 1); !r.miss && !r.bads.isEmpty) = true ∧
    (let r := checkAll strayCtx straySt (planWrite strayCtx .store 4 1 20 (accessOf 1 2 0) (accessing 0 0x3A 0)); !r.miss && !r.bads.isEmpty) = true ∧
    (let r := checkAll strayCtx straySt (planWrite strayCtx .atomic 4 1 13 (accessOf 3 2 0) (accessing 0 0x08 0)); !r.miss && !r.bads.isEmpty) = true ∧
    (let r := checkAll lockedCtx lockedSt (planLoad lockedCtx (accessing 0x25 0x3A 0) 1)
     !r.miss && r.bads.isEmpty && !(r.oks.filterMap (lockedUnit lockedTeam (accessOf 0 2 0))).isEmpty) = true ∧
    (let r := checkAll lockedCtx lockedSt (planSp lockedCtx 4 0 (spAccessing 0 0x3A))
     !r.miss && r.bads.isEmpty && !(r.oks.filterMap (lockedSp lockedCtx lockedSt false 4 0)).isEmpty) = true ∧
    (let r := checkAll lockedCtx lockedSt (planWrite lockedCtx .store 4 1 20 (accessOf 1 2 0) (accessing 0 0x3A 0))
     !r.miss && r.bads.isEmpty && !(r.oks.filterMap (lockedWrite lockedTeam 4 (accessOf 1 2 0))).isEmpty) = true ∧
    (let r := checkAll memCtx lostSt (planWrite memCtx .atomic 4 1 13 (accessOf 3 2 0) (accessing 0 0x08 0))
     (ueStrands memCtx 4 (accessOf 3 2 0) r.s r.oks).2.isEmpty) = false := by decide +kernel

/-- A slot of a group with a load in flight may issue: the instructions that must not stand behind it pass their turn. -/
def busyGroup : Group :=
  { laneGroup 1 with pc1 := { st := .live, mask := 2, mark := 1, block := 0, word := 1, wait := .load }
                     loads := [{ i := .lLds .x1 { data := 4, base := 8, ofs := 255, szf := 0x3A }, slot := 1, mask := 1, units := [] }] }
theorem wit_behindALoad :
    busyGroup.accessing = true ∧ busyGroup.unbound = true ∧
    LaneAt (laneSt (laneTeam busyGroup)) 0 0 0 0 (laneTeam busyGroup) busyGroup .vector (((laneSt (laneTeam busyGroup)).die 0).priceOf 9) ∧
    (∃ l ∈ busyGroup.loads, l.mask &&& busyGroup.active 0 ≠ 0) :=
  ⟨by decide +kernel, by decide +kernel, ⟨rfl, by decide +kernel, by decide +kernel, by decide +kernel, by decide +kernel⟩, by decide +kernel⟩

theorem wit_LaneFenceAndPrefetch :
    memGroup.active 0 ≠ 0 ∧ memGroup.storeErr = none ∧ (laneTeam memGroup).drained (.group 0) = true ∧
    (laneTeam memGroup).peerPending (.group 0) = false ∧ clusterHome (memSt.die 0) 0 = true ∧
    MemWit (memPrice (fun x st => x.eaGlobal (accessing 0 0 0) 20 st) memCtx (laneSt (laneTeam memGroup))) ∧
    MemWit (((laneSt (laneTeam memGroup)).die 0).priceOf 16) :=
  ⟨by decide +kernel, by decide +kernel, by decide +kernel, by decide +kernel, by decide +kernel, laneAt_of _ _ _ _ (by decide +kernel),
   laneAt_of _ _ _ _ (by decide +kernel)⟩

/-! Synchronisation: w8 is the operand, point 3 expects two groups. -/

/-- Group 0 with strands 0 to 15 in slot 0 and 16 to 31 in the live slot 1, which waits for `o`. -/
def twoSlots (w : Word32) (o : Wait) : Group :=
  withW [w] { laneGroup 0xFFFF with pc1 := { st := .live, mask := 0xFFFF_0000, mark := 1, block := 0, word := 1, wait := o } }

def syncCtx (w : Word32) (o : Wait) : LaneCtx := ctxOf 0 0 0 0 (laneTeam (twoSlots w o)) (twoSlots w o)

/-- Point 3 is set up for two groups, its phase bit 0. -/
def pointed (p : Point) (x : Group) : Team := { laneTeam x with points := (List.replicate 24 {}).set 3 p }

abbrev SyncWit (t : Team) (x : Group) (p : Prop) : Prop :=
  LaneQuiet (laneSt t) 0 0 0 0 t x .vector (((laneSt t).die 0).priceOf 9) ∧ x.active 0 ≠ 0 ∧ p

theorem wit_LaneSynchronisation :
    SyncWit (laneTeam (twoSlots 0 .none)) (twoSlots 0 .none) ((twoSlots 0 .none).operand 0 200 = 0) ∧
    SyncWit (laneTeam (twoSlots 1 .none)) (twoSlots 1 .none) (syncBad (syncCtx 1 .none) 1 = 0 ∧
      (1 : Word32) &&& ((twoSlots 1 .none).slot 1).mask = 0) ∧
    SyncWit (laneTeam (twoSlots 0x1_8000 .none)) (twoSlots 0x1_8000 .none) (syncBad (syncCtx 0x1_8000 .none) 0x1_8000 = 0 ∧
      (0x1_8000 : Word32) &&& ((twoSlots 0x1_8000 .none).slot 1).mask ≠ 0) ∧
    SyncWit (laneTeam (twoSlots 0x1_8000 (.sync 0x1_8000))) (twoSlots 0x1_8000 (.sync 0x1_8000))
      (((twoSlots 0x1_8000 (.sync 0x1_8000)).slot 1).wait = .sync 0x1_8000) ∧
    SyncWit (laneTeam (laneGroup 0xFFFF)) (laneGroup 0xFFFF)
      (syncBad (ctxOf 0 0 0 0 (laneTeam (laneGroup 0xFFFF)) (laneGroup 0xFFFF)) 0x1_0000 ≠ 0) ∧
    SyncWit (laneTeam (twoSlots 0x1_8000 (.sync 0x2_8000))) (twoSlots 0x1_8000 (.sync 0x2_8000))
      (((twoSlots 0x1_8000 (.sync 0x2_8000)).slot 1).wait = .sync 0x2_8000 ∧ (0x2_8000 : Word32) ≠ 0x1_8000) ∧
    SyncWit (pointed { expected := 2 } (twoSlots 65535 .none)) (twoSlots 65535 .none)
      (65535 < 65536 ∧ (pointed { expected := 2 } (twoSlots 65535 .none)).points.getD 4 {} = {}) ∧
    SyncWit (pointed { expected := 2 } (twoSlots 1 .none)) (twoSlots 1 .none)
      (((pointed { expected := 2 } (twoSlots 1 .none)).point 3).expected ≠ 0 ∧
       ((pointed { expected := 2 } (twoSlots 1 .none)).point 3).phase ≠ (1 : Word32).getLsbD 0 ∧
       ((pointed { expected := 2 } (twoSlots 1 .none)).point 3).time + 8 * 0 ≤ (laneSt (laneTeam (twoSlots 1 .none))).pkg.mclk) ∧
    SyncWit (pointed { expected := 2 } (twoSlots 0 .none)) (twoSlots 0 .none)
      ((0 : Word32).toNat < 256 ∧ (pointed { expected := 2 } (twoSlots 0 .none)).inRect 0 = true ∧
       ((pointed { expected := 2 } (twoSlots 0 .none)).point 3).phase = (0 : Word32).getLsbD 0) :=
  ⟨⟨laneAt_of _ _ _ _ (by decide +kernel), by decide +kernel⟩, ⟨laneAt_of _ _ _ _ (by decide +kernel), by decide +kernel⟩,
   ⟨laneAt_of _ _ _ _ (by decide +kernel), by decide +kernel⟩, ⟨laneAt_of _ _ _ _ (by decide +kernel), by decide +kernel⟩,
   ⟨laneAt_of _ _ _ _ (by decide +kernel), by decide +kernel⟩, ⟨laneAt_of _ _ _ _ (by decide +kernel), by decide +kernel⟩,
   ⟨laneAt_of _ _ _ _ (by decide +kernel), by decide +kernel⟩, ⟨laneAt_of _ _ _ _ (by decide +kernel), by decide +kernel⟩,
   ⟨laneAt_of _ _ _ _ (by decide +kernel), by decide +kernel⟩⟩

/-- A team of two cores (rectangle 2 by 1) with a resident neighbour, for RARRIVE to another core. -/
def pairTeam : Team := { pointed { expected := 1 } (withW [1] (laneGroup 1)) with rect := 0x1_0100 }
def pairSt : State := { ((laneSt pairTeam).updDie 0 fun x => { x with teams := x.teams.insert 1 pairTeam }) with cur := .lane 0 0 0 0 }

theorem wit_RarriveRemote :
    pairSt.team? 0 0 = some pairTeam ∧ pairTeam.inRect 1 = true ∧ remotePresent (pairSt.die 0) 1 = true ∧
    pairTeam.peerPending (.group 0) = false ∧ laneReady pairTeam (withW [1] (laneGroup 1)) 0 = true := by decide +kernel

/-- SPANA word: cell 0, count 1, a sub-rectangle of one team. -/
def spanWord : Word32 := 0x0000_8000
def spanSt (x : Group) (k : Cell) : State := (laneSt (laneTeam x)).updDie 0 fun y =>
  { y with cells := y.cells.set 0 k, launches := [{ key := probeTeam.key, pkt := [], st := .running, cells := [0] }] }
def spanGroup (j : Option Nat) : Group := withW [spanWord] { laneGroup 1 with spans := match j with | some k => SMap.insert [] 0 k | none => [] }

theorem wit_Spans :
    SpanWord.ok (laneTeam (spanGroup none)) 0 spanWord.toNat = true ∧
    (spanSt (spanGroup none) {}).group? 0 0 0 = some (spanGroup none) ∧ (spanGroup none).spans.find? 0 = none ∧
    cellNo ((spanSt (spanGroup none) {}).die 0) (laneTeam (spanGroup none)) spanWord.toNat = 0 ∧
    (({} : Cell).words.find? 0).isNone = true ∧ (spanGroup (some 0)).spans.find? 0 = some 0 ∧
    spanOver (spanSt (spanGroup (some 0)) {}) 0 0 0 0 = false ∧
    spanOver { (spanSt (spanGroup (some 0)) { done := SMap.insert [] 0 { time := 0, space := 64, phm1 := 7, tab := [] } }) with
      pkg := { mclk := 90 } } 0 0 0 0 = true ∧
    SpanWord.ok (laneTeam (spanGroup none)) 0 0 = false := by decide +kernel

theorem wit_LaneSynchronisationPhases :
    (({ expected := 2 } : Point).count = 0 ∧ [(1, 5)].length < 2) ∧ [(1, 5), (3, 9)].length = ({ expected := 2 } : Point).expected := by decide

/-! Control -/

def ctlGroup (v : Nat → Word32) : Group := (List.range 32).foldl (fun x st => x.setV 7 st (v st)) (laneGroup 0xFFFF_FFFF)

theorem wit_LaneBranchesAndCalls :
    LaneWit (laneGroup 1) .vector 9 ((laneGroup 1).active 0 ≠ 0 ∧ (1 : Nat) < ((laneTeam (laneGroup 1)).frameOf (laneGroup 1)).blocks ∧
      ((laneTeam (laneGroup 1)).frameOf (laneGroup 1)).blocks ≤ 2) ∧
    LaneWit (ctlGroup fun st => if st < 16 then 1 else 0) .vector 9
      ((List.range 32).all (fun st => (0xFFFF : BitVec 32).getLsbD st =
        ((ctlGroup fun st => if st < 16 then 1 else 0).operand st 7 != 0)) = true ∧
       Bits.field ((laneTeam (ctlGroup fun st => if st < 16 then 1 else 0)).header (laneGroup 1) 0).toNat 24 12 = 1) ∧
    LaneWit { laneGroup 1 with spill := List.replicate 64 { mark := 1, block := 1, mask := 2 } } .vector 9
      ((laneTeam (laneGroup 1)).divstack / 16 ≤ 256) :=
  ⟨⟨laneAt_of _ _ _ _ (by decide +kernel), by decide +kernel⟩, ⟨laneAt_of _ _ _ _ (by decide +kernel), by decide +kernel⟩,
   ⟨laneAt_of _ _ _ _ (by decide +kernel), by decide +kernel⟩⟩

/-- Counters 0, 1, 254 and 255 in strands 0 to 3. -/
def nested : Group := { laneGroup 0xF with nest := SMap.insert (SMap.insert (SMap.insert [] 1 (1 : BitVec 8)) 2 254) 3 255 }

theorem wit_StructuredNesting :
    LaneWit (laneGroup 0xF) .vector 9 True ∧
    LaneWit nested .vector 9 ((nested.nestOf 3).toNat + 1 > 255 ∧ (nested.nestOf 2).toNat + 1 ≤ 255 ∧
      (nested.nestOf 1).toNat ≤ 1 ∧ (nested.slot 0).mask.getLsbD 3 = true) ∧
    LaneWit { laneGroup 0xF with nest := SMap.insert (SMap.insert (SMap.insert (SMap.insert [] 0 (2 : BitVec 8)) 1 3) 2 2) 3 255 } .vector 9 True :=
  ⟨⟨laneAt_of _ _ _ _ (by decide +kernel), trivial⟩, ⟨laneAt_of _ _ _ _ (by decide +kernel), by decide +kernel⟩,
   ⟨laneAt_of _ _ _ _ (by decide +kernel), trivial⟩⟩

theorem wit_LaneSystemResults :
    LaneWit { laneGroup 1 with asf := 0x10, ate := 0x10 } .vector 9 (({ laneGroup 1 with asf := 0x10, ate := 0x10 } : Group).active 0 ≠ 0 ∧
      (0x10 : BitVec 5) &&& 0x10 ≠ 0) ∧
    LaneWit { laneGroup 1 with asf := 0x0F, ate := 0x10 } .vector 9 ((0x0F : BitVec 5) &&& 0x10 = 0) :=
  ⟨⟨laneAt_of _ _ _ _ (by decide +kernel), by decide +kernel⟩, ⟨laneAt_of _ _ _ _ (by decide +kernel), by decide +kernel⟩⟩

/-! Matrix, copy and collective issue -/

theorem wit_MatrixIssue :
    LaneQuiet (laneSt (laneTeam (withW [0, 0] (laneGroup 1)))) 0 0 0 0 (laneTeam (withW [0, 0] (laneGroup 1))) (withW [0, 0] (laneGroup 1)) .vector 0 ∧
    LaneWit (withW [0, 0] (laneGroup 1)) .vector 9 True ∧
    (laneTeam (withW [0, 0] (laneGroup 1))).matq.length < 64 ∧ edgeBad 192 0x12 0 = false ∧
    32 * (7 : BitVec 4).toNat + 32 ≤ (laneTeam (laneGroup 1)).accRows ∧ ¬ (laneTeam (laneGroup 1)).scratch < (765 + 1) * 2048 :=
  ⟨laneAt_of _ _ _ _ (by decide +kernel), ⟨laneAt_of _ _ _ _ (by decide +kernel), trivial⟩, by decide +kernel⟩

/-- Batch 3 in flight, with an error, or free. -/
def batched (b : Batch) (x : Group) : Team := { laneTeam x with batches := (List.replicate 16 {}).set 3 b }

theorem wit_BatchesAndScaleFeed :
    SyncWit (batched {} (laneGroup 1)) (laneGroup 1) (((batched {} (laneGroup 1)).batches.getD 3 {}).inFlight = false ∧
      (laneGroup 1).pend.cons = 0) ∧
    SyncWit (batched { inFlight := true, left := 1 } (laneGroup 1)) (laneGroup 1) True ∧
    SyncWit (batched { err := some Cause.TAGMISMATCH } (laneGroup 1)) (laneGroup 1)
      (((batched { err := some Cause.TAGMISMATCH } (laneGroup 1)).batches.getD 3 {}).err = some 19) ∧
    SyncWit (batched { prod := 1 } (laneGroup 1)) (laneGroup 1) ((laneGroup 1).pend.cons ≠ 1) ∧
    LaneWit (laneGroup 1) .matrix 15 ((laneTeam (laneGroup 1)).scProd + 32 ≤ (laneTeam (laneGroup 1)).scFree + 256) :=
  ⟨⟨laneAt_of _ _ _ _ (by decide +kernel), by decide +kernel⟩, ⟨laneAt_of _ _ _ _ (by decide +kernel), by decide +kernel⟩,
   ⟨laneAt_of _ _ _ _ (by decide +kernel), by decide +kernel⟩, ⟨laneAt_of _ _ _ _ (by decide +kernel), by decide +kernel⟩,
   ⟨laneAt_of _ _ _ _ (by decide +kernel), by decide +kernel⟩⟩

/-- CPY of a box of 4 F32 elements from 0x1000 to scratchpad offset 0, by shape slot 1. -/
def copyGroup : Group := withW [0x1000, 0, 0, 0, 0, 0, 0, 0x41] (laneGroup 1)
def copyTeam : Team :=
  { laneTeam copyGroup with
    shapes := (SMap.insert [] 1 ({ ndim := 1, fmt := 0x10, e := [4, 0, 0, 0], s := [0, 0, 0], box := [4, 0, 0, 0] } : Shape)) }

theorem wit_CopyAndCollectiveIssue :
    SyncWit copyTeam copyGroup ((match cpyOp (ctxOf 0 0 0 0 copyTeam copyGroup) { rb := 200, bat := 2 } with | .ok _ => true | _ => false) = true ∧
      copyTeam.copies.length < 8) ∧
    SyncWit (laneTeam copyGroup) copyGroup ((copyGroup.operand 0 (200 + 7)).toNat ≠ 0 ∧ 64 ≤ (copyGroup.operand 0 200).toNat) :=
  ⟨⟨laneAt_of _ _ _ _ (by decide +kernel), by decide +kernel⟩, ⟨laneAt_of _ _ _ _ (by decide +kernel), by decide +kernel⟩⟩

/-- CTRIG of w8 to w15 on address 0x1000, its item at 0x2000; COLL of the packet there. -/
def trigGroup : Group := withW [0x1000, 0, 1, 0, 0x2000, 0, 0, 0] (laneGroup 1)
def trigCtx : LaneCtx := ctxOf 0 0 0 0 (laneTeam trigGroup) trigGroup
def trigSt : State := laneSt (laneTeam trigGroup)

/-- What `ItemRead` says, checked. -/
def itemReadB (ctx : LaneCtx) (s : State) (va : Nat) : Bool :=
  match checkGlobal ctx s .load 64 1 va (accessOf 0 6 0) with
  | (s1, .ok e) =>
    !ctx.t.lockHit false false va 64 &&
      (match serveGlobal s1 ctx.d ctx.c ctx.t (.group ctx.g)
        { i := .lNop {}, slot := ctx.sl, mask := 0,
          units := [{ strand := 0, part := 0, loc := locAt s1 ctx.d e va, va, n := 64, l1 := min 2 e.leaf.cache, ll := engineLl e.leaf }]
          no := ctx.t.issues }
        { strand := 0, part := 0, loc := locAt s1 ctx.d e va, va, n := 64, l1 := min 2 e.leaf.cache, ll := engineLl e.leaf } with
       | .got _ _ => true | _ => false)
  | _ => false

theorem itemRead_of (ctx : LaneCtx) (s : State) (va : Nat) (h : itemReadB ctx s va = true) : ∃ item s2, ItemRead ctx s va item s2 := by
  unfold itemReadB at h
  split at h
  · rename_i s1 e he
    simp only [Bool.and_eq_true, Bool.not_eq_true'] at h
    split at h
    · rename_i v s2 hs
      exact ⟨v, s2, s1, e, he, h.1, hs⟩
    · exact absurd h.2 (by simp)
  · exact absurd h (by simp)

theorem wit_CtrigAndColl :
    LaneWit trigGroup .vector 9 (trigGroup.active 0 ≠ 0 ∧ onPeerPage (trigSt.die 0) 0 0x1000 = false ∧
      (trigGroup.operand 0 206).toNat = 0 ∧ (trigGroup.operand 0 207).toNat = 0 ∧
      (match checkGlobal trigCtx trigSt .atomic 4 1 0x1000 (accessOf 2 2 0) with
       | (s1, .ok e) => e.loc 0x1000 = .hbm 0x1000 && freeWatch (s1.die 0) = some 0 | _ => false) = true) ∧
    (∃ item s2, ItemRead trigCtx trigSt 0x2000 item s2) :=
  ⟨⟨laneAt_of _ _ _ _ (by decide +kernel), by decide +kernel⟩, itemRead_of _ _ _ (by decide +kernel)⟩

/-! ## Witnesses: events -/

/-- Service 0 acts; core 0 of die 0 holds the team `t`; `f` changes die 0. -/
def evSt (t : Team) (f : Die → Die) : State := { ((placeTeam State.reset t).updDie 0 f) with cur := .service 0 }

/-- The halves of a state's team and group that a statement names are `t` and `x`. -/
def holds (s : State) (t : Team) (x : Group) : Bool := s.team? 0 0 = some t && s.group? 0 0 0 = some x

/-- A group whose slot 0 waits for `w`. -/
def waiting (w : Wait) : Group := laneGroup 1 |>.updSlot 0 fun p => { p with wait := w }

def feWait : Wait := .fe .x1 (spAccessing 0x10 0x3A) [{ strand := 0, core := 0, ofs := 0 }, { strand := 1, core := 0, ofs := 16 }]
def feTeam (full : Bool) : Team := { laneTeam (waiting feWait) with fe := SMap.insert [] 0 full }

/-- A load of strand 0 in flight: a word of the scratchpad, and one of host memory. -/
def loadingOp (l : Loc) : LoadOp :=
  { i := .lLds .x1 (spAccessing 0 0x3A), slot := 0, mask := 1, units := [{ strand := 0, part := 0, loc := l, va := 0, n := 4 }] }
def loading (l : Loc) : Group := { waiting .load with loads := [loadingOp l] }

theorem wit_WaitsAndLoadsComplete :
    (let t := pointed { expected := 2, phase := true } (waiting (.rendezvous 3 false))
     holds (evSt t id) t (waiting (.rendezvous 3 false)) = true ∧ t.halted = false ∧ (t.points.getD 3 {}).phase ≠ false) ∧
    (let t := laneTeam (waiting (.span 0 0))
     holds (evSt t id) t (waiting (.span 0 0)) = true ∧ spanOver (evSt t id) 0 0 0 0 = false) ∧
    (let t := feTeam true
     holds (evSt t id) t (waiting feWait) = true ∧ t.isFull 0 = true ∧ t.lockHit true false 0 4 = false ∧
     t.inQueue (.group 0) 0 (.sp 0 0) 16 = false ∧ (waiting feWait).clearTo false 0 = true ∧ (waiting feWait).loads = []) ∧
    ({ waiting feWait with heldFrom := some 0, pc0 := { (waiting feWait).pc0 with no := 1 } } : Group).clearTo false 1 = false ∧
    (feTeam false).isFull 0 = false ∧
    (let t := laneTeam (loading (.sp 0 0))
     holds (evSt t id) t (loading (.sp 0 0)) = true ∧ (match serveUnit (evSt t id) 0 0 t (.group 0) (loadingOp (.sp 0 0))
        { strand := 0, part := 0, loc := .sp 0 0, va := 0, n := 4 } with | .got v _ => v = 0 | _ => false) = true) ∧
    (let t := laneTeam (loading (.host 0))
     holds (evSt t id) t (loading (.host 0)) = true ∧ ((loadingOp (.host 0)).units.find? (fun w => w.val.isNone && w.loc.isHost)).isSome = true) ∧
    (let w : Write := { party := .composer, loc := .host 0, kind := .store 4 1 }
     ({ probeTeam with ts := [w] } : Team).ts.findIdx? (fun w => w.party = .composer && w.loc.isHost) = some 0) := by decide +kernel

/-- Die 0's cluster 0 gets pulse 0 of 16 and no other. -/
def thinSt (t : Team) (n : Nat) : State :=
  { (evSt t fun x => { x with swp := x.swp.set 0 1 }) with pkg := { (evSt t id).pkg with mclk := n } }

/-- The same word of the scratchpad, read. -/
def boundOp : LoadOp := { loadingOp (.sp 0 0) with units := [{ strand := 0, part := 0, loc := .sp 0 0, va := 0, n := 4, val := some 5 }] }

theorem wit_WaitsAndLoadsPulsed :
    (let t := feTeam true
     pulsePasses (thinSt t 16) ((thinSt t 16).die 0) 0 = true ∧ pulsePasses (thinSt t 15) ((thinSt t 15).die 0) 0 = false ∧
     holds (thinSt t 15) t (waiting feWait) = true ∧ feFails (evSt t id) 0 0 4 { strand := 0, core := 0, ofs := 0 } = none ∧
     feFails (evSt t id) 0 0 4 { strand := 0, core := 1, ofs := 0 } = some Code.ABSENT) ∧
    (let t := { feTeam true with bad := [.sp 0] }
     feFails (evSt t id) 0 0 4 { strand := 0, core := 0, ofs := 0 } = some Code.UE) ∧
    (let x : Group := { laneGroup 1 with loads := [boundOp] }
     holds (evSt (laneTeam x) id) (laneTeam x) x = true ∧ boundOp.units.all (fun w => w.val.isSome) = true) := by decide +kernel

theorem wit_LoadResults :
    (probeTeam.ts = [] ∧ probeTeam.queued (.group 0) = [] ∧ isRdf (loadingOp (.sp 0 0)).i = false) ∧
    (((evSt probeTeam id).die 0).episodes = [] ∧ ((evSt probeTeam id).die 0).isBad 64 4 = false ∧
      xbarHolds ((evSt probeTeam id).die 0) 0 (.hbm 64) 4 = false) ∧
    (loadingOp (.sp 0 0)).decs = [] ∧ (188 : Nat) + 4 ≤ 192 ∧ Fmt.container 0x3B = 8 := by decide +kernel

/-- A write of the composer at the head of its queue, and one in S. -/
def storing (l : Loc) (k : WriteKind) : Write := { party := .composer, loc := l, kind := k }
def queuedTeam (l : Loc) (k : WriteKind) : Team := { probeTeam with sq := [storing l k] }
def enteredTeam (l : Loc) (k : WriteKind) : Team := { probeTeam with ts := [storing l k] }

/-- Core 1 holds a team as well. -/
def besideSt (t : Team) : State := evSt t fun x => { x with teams := x.teams.insert 1 probeTeam }

theorem wit_StoresPerformed :
    (evSt (queuedTeam (.hbm 64) (.store 4 5)) id).team? 0 0 = some (queuedTeam (.hbm 64) (.store 4 5)) ∧
    (evSt (queuedTeam (.sp 0 2047) (.store 2 5)) id).team? 0 0 = some (queuedTeam (.sp 0 2047) (.store 2 5)) ∧
    spDirect (queuedTeam (.sp 0 2047) (.store 2 5)) (storing (.sp 0 2047) (.store 2 5)) = true ∧
    spDirect { queuedTeam (.sp 0 2047) (.store 2 5) with ts := [storing (.sp 0 2048) (.store 4 5)] } (storing (.sp 0 2047) (.store 2 5)) = false ∧
    mayAccept ((evSt (enteredTeam (.hbm 64) (.store 4 5)) id).die 0) (enteredTeam (.hbm 64) (.store 4 5)) 0 0 = true ∧
    mayLand (evSt (enteredTeam (.hbm 64) (.store 4 5)) id) 0 0 (enteredTeam (.hbm 64) (.store 4 5)) 0 = true ∧
    (let x := (evSt (enteredTeam (.hbm 64) (.store 4 5)) id).die 0; x.episodes = [] ∧ x.watch = [] ∧ x.bad = [] ∧ x.badLlc = []) ∧
    mayLand (besideSt (enteredTeam (.sp 1 64) (.store 4 5))) 0 0 (enteredTeam (.sp 1 64) (.store 4 5)) 0 = true ∧
    (besideSt (enteredTeam (.sp 1 64) (.store 4 5))).team? 0 1 = some probeTeam ∧
    (let t : Team := { probeTeam with ts := [storing (.hbm 64) (.store 4 5), storing (.hbm 64) (.store 4 6)] }
     mayLand (evSt t id) 0 0 t 1 = false) := by decide +kernel

/-- An ATOM of strand 0 of group 0 whose slot waits for it. -/
def atomTeam : Team :=
  { laneTeam (waiting (.atom { data := 6, szf := 0x08 })) with
    ts := [{ party := .group 0, loc := .hbm 128, kind := .atomic 7 4 0x08 5 0, strand := 0 }] }
def redTeam : Team := { laneTeam (laneGroup 1) with ts := [{ party := .group 0, loc := .hbm 128, kind := .red 0 4 0x08 5 }] }

/-- The access of that ATOM, and the ATOM's team with it accepted or aimed at an import that is not there. -/
def atomAccess : Write := { party := .group 0, loc := .hbm 128, kind := .atomic 7 4 0x08 5 0, strand := 0 }
def acceptedTeam : Team := { atomTeam with ts := [{ atomAccess with site := some (.at 0 (.hbm 128) none) }] }
def strayTeam : Team := { atomTeam with ts := [{ atomAccess with loc := .peer 3 128 .unknown }] }

theorem wit_HomeAgentResults :
    holds (evSt redTeam id) redTeam (laneGroup 1) = true ∧ mayLand (evSt redTeam id) 0 0 redTeam 0 = true ∧
    (let x := waiting (.atom { data := 6, szf := 0x08 })
     holds (evSt atomTeam id) atomTeam x = true ∧ mayLand (evSt atomTeam id) 0 0 atomTeam 0 = true ∧
     atomOf x 0 = some { slot := 0, o := { data := 6, szf := 0x08 }, mask := 1, no := 0 } ∧ atomWrite 0 0 atomAccess = true ∧
     mayLand (evSt acceptedTeam id) 0 0 acceptedTeam 0 = true) ∧
    (match atomAccept (evSt strayTeam id) 0 0 0 (strayTeam.ts.getD 0 atomAccess) with | .error _ => true | .ok _ => false) = true ∧
    Fmt.is64 0x08 = false ∧ ({} : Die).episodes = [] ∧ (124 : Nat) % 4 = 0 ∧ ({} : Die).isBad 124 4 = false := by decide +kernel

/-- Die 0 with tables that map the first 1 GiB to itself, writable and executable. -/
def mapped (x : Die) : Die := { x with ptroot := 1, table := Mem.write (Mem.write [] 0 8 0x1_0001) 0x1_0000 8 0xF, coreTlb := [] }
def walked (x : Die) (va : Nat) : Option (Except Nat Nat) := match (walk x va).1 with | .ok e => some (.ok e.leaf.size) | .error k => some (.error k)

theorem wit_TranslationsFilledAndInvalidated :
    (let x := (evSt probeTeam fun x => { mapped x with misses := [{ core := 0, page := 1, who := [.composer] }] }).die 0
     walkCluster x = some (x.clusterOf 0) ∧ (walk x 65536).1.isOk = true) ∧
    (let x := (evSt probeTeam fun x => { x with coreTlb := [], misses := [{ core := 0, page := 1, who := [.composer] }] }).die 0
     walkCluster x = some (x.clusterOf 0) ∧ (walk x 65536).1.isOk = false) ∧
    (let s := evSt probeTeam fun x => { mapped x with misses := [{ core := 0, page := 1, who := [.composer] }], swp := x.swp.set 0 2 }
     clusterPulse s (s.die 0) 0 = false ∧ clusterPulse { s with pkg := { s.pkg with mclk := 1 } } (s.die 0) 0 = true) ∧
    windowPending (evSt probeTeam id) 0 0 65536 = false ∧
    tlbRange 0 = some (0, 65536) ∧ tlbRange 1 = some (0, 2 ^ 52) ∧ tlbRange 2 = none ∧ State.reset.dies.length = 3 := by decide +kernel

/-- An export of 64 KiB at address 0, and a peer's request of its last 8 bytes. -/
def exporter (gen : BitVec 16) (x : Die) : Die :=
  { mapped x with exports := SMap.insert [] 5 { used := true, base := 0, len := 1, gen, revoking := true } }
def peerReq (off : Nat) (op : PeerOp) : PeerReq := { exp := 5, gen := 2, expDie := 0, off, rw := false, ra := false, op }

theorem wit_PeerRequestsAnswered :
    (exporterLoc ((evSt probeTeam (exporter 2)).die 0) 5 2 65528 8 .read false).2.isOk = true ∧
    (exporterLoc ((evSt probeTeam (exporter 2)).die 0) 5 2 65528 8 .atomic true).2.isOk = true ∧
    (let x := (evSt probeTeam fun x => { exporter 2 x with table := Mem.write (Mem.write [] 0 8 0x1_0001) 0x1_0000 8 0x3F }).die 0
     match (walk x 0).1 with | .ok e => decide (e.leaf.cache = 3 ∧ e.leaf.peer = false ∧ e.leaf.w = true) | .error _ => false) = true ∧
    (let x := (evSt probeTeam fun x => { exporter 2 x with table := Mem.write (Mem.write [] 0 8 0x1_0001) 0x1_0000 8 0xD }).die 0
     match (walk x 0).1 with | .ok e => decide (e.leaf.peer = false ∧ e.leaf.w = false) | .error _ => false) = true ∧
    (walk ((evSt probeTeam fun x => { exporter 2 x with table := [] }).die 0) 0).1.isOk = false ∧
    servingFor (evSt probeTeam (exporter 2)) 0 = false ∧
    (65528 : Nat) + 8 ≤ 1 * 65536 ∧ (1 : Nat) * 65536 < 65529 + 8 ∧
    (((evSt probeTeam (exporter 3)).die 0).exports.find? 5).map (·.gen) = some 3 := by decide +kernel

/-- An MMA at the head of the matrix queue. -/
def act (i : Instr) : MatAct :=
  { no := 0, i, g := 0, owner := .pending 0, regs := [], active := 1, win := 0, edge := 0, ofs := 0, scNo := 0, j := 0, failed := false }
def acting (i : Instr) (locks : List Lock) (no : Nat) : Team := { laneTeam (laneGroup 1) with matq := [{ act i with no }], locks }

theorem wit_MatrixEngineTurns :
    (let t := acting (.lMma { fmt := 0x12 }) [] 0
     stepFilled t (act (.lMma { fmt := 0x12 })) = true ∧ t.lockWaits (.matrix 0) = false ∧ t.halted = false ∧
     pulsePasses (evSt t id) ((evSt t id).die 0) 0 = true ∧
     mayStart (coreCycle (evSt t id) 0 0) 0 0 .matrix (((evSt t id).die 0).priceOf (stepEntry 0x12)) = true) ∧
    (let t := { acting (.lAclr {}) [] 0 with permits := { matrix := -400 } }
     mayStart (coreCycle (evSt t id) 0 0) 0 0 .matrix (((evSt t id).die 0).priceOf 15) = false ∧
     permitCovers (coreCycle (evSt t id) 0 0) 0 0 .matrix (((evSt t id).die 0).priceOf 15) = false) ∧
    (let t := acting (.lAclr {}) [] 0
     mayStart (coreCycle (evSt t id) 0 0) 0 0 .matrix (((evSt t id).die 0).priceOf 15) = true) ∧
    (let t := acting (.lAld { fmt := 0x10 }) [] 0; t.badSp 0 4096 = false ∧ t.badTile 0 0 = false ∧ t.badResidues 0 = false) ∧
    (let t := acting (.lMma { fmt := 0x21 }) [] 0; stepFilled t (act (.lMma { fmt := 0x21 })) = false) ∧
    (let t := acting (.lAst {}) [Team.lockOn (.matrix 0) true true 0 4096, Team.lockOn (.matrix 1) true true 0 4096] 1
     t.lockWaits (.matrix 1) = true) ∧
    isChain (.lAclr {}) = false ∧ isChain (.lMma {}) = true := by decide +kernel

theorem wit_MatrixTileResults :
    (xops (act (.lMma { tc := 7 })).i).tc.toNat ≤ 7 ∧ Checks.astEf { fmt := 0x10 } = false ∧
    (let t := acting (.lMma { fmt := 0x12 }) [] 0
     isChain (act (.lMma { fmt := 0x12 })).i = true ∧ SMap.get 0x3F t.tags 0 = 0x3F) ∧
    SMap.get (0x3F : BitVec 6) (SMap.insert [] 0 0x21) 0 = 0x21 := by decide +kernel

/-- A copy of 64 bytes of die 0, by core 0's engine or the die's. -/
def copying (done : Nat) : CopyOp :=
  { no := 3, src := 0x1000, dst := 0x2000, dsp := false, dec := false, dfmt := 0, scf := false, feset := false, cgrp := 2,
    coord := [0, 0, 0, 0], shape := { ndim := 1, fmt := 0x10, e := [16, 0, 0, 0], s := [0, 0, 0], box := [16, 0, 0, 0] },
    scNo := 0, scCnt := 0, scFilled := 0, done, err := none, core := 0, q := 0, slot := 0, cmpl := 0, launch := none }
def copyHolder (done : Nat) : Team := { laneTeam (laneGroup 1) with copies := [copying done] }

theorem wit_CopyEngineTurns :
    copyOver (copying 0) = false ∧ copyOver (copying 64) = true ∧
    (copyHolder 0).lockWaits (.copy 3) = false ∧ chunkBehind (evSt (copyHolder 0) id) 0 0 (copying 0) 0 (chunkEnd (copying 0)) = false ∧
    mayStart (coreCycle (evSt (copyHolder 0) id) 0 0) 0 0 .memory (((evSt (copyHolder 0) id).die 0).priceOf 17) = true ∧
    pulsePasses (evSt (copyHolder 0) id) ((evSt (copyHolder 0) id).die 0) 0 = true ∧
    (let k := { copying 0 with upTo := 64, todo := [(0, 16), (48, 64)] }
     let s := evSt { copyHolder 0 with copies := [k] } mapped
     copyOver k = false ∧ k.todo[3 % k.todo.length]? = some (48, 64) ∧
     (movePiece (copyEnv 0 (.core 0)) (.core 0) k 48 64 s).2.isOk = true ∧
     (movePiece (copyEnv 0 (.core 0)) (.core 0) { k with src := 2 ^ 52 } 48 64 s).2.isOk = false) ∧
    (let k := { copying 16 with upTo := 64, shape := { (copying 0).shape with e := [4, 4, 0, 0], box := [4, 4, 0, 0] } }
     k.todo = [] ∧ k.done ≠ k.runOf k.done * k.rowBytes ∨ k.todo = []) ∧
    (let t := copyHolder 0
     pulsePasses (thinSt t 15) ((thinSt t 15).die 0) 0 = false ∧ ({ copying 0 with upTo := 64 } : CopyOp).done < 64) ∧
    (let k := { copying 0 with upTo := 64 }
     let s := evSt { copyHolder 0 with copies := [k] } mapped
     k.todo = [] ∧ k.done = k.runOf k.done * k.rowBytes ∧ (beginRow (copyEnv 0 (.core 0)) (.core 0) k 0 s).2.isOk = true ∧
     (beginRow (copyEnv 0 (.core 0)) (.core 0) { k with src := 2 ^ 52 } 0 s).2.isOk = false) ∧
    (let l : Launch := { key := { q := 3, slot := 9 }, pkt := [0, 0, 0, 0, 0x1_0000_0000, 0, 0, 0], st := .running, energy := 1000000000 }
     let s := evSt probeTeam fun x => { x with launches := [l] }
     quotaSpent s 0 (some l.key) = true ∧ launchEnding (s.die 0) (some l.key) = false ∧
     quotaSpent s 0 none = false ∧ launchEnding (s.die 0) none = false ∧
     quotaSpent (evSt probeTeam fun x => { x with launches := [{ l with energy := 999999999 }] }) 0 (some l.key) = false ∧
     launchEnding ((evSt probeTeam fun x => { x with launches := [{ l with st := .stopping, why := some (.finish 0 0) }] }).die 0) (some l.key) = true) ∧
    copyOver { copying 0 with err := some (Cause.UE, 0) } = true ∧ copyOver { copying 64 with launch := some { q := 3, slot := 9 } } = true ∧
    (let x := (evSt probeTeam fun x => { x with dieCopies := [copying 0], power := { x.power with pool := 60 } }).die 0
     x.dieCopies[0]? = some (copying 0) ∧ x.priceOf 18 * ((chunkEnd (copying 0) - 0 + 127) / 128) ≤ x.power.pool) := by decide +kernel

/-- A collective packet of one SIGNAL hop on die 0 with a payload of 16 bytes, its communicator bound. -/
def collPkt (op : Nat) : CollPkt :=
  { pkt := [0x1000_0006, 16, 0x1000, 0x2000, BitVec.ofNat 64 (op * 256), 0, 0, 0], src := .queue 4 0, org := 0, read := true,
    payload := List.replicate 16 0 }

theorem wit_CollectiveTurns :
    (let s := evSt probeTeam fun x => { mapped x with coll := { cur := some (collPkt 0) } }
     (hopsHere s 0 (collPkt 0)).head?.map (·.op) = some 0 ∧ (collPkt 0).key = none ∧ (collPkt 0).begun = false ∧
     hopPrice (s.die 0) (collPkt 0) ≤ 60) ∧
    (let s := evSt probeTeam fun x => { mapped x with commTab := x.commTab.set 0 4 }
     bindFails (s.die 0) (collPkt 0).pkt (hopOf (collPkt 0).pkt 0) = none ∧
     (planAll 0 (collPkt 0) (hopOf (collPkt 0).pkt 0) s).2.isOk = true ∧
     (planAll 0 (collPkt 0) (hopOf (collPkt 0).pkt 0) (evSt probeTeam id)).2.isOk = false) ∧
    (let s := evSt probeTeam mapped
     (translateColl (s.die 0) 0x3000).2.isOk = true ∧
     (actPiece (collPkt 5) (hopOf (collPkt 5).pkt 0) 0x3000 (0, 0x3000, 16) s).2.isOk = true ∧
     (actPiece (collPkt 5) (hopOf (collPkt 5).pkt 0) 0x3000 (0, 2 ^ 52, 16) s).2.isOk = false) ∧
    (let s := evSt probeTeam fun x => { mapped x with coll := { cur := some (collPkt 5) } }
     (hopsHere s 0 (collPkt 5)).head?.map (·.op) = some 5) ∧
    (let p := { collPkt 5 with read := false, payload := [], todo := [(0, 0x2000, 16)] }
     let s := evSt probeTeam fun x => { mapped x with coll := { cur := some p } }
     p.todo[s.pick % p.todo.length]? = some (0, 0x2000, 16) ∧ (rangeRead translateColl 0 0x2000 16 s).2.isOk = true ∧
     (rangeRead translateColl 0 (2 ^ 52) 16 s).2.isOk = false ∧ quotaSpent s p.org p.key = false) ∧
    (let s := evSt probeTeam fun x => { x with coll := { finished := [{ p := collPkt 0, cause := 0, hop := 1 }] } }
     (s.die 0).coll.finished.length = 1) := by decide +kernel

/-- A queue of 64 slots, `tail` of them claimed. -/
def aQueue (tail : Word32) : Queue := { en := true, lsize := 6, tail }
def queueSt (q : Queue) : State := evSt probeTeam fun x => { x with queues := SMap.insert [] 7 q }

theorem wit_QueueClaimRule :
    ((queueSt (aQueue 63)).die 0).queuesOpen = true ∧
    (queueSt (aQueue 63)).queue 0 7 = aQueue 63 ∧ ¬ (aQueue 63).size ≤ ((aQueue 63).tail - (aQueue 63).head).toNat ∧
    (aQueue 64).size ≤ ((aQueue 64).tail - (aQueue 64).head).toNat ∧
    ({ aQueue 63 with head := 0xFFFF_FFFF, tail := 62 } : Queue).size = 64 := by decide +kernel

theorem wit_LotteryDrawCommit :
    ((62 : Word32) - (aQueue 63).head).toNat < ((aQueue 63).tail - (aQueue 63).head).toNat ∧ (aQueue 63).committed.find? 62 = none ∧
    ¬ ((63 : Word32) - (aQueue 63).head).toNat < ((aQueue 63).tail - (aQueue 63).head).toNat := by decide +kernel

/-- A LAUNCH of a team of one group on core 0, in the package queue 0. -/
def launchPkt : List Word64 := [1, 0x10_0000_0000_0000, 0x1000, 0x0010_017F_08C0_0001, 0, 0, 0, 0]
def pkgSt (p : List Word64) : State :=
  { evSt probeTeam id with pkg := { (evSt probeTeam id).pkg with queues := SMap.insert [] 0 { aQueue 1 with admitted := some p } } }

theorem wit_LotteryDraw :
    ((queueSt (aQueue 0)).updDie 0 fun x => { x with queuesOpen := false }).queueLive 0 7 = false ∧
    (drawWinner 1 [{ q := 3, pkt := [], prio := 1, wt := 2, losses := 64 }]).1.isSome = true ∧
    (drawWinner 1 [{ q := 3, pkt := [], prio := 1, wt := 2, losses := 0 }, { q := 4, pkt := [], prio := 1, wt := 0, losses := 0 }]).2 = 0x8020_0003 ∧
    (dropLosses (queueSt (aQueue 0)) 0).2 = [] ∧ ((pkgSt launchPkt).queue 0 1024).en = true ∧ Pkt.launchOk launchPkt = true ∧ ((pkgSt launchPkt).queue 0 1024).admitted = some launchPkt ∧
    candidates (pkgSt launchPkt) launchPkt = [0] ∧ mostFree (pkgSt launchPkt) launchPkt [0] = some 0 ∧
    candidates { pkgSt launchPkt with dies := [] } launchPkt = [] := by decide +kernel

def startedSt (p : List Word64) : State := queueSt { aQueue 1 with started := [{ slot := 0, pkt := p }] }

theorem wit_StartedPacketsServed :
    ((startedSt [7, 0, 0, 0, 0, 0, 0, 0]).queue 0 7).started.length = 1 ∧
    (rangeRead translateDie 0 0x1000 8 (((startedSt [3, 0x1000, 0, 0, 0, 0, 0, 0]).updDie 0 mapped))).2.isOk = true ∧
    (acceptDieCopy ((startedSt [2, 0, 0, 0, 0, 0, 0x1000, 0]).updDie 0 mapped) 0 [2, 0, 0, 0, 0, 0, 0x1000, 0] 256 7 0 none).2 = some Cause.BADPKT ∧
    (let s := (startedSt []).updDie 0 fun x => { mapped x with hbm := Mem.write [] 0x1000 64 (1 + 0x10 * 2 ^ 8 + 4 * 2 ^ 32 + 4 * 2 ^ 384) }
     (acceptDieCopy s 0 [2, 0, 0, 0, 0, 0, 0x1000, 0] 256 7 0 none).2 = none) ∧
    (rmwAt ((startedSt []).updDie 0 mapped) 0 (.hbm 0x1000) 0 Fmt.N64 8 1 0 0).2.isOk = true ∧
    (let x := mapped ((startedSt []).die 0)
     match translateDie x 0x1000 with
     | (y, .ok e) => decide (e.loc 0x1000 = .hbm 0x1000) && decide (denied y .signal 8 0x1000 e = none) | _ => false) = true ∧
    (let x := { mapped ((startedSt []).die 0) with table := Mem.write (Mem.write [] 0 8 0x1_0001) 0x1_0000 8 (0x3F + 0x400_0000 * 2 ^ 20) }
     match translateDie x 0x1000 with
     | (y, .ok e) => (match e.loc 0x1000 with | .host _ => true | _ => false) && decide (denied y .signal 8 0x1000 e = none) | _ => false) = true ∧
    ((evSt probeTeam fun x => { x with watchItems := [{ q := 7, item := [], due := 0 }] }).die 0).watch = [] := by decide +kernel

def lkey : LKey := { q := 3, slot := 9 }
def aLaunch (st : LState) : Launch := { key := lkey, pkt := launchPkt, st, teams := [{ core := 0 }, { core := 1 }] }
def launchSt (st : LState) (t : Team) : State := evSt { t with key := lkey } fun x => { x with launches := [aLaunch st] }

theorem wit_LaunchLife :
    (((launchSt .started probeTeam).die 0).launch? lkey) = some (aLaunch .started) ∧
    (rangeRead translateDie 0 (Pkt.tmpl launchPkt) (64 * Pkt.tmpl64 launchPkt) ((launchSt .started probeTeam).updDie 0 mapped)).2.isOk = true ∧
    rectGated ((launchSt .loaded probeTeam).die 0) launchPkt = false ∧ (launchSt .loaded probeTeam).team? 0 1 = none ∧
    (let t : Team := { probeTeam with comp := { probeTeam.comp with wait := .fetch 5 0 } }
     firstFetch (fetches (launchSt .running t) 0) = some (0, 0, 5) ∧ Pkt.hmode launchPkt = 0) ∧
    (let t : Team := { probeTeam with key := lkey, comp := { probeTeam.comp with stat := .done } }
     mayRetire (launchSt .running t) 0 0 t = true ∧ t.uncollected = []) := by decide +kernel

/-- A GANG of two members, member 0 on die 0, TICK 20,000, its slot held by the leader. -/
def gangPkt (self : Nat) : List Word64 := [BitVec.ofNat 64 (0x105 + self * 4096 + 7 * 2 ^ 32), 20000, 0x1000, 0, 0x1_0000, 0, 0, 0]
def aGang (self : Nat) : Gang := { q := 7, slot := 0, pkt := gangPkt self, lp := launchPkt }
def gangSt (g : Gang) (now : Nat) : State :=
  { evSt probeTeam (fun x => { x with gangs := [g] }) with pkg := { (evSt probeTeam id).pkg with mclk := now } }

theorem wit_GangStages :
    (queueSt (aQueue 1)).queueLive 0 7 = true ∧ (queueSt { aQueue 1 with en := false }).queueLive 0 7 = false ∧
    ({ gangSt (aGang 1) 0 with pkg := { (gangSt (aGang 1) 0).pkg with dieLinks := [] } } : State).dieRoute 1 0 = false ∧
    Pkt.gangOk (gangPkt 0) 0 0 = true ∧ Pkt.gangOk (gangPkt 1) 0 1 = true ∧ Pkt.gangNm1 (gangPkt 0) = 1 ∧
    (gangLaunch (queueSt { aQueue 1 with admitted := some (gangPkt 0) } |>.updDie 0 fun x =>
        { mapped x with hbm := Mem.write [] 0x1000 64 (pktNat launchPkt) }) 0 7 (gangPkt 0)).2 = some launchPkt ∧
    roomFor ((gangSt (aGang 0) 0).die 0) launchPkt = true ∧ (gangSt (aGang 0) 0).tick + 10000 < 20000 ∧
    (gangSt (aGang 0) 0).dieRoute 1 0 = true ∧ (depMet (gangSt (aGang 1) 0) launchPkt false).2 = true ∧
    20000 ≤ (gangSt (aGang 0) 37800).tick + 2000 ∧ (gangSt (aGang 0) 41999).tick < 20000 ∧ 20000 ≤ (gangSt (aGang 0) 42000).tick := by decide +kernel

theorem wit_PowerTurns :
    (let t : Team := { laneTeam (laneGroup 1) with permits := { bucket := 5 } }
     let s := evSt t id
     s.team? 0 0 = some t ∧ t.permits.last ≠ s.pkg.mclk + 1 ∧ pulsePasses s (s.die 0) 0 = true ∧ s.pkg.intentEn = false ∧
     t.permits.matrix ≤ 8192) ∧
    (let s := evSt probeTeam id; (s.die 0).power.interval ≠ s.tick / 1000 + 1 ∧ s.pkg.lastBell ≠ s.tick / 100000 + 1 ∧ 6 ≤ s.pkg.boot) ∧
    (let t : Team := { probeTeam with permits := { counted := true } }
     let s := evSt t fun x => { x with power := { x.power with interval := 1, share := 100 } }
     (s.die 0).power.interval = s.tick / 1000 + 1 ∧ (s.die 0).power.tenth ≠ s.tick / 100 + 1 ∧ (s.die 0).teams = [(0, t)]) ∧
    (let m : IntentMsg := { job := 0, slot := 30000, dw := 10, ktick := 0, kpkg := 1 }
     let s := { evSt probeTeam id with pkg := { (evSt probeTeam id).pkg with intentCfg := 0x0000_0000_83E8_0014 } }
     s.pkg.intentEn = true ∧ m.job = s.pkg.intentJob ∧ s.tick / 10000 + 1 < m.slot / 10000) := by decide +kernel

theorem wit_StopsAndResumes :
    (∃ e ∈ ((launchSt .running probeTeam).die 0).teams, e.2.key = lkey) ∧ (aLaunch .running).spent = false ∧
    ({ aLaunch .running with pkt := launchPkt.set 4 0x1_0000_0000, energy := 1000000000 } : Launch).spent = true ∧
    mayAck { probeTeam with stopReq := true } = true ∧ collBegun (launchSt .running probeTeam) 0 lkey = false ∧
    (evSt probeTeam id).pkg.mgmt[11]? = some none ∧
    (let s := { evSt probeTeam id with pkg := { (evSt probeTeam id).pkg with mgmt := [some (.ue 0)], events := [.commit 0 3] } }
     s.pkg.mgmt[0]? = some (some (.ue 0)) ∧ ∀ h ∈ s.pkg.mgmt, h.bind FwEvent.queue ≠ (FwEvent.commit 0 3).queue) ∧
    coreFree ((evSt probeTeam fun x => { x with teams := [], launches := [aLaunch .saved] }).die 0) 0 = true ∧
    (let s := evSt { laneTeam { laneGroup 1 with st := .stopped } with comp := { probeTeam.comp with stat := .stopped } } id
     (s.team? 0 0).map (·.comp.stat) = some .stopped ∧ (s.group? 0 0 0).map (·.st) = some .stopped) ∧
    clusterEmpty ((evSt probeTeam id).die 0) 63 = true ∧
    crossbarDrained ((evSt probeTeam fun x => { x with closing := [63] }).die 0) 63 = true := by decide +kernel

/-- The mailbox holds the command `code`, under way; die 0 is released. -/
def mailSt (code : Nat) : State :=
  let s := evSt probeTeam id
  { s with pkg := { s.pkg with mailbox := { s.pkg.mailbox with cmd := Mem.setByte [] 0 (BitVec.ofNat 8 code), idle := false } } }

theorem wit_HostRequestsAndCommands :
    (mailSt 1).pkg.boot = 6 ∧ (mailSt 1).pkg.bootHalted = false ∧ ((mailSt 1).pkg.mailbox.cmd.byte 0).toNat = 1 ∧
    (mailSt 7).pkg.mailbox.revoking = none ∧ ((mailSt 1).die 0).released = true ∧
    (SMap.get ({} : Export) ((mailSt 1).die 0).exports 0).used = false ∧
    ((mailSt 1).pkg.funcs.getD 0 {}).frozen = false ∧ SMap.find? ((mailSt 1).pkg.funcs.getD 1 {}).window (2 ^ 18 - 1) = none ∧
    ((mailSt 1).pkg.funcs.getD 1 {}).todo = [] ∧ ((mailSt 1).pkg.funcs.getD 1 {}).got = 0 ∧ ((mailSt 1).die 0).gangs = [] ∧
    (match translateDie (mapped ((mailSt 1).die 0)) 0x1008 with
     | (y, .ok e) => decide (e.loc 0x1008 = .hbm 0x1008) && decide (denied y .load 8 0x1008 e = none) | _ => false) = true ∧
    (let s := evSt probeTeam id
     let m := { s.pkg.mailbox with idle := true, req := Mem.setByte [] 0 7 }
     m.idle = true ∧ (m.req.byte 0).toNat = 7 ∧ Bits.ofBytes [(1 : Byte)] = 1 ∧ (s.pkg.funcs.getD 0 {}).frozen = false) ∧
    (let u : HostUnit := { va := 0x1FF8, loc := .hbm 0x1FF8, site := .at 0 (.hbm 0x1FF8) none, n := 8, ofs := 0, treat := 0, data := some 5 }
     let s := { evSt probeTeam id with pkg := { (evSt probeTeam id).pkg with funcs := [{}, { todo := [u] }, {}, {}] } }
     (s.pkg.funcs.getD 1 {}).todo[9 % max 1 (s.pkg.funcs.getD 1 {}).todo.length]? = some u ∧ rangePending s 0 0x1FFF 1 = true) ∧
    rangePending (mailSt 2) 0 0x000F_0000_0000_0000 65536 = false ∧ ((mailSt 2).die 0).tlbBusy = none ∧
    (∃ e ∈ ((launchSt .running probeTeam).die 0).teams, e.2.key = lkey) ∧ (∀ e ∈ ((evSt probeTeam id).die 0).teams, e.2.key ≠ lkey) ∧
    (handleGood (mailSt 2) 0).2 = false ∧ (evSt probeTeam id).pkg.boot = 6 ∧ ((evSt probeTeam id).die 0).launches = [] := by decide +kernel

/-- The handle of export 0 of die 0 of package 0, one page long, which the die holds. -/
def exportSt : State := (mailSt 2).updDie 0 fun x => { x with exports := SMap.insert [] 0 { used := true, base := 0, len := 1 } }

/-- A handle that names export 0 of die 0 of the package, and whose check bits fit, is good. -/
theorem handleGood_of_fields (s : State) (n : Nat)
    (h0 : Bits.field n 0 32 = 0) (h1 : Bits.field n 99 13 = 0) (h2 : Bits.field n 34 2 = 0) (h3 : Bits.field n 96 1 = 1)
    (h4 : Bits.field n 32 2 = 0) (h5 : Bits.field n 64 32 = 1) (h7 : Bits.field n 36 12 = 0) (h8 : Bits.field n 48 16 = 0)
    (h9 : Bits.bit n 97 = false) (h10 : Bits.bit n 98 = false)
    (h6 : Bits.field n 112 16 = (Config.handleCheck (BitVec.ofNat 112 n)).toNat)
    (hp : s.pkg.pkgNo.toNat = 0) (he : SMap.find? (s.die 0).exports 0 = some { used := true, base := 0, len := 1 }) :
    handleGood s n = (s, true) := by
  simp [handleGood, h0, h1, h2, h3, h4, h5, h6, h7, h8, h9, h10, hp, he]

/-- The handle of that export with check bits `c`. -/
def handleOf (c : Nat) : Nat := 2 ^ 64 + 2 ^ 96 + c * 2 ^ 112

theorem handleOf_low (c : Nat) : BitVec.ofNat 112 (handleOf c) = BitVec.ofNat 112 (2 ^ 64 + 2 ^ 96) := by
  apply BitVec.eq_of_toNat_eq
  rw [handleOf, BitVec.toNat_ofNat, BitVec.toNat_ofNat, Nat.add_mul_mod_self_right]

theorem handleGood_handleOf (c : Nat) (hc : c < 2 ^ 16) (hk : c = (Config.handleCheck (BitVec.ofNat 112 (handleOf c))).toNat) :
    handleGood exportSt (handleOf c) = (exportSt, true) := by
  apply handleGood_of_fields exportSt (handleOf c)
  case h6 => rw [← hk]; simp only [Bits.field, handleOf]; omega
  case hp => decide +kernel
  case he => decide +kernel
  case h9 => rw [handleOf, Bits.bit, decide_eq_false_iff_not]; omega
  case h10 => rw [handleOf, Bits.bit, decide_eq_false_iff_not]; omega
  all_goals (simp only [Bits.field, handleOf]; omega)

theorem wit_goodHandle : ∃ h : BitVec 128, handleGood exportSt h.toNat = (exportSt, true) ∧ Bits.field h.toNat 64 32 = 1 := by
  obtain ⟨c, hc, hk⟩ : ∃ c, c < 2 ^ 16 ∧ c = (Config.handleCheck (BitVec.ofNat 112 (2 ^ 64 + 2 ^ 96))).toNat :=
    ⟨_, (Config.handleCheck (BitVec.ofNat 112 (2 ^ 64 + 2 ^ 96))).isLt, rfl⟩
  have hn : (BitVec.ofNat 128 (handleOf c)).toNat = handleOf c := by
    rw [BitVec.toNat_ofNat, Nat.mod_eq_of_lt (by simp only [handleOf]; omega)]
  refine ⟨BitVec.ofNat 128 (handleOf c), ?_, ?_⟩
  · rw [hn]; exact handleGood_handleOf c hc (by rw [handleOf_low]; exact hk)
  · rw [hn]; simp only [Bits.field, handleOf]; omega

/-- Link 5 is up; a flit for this package, first in order. -/
def linkSt (l : Link) : State :=
  let s := evSt probeTeam id
  { s with pkg := { s.pkg with links := s.pkg.links.set 5 l } }
def aFlit (crc : Word64) : Flit := { dpkg := 0, ddie := 0, vc := 0, seq := 1, ack := 0, payload := [], crc }

/-- That flit sent and not acknowledged, replayed `n` times. -/
def aSent (n : Nat) : SentFlit := { flit := aFlit 0, sent := 0, replays := n }

theorem wit_FabricAndBringUp :
    (linkSt { up := true }).pkg.links[5]? = some { up := true } ∧ (aFlit 0).seq = ({} : Link).rx + 1 ∧
    (aFlit 0).dpkg = (linkSt {}).pkg.pkgNo ∧ (linkSt { up := true, unacked := [aSent 7] }).pkg.links[5]? =
      some { up := true, unacked := [aSent 7] } ∧
    (let s := { linkSt { up := true } with pkg := { (linkSt { up := true }).pkg with route := SMap.insert [] 9 0x20 } }
     linksToward s 9 = [5] ∧ linksToward s 8 = [] ∧ s.pkg.flits = [] ∧ (9 : BitVec 14) ≠ s.pkg.pkgNo) ∧
    (linkSt { up := true, unacked := [aSent 8] }).pkg.links[5]? = some { up := true, unacked := [aSent 8] } ∧
    probeTeam.ts = [] ∧ (∀ x ∈ probeTeam.groups, x.loads = []) ∧ (linkSt {}).pkg.tbLost = false ∧
    (linkSt {}).pkg.dieLinks.getD 2 false = true ∧ (linkSt {}).pkg.tbMaster = false ∧
    ({ linkSt {} with pkg := { (linkSt {}).pkg with mclk := 2100000 } } : State).tick = 1000000 ∧
    State.reset.pkg.boot < 6 ∧ State.reset.pkg.bootHalted = false ∧ (State.reset.die 0).price.length = 32 ∧
    imageGood { header := [], body := [], key := [], signature := [] } = false := by decide +kernel

/-- The CRC condition of a good flit is met by the flit that carries the CRC of its own bytes. -/
theorem wit_goodFlit : ∃ f : Flit, f.seq = 1 ∧ f.crc = Config.crc64 (flitBytes f) :=
  ⟨aFlit (Config.crc64 (flitBytes (aFlit 0))), rfl, by simp only [flitBytes, aFlit]⟩

/-! ## Witnesses: faults, steps and the decoder -/

/-- Group 0 runs in a team whose FVEC is `v`. -/
def vecTeam (v : Word64) : Team := { laneTeam (laneGroup 1) with comp := { probeTeam.comp with fvec := v } }

/-- Group 0 of core 0 of die 0, as the statement about faults needs it. -/
def faultWit (t : Team) : Bool :=
  (laneSt t).team? 0 0 = some t && ((laneSt t).group? 0 0 0).isSome

theorem wit_FaultsTaken :
    faultWit (vecTeam 0x2_0000) = true ∧ (vecTeam 0x2_0000).comp.fvec.getLsbD Code.STEP = decide (Code.STEP = 17) ∧
    faultWit (vecTeam (1 <<< Code.BADTARGET)) = true ∧ (vecTeam (1 <<< Code.BADTARGET)).comp.fvec.getLsbD Code.BADTARGET = true ∧
    Code.BADTARGET ≠ Code.PROT ∧ (vecTeam 0).comp.fvec.getLsbD Code.BADTARGET = false ∧
    (laneSt (vecTeam 0)).pkg.events.length < 1024 ∧ (compSt id).team? 0 0 = some probeTeam := by decide +kernel

/-- An event of the group is queued; a fault meets an uncorrectable provenance word. -/
theorem wit_FaultsMeet :
    (let t : Team := { vecTeam (1 <<< Code.BADTARGET) with comp := { (vecTeam (1 <<< Code.BADTARGET)).comp with evq := [.frame 1 1, .fault 0 {}] } }
     (∃ v ∈ t.comp.evq, v.group? = some 0) ∧ faultWit t = true) ∧
    (let t : Team := { vecTeam 0 with bad := [.prov 0] }
     faultWit t = true ∧ t.bad.contains (.prov ((t.frameOf (laneGroup 1)).index (laneRecord (laneSt t) 0 0 0 0 { code := 5 }).woff / 2)) = true) := by
  decide +kernel

theorem wit_WordsWithoutInstruction :
    (compSt id).cur = .composer 0 0 ∧ (compSt id).team? 0 0 = some probeTeam ∧ compReady probeTeam = true ∧
    (laneSt (laneTeam (laneGroup 0))).cur = .lane 0 0 0 0 ∧ laneReady (laneTeam (laneGroup 0)) (laneGroup 0) 0 = true ∧
    probeTeam.comp.dbgStep = false ∧
    (let t : Team := { probeTeam with comp := { probeTeam.comp with dbgStep := true } }
     t.comp.dbgStep = true ∧ t.comp.stat = .running ∧ (compSt fun _ => t).team? 0 0 = some t) := by decide +kernel

theorem wit_LaneStepFrame :
    (let s := laneSt (laneTeam (laneGroup 1))
     match laneDone s s 0 0 0 0 .vector 24 with | .next _ => true | _ => false) = true ∧
    LaneWit (laneGroup 0) .vector 0 ((laneGroup 0).active 0 = 0 ∧ LaneKind.structural { cls := .vector } = false) ∧
    (let t := { laneTeam (laneGroup 1) with permits := { vector := 23 } }
     mayStart (laneSt t) 0 0 .vector (((laneSt t).die 0).priceOf 0) = false ∧ laneReady t (laneGroup 1) 0 = true) :=
  ⟨by decide +kernel, ⟨laneAt_of _ _ _ _ (by decide +kernel), by decide +kernel⟩, by decide +kernel⟩

/-- The word `w` of 32 or 64 bits stands where the next step fetches. -/
def placed (n w : Nat) : State := State.reset.withFetchWord n w

/-- The composer at address 0, its line in the instruction cache. -/
def cached (w : Nat) : State :=
  (placed 32 w).updComp 0 0 fun k => { k with icache := [(0, w)] }

theorem wit_StepRunsTheDecodedInstruction :
    (placed 32 0x04A3_FFFC).agenda = [.composer 0 0] ∧
    ((placed 32 0x04A3_FFFC).team? 0 0).map (fun t => compReady t && t.comp.icache.isEmpty) = some true ∧
    reaches (placed 32 0x04A3_FFFC) 0 64 (fun x e => denied x .fetch 4 0 e = none) = true ∧
    (Sys2Proof.decodeComposer (wordOfLine 0x04A3_FFFC 0)).toOption = some (.cAddi 5 3 0xFFFC) ∧
    ((cached 0x04A3_FFFC).team? 0 0).map (·.comp.icache.find? 0) = some (some 0x04A3_FFFC) ∧
    (match Sys2Proof.decodeComposer 0xFFFF_FFFF with | .ok _ => false | .error _ => true) = true ∧
    (placed 64 0).agenda = [.lane 0 0 0 0] ∧ ((placed 64 0).team? 0 0).isSome = true ∧ ((placed 64 0).group? 0 0 0).isSome = true ∧
    (match (placed 64 0).team? 0 0, (placed 64 0).group? 0 0 0 with
     | some t, some x => laneReady t x 0 && !scoreboard t 0 x 0 (.lNop {}) && decide ((x.slot 0).word < (t.frameOf x).blockLen (x.slot 0).block)
     | _, _ => false) = true ∧
    (let x := (laneGroup 1).updSlot 0 fun p => { p with word := 2 }
     laneReady (laneTeam x) x 0 = true ∧ (laneSt (laneTeam x)).group? 0 0 0 = some x ∧ ranOff (laneTeam x) x 0 = true) ∧
    (let s := coreCycle (placed 64 0) 0 0; pulsePasses s (s.die 0) 0 = true ∧ (s.group? 0 0 0).isSome = true) ∧
    (let x := loading (.sp 0 0)
     scoreboard (laneTeam x) 0 x 0 (.lIadd { dst := 4 }) = true ∧ scoreboard (laneTeam x) 0 x 0 (.lIadd { dst := 5, sa := 6, sb := 7 }) = false) ∧
    (let t := acting (.lMma { ra := 16, fmt := 0x12 }) [] 0
     scoreboard t 0 (laneGroup 1) 0 (.lIadd { dst := 31 }) = true ∧ scoreboard t 0 (laneGroup 1) 0 (.lIadd { dst := 32 }) = false) ∧
    ({ State.reset with agenda := [.clock 21] } : State).agenda = [.clock 21] ∧
    ({ State.reset with agenda := [.service 0 (.ePermitRefill 0)] } : State).agenda = [.service 0 (.ePermitRefill 0)] ∧
    ({ State.reset with agenda := [.choice 0 .eHopMin 3] } : State).agenda = [.choice 0 .eHopMin 3] := by decide +kernel

/-- A step of a placed word answers a next state from a state in which every memory is canonical. -/
theorem wit_StepKeepsInvariant :
    (placed 32 0x04A3_FFFC).dies.length = 3 ∧ ((placed 32 0x04A3_FFFC).dies.all Die.memWf) = true ∧
    (placed 32 0x04A3_FFFC).pkg.memWf = true ∧
    (match step (placed 32 0x04A3_FFFC) with | .next s => decide (((s.team? 0 0).map fun t => (t.comp.reg 5, t.comp.pc)) = some (0xFFFF_FFFF_FFFF_FFFC, 4)) | _ => false) = true := by
  decide +kernel

theorem wit_DecodeEncode :
    Sys2Proof.wellFormed (.cAddi 5 3 0xFFFC) = true ∧ Sys2Proof.wellFormed (.eHopFwd) = false := by decide +kernel

/-! ## Uncorrectable words (13 R388) -/

/-- The composer's team with uncorrectable words `l`. -/
def spoiled (l : List Ram) (f : Team → Team) (t : Team) : Team := { f t with bad := l }

theorem wit_UncorrectableToComposer :
    CompWit (spoiled [.store 2] (withG 16 0)) (fun t => (t.comp.reg 1).toNat % 8 = 0 ∧ t.badStore 16 8 = true ∧ t.badStore 16 16 = true) ∧
    CompWit (spoiled [.sp 8] (withG 64 0)) (fun t => (t.comp.reg 1).toNat % 8 = 0 ∧ t.badSp 64 8 = true ∧
      t.lockHit true false 64 8 = false ∧ t.lockHit true true 64 8 = false ∧ t.comp.storeErr = none ∧ t.drained .composer = true) ∧
    CompWit (spoiled [.store 2] (emitting 16 2 { opened := true, starts := [0] } none)) (fun t =>
      Room t { opened := true, starts := [0] } ∧ t.badStore 16 16 = true) ∧
    CompWit (spoiled [.store 2] (emitting 0 2 { words := 1, opened := true, starts := [0], chunks := [0] } (some { i := 1, ofs := 16, blocks := 0, left := 1 })))
      (fun t => Room t { words := 1, opened := true, starts := [0], chunks := [0] } ∧
        t.comp.pend = some { i := 1, ofs := 16, blocks := 0, left := 1 } ∧ t.badStore 16 16 = true) ∧
    CompWit (spoiled [.store 2] (withG 5 0)) (fun t => t.badStore ((t.comp.reg 1).toNat - (t.comp.reg 1).toNat % 64) 64 = true) :=
  ⟨⟨compAt_of _ _ (by decide +kernel), by decide +kernel⟩, ⟨compAt_of _ _ (by decide +kernel), by decide +kernel⟩,
   ⟨compAt_of _ _ (by decide +kernel), by decide +kernel⟩, ⟨compAt_of _ _ (by decide +kernel), by decide +kernel⟩,
   ⟨compAt_of _ _ (by decide +kernel), by decide +kernel⟩⟩

theorem wit_UncorrectableToEvents :
    (let t := { feTeam true with bad := [.sp 0] }
     holds (evSt t id) t (waiting feWait) = true ∧ t.isFull 0 = true ∧ t.badSp 0 4 = true) ∧
    (let t := { acting (.lMma { fmt := 0x12 }) [] 0 with bad := [.sp 3] }
     stepUe t (act (.lMma { fmt := 0x12 })) = true ∧ mayStart (evSt t id) 0 0 .matrix (((evSt t id).die 0).priceOf (stepEntry 0x12)) = true) ∧
    (let t := { acting (.lAst {}) [] 0 with bad := [.acc 5] }
     actionUe t (act (.lAst {})) = true ∧ t.badTile 0 0 = true) := by decide +kernel

/-- The word of IADD v10, v11, v12 before slot 0 of group 0, strands 0 and 1 active, words `l` uncorrectable. -/
def spoiledSt (l : List Ram) : State :=
  let t := laneTeam (laneGroup 3)
  { laneSt { t with fb := t.fb.insert 1 0x0005_0586_0000_0010, bad := l } with agenda := [.lane 0 0 0 0] }

theorem wit_UncorrectableAtIssue :
    ((spoiledSt [.vreg 0 11 0]).team? 0 0).map (fun t => (decide (Ram.fb 1 ∈ t.bad), t.bad.isEmpty)) = some (false, false) ∧
    ((spoiledSt [.fb 1]).team? 0 0).map (fun t => decide (Ram.fb 1 ∈ t.bad)) = some true ∧
    (Sys2Proof.decodeLane 192 0x0005_0586_0000_0010).toOption = some (.lIadd { dst := 10, sa := 11, sb := 12, fmt := 0, qual := 0x10 }) := by
  decide +kernel

/-- The code, ACCESS and mask of the group's record, and the team's uncorrectable words, after a step. -/
def spoilStep (l : List Ram) : Option (Nat × Nat × BitVec 32 × List Ram) :=
  match step (spoiledSt l) with
  | .next s => (match s.team? 0 0, s.group? 0 0 0 with
    | some t, some x => some (x.code, x.frec.access, x.frec.mask, t.bad)
    | _, _ => none)
  | _ => none

/-- R388: a source and the word itself fault UE; a destination written whole is correct again, one not named stays. -/
theorem test_uncorrectable :
    (spoilStep [.vreg 0 11 0] == some (0x0C, 0x42A, 3, [.vreg 0 11 0]) && spoilStep [.fb 1] == some (0x0C, 0x63B, 0, [.fb 1]) &&
     spoilStep [.vreg 0 10 0, .vreg 0 10 1] == some (0, 0, 0, [.vreg 0 10 1])) = true := by decide +kernel

/-! ## Witnesses: orders, refusals and what is under way -/

/-- Slot 1 of group 0 waits for a load of issue number 0; a store of number 1 is queued behind it. -/
def behindTeam : Team :=
  let x := { laneGroup 1 with pc1 := { st := .live, mask := 2, mark := 1, block := 0, word := 1, wait := .load } }
  { laneTeam x with sq := [{ party := .group 0, loc := .hbm 64, kind := .store 4 5, no := 1 }] }

theorem wit_StoresBehindALoad :
    behindTeam.sq.head?.map (fun w => (decide (w.party = .group 0), behindTeam.mayEnter w)) = some (true, false) ∧
    ((behindTeam.groups.getD 0 {}).clearTo behindTeam.stopReq 1) = false := by decide +kernel

/-- The unit that a load's turn takes is served, fails at an uncorrectable word, or stands behind an earlier access. -/
theorem wit_LoadUnits :
    (loadingOp (.sp 0 0)).next 3 = some { strand := 0, part := 0, loc := .sp 0 0, va := 0, n := 4 } ∧
    (loading (.sp 0 0)).clearTo false 0 = true ∧ ({ loading (.sp 0 0) with heldFrom := some 0 } : Group).clearTo false 1 = false ∧
    (let t := laneTeam (loading (.sp 0 0))
     match (serveNext (evSt t id) 0 0 t (.group 0) (loadingOp (.sp 0 0)) { strand := 0, part := 0, loc := .sp 0 0, va := 0, n := 4 }).2 with
     | .got v _ => v = 0 | _ => false) = true ∧
    (let t := { laneTeam (loading (.sp 0 0)) with bad := [.sp 0] }
     match (serveNext (evSt t id) 0 0 t (.group 0) (loadingOp (.sp 0 0)) { strand := 0, part := 0, loc := .sp 0 0, va := 0, n := 4 }).2 with
     | .failed k _ => k = Cause.UE | _ => false) = true ∧
    ({ strand := 0, part := 0, loc := .sp 0 0, va := 0, n := 4, lone := true } : LUnit).lone = true := by decide +kernel

/-- A page of the host aperture behind an export, a die that is closed, and a payload that a store is still on its way to. -/
theorem wit_RefusedAndNotReady :
    (let x := (evSt probeTeam fun x => { exporter 2 x with table := Mem.write (Mem.write [] 0 8 0x1_0001) 0x1_0000 8 (0x3F + 0x400_0000 * 2 ^ 20) }).die 0
     match (walk x 0).1 with | .ok e => decide (e.leaf.peer = false ∧ regionOf (e.leaf.frame * 65536) 1 = .host) | .error _ => false) = true ∧
    dieReached (evSt probeTeam fun x => { x with enabled := false }) 0 0 = false ∧ dieReached (evSt probeTeam id) 0 0 = true ∧
    (let t : Team := { probeTeam with ts := [{ party := .group 0, loc := .hbm 0x2000, kind := .store 4 5 }] }
     let p : CollPkt := { collPkt 0 with src := .coll 0 0 0 probeTeam.key, read := false, issue := 1 }
     payloadReady (evSt t mapped) 0 p = false ∧ payloadReady (evSt probeTeam mapped) 0 p = true) := by decide +kernel

/-- A chunk of the die's copy engine under way for a launch without a team; an ATTEST rung too early; a flit sent 2 µs ago. -/
theorem wit_UnderWay :
    collBegun (evSt probeTeam fun x => { x with launches := [aLaunch .running], dieCopies := [{ copying 0 with upTo := 64, launch := some lkey }] }) 0 lkey = true ∧
    (∀ e ∈ ((evSt probeTeam id).die 0).teams, e.2.key ≠ lkey) ∧
    (let m := { (mailSt 5).pkg.mailbox with early := true }; m.early = true ∧ (m.cmd.byte 0).toNat = 5) ∧
    ((aSent 7).sent + 4200 ≤ 4200 ∧ (aSent 7).replays < 8 ∧ 8 ≤ (aSent 8).replays ∧ ¬ ((aSent 7).sent + 4200 ≤ 4199)) := by decide +kernel

/-! ## Results that the spec works out -/

/-- Group 0 after the lane word `w` issued from its slot 0. -/
def ran (x : Group) (w : Nat) : Group :=
  match Sys2Proof.decodeTableWord 64 w with
  | some i => (match exec i (laneSt (laneTeam x)) with | .next s => (s.group? 0 0 0).getD {} | _ => {})
  | none => {}

/-- Group 0 after the instruction `i` issued from its slot 0. -/
def did (x : Group) (i : Sys2Proof.Instr) : Group :=
  match exec i (laneSt (laneTeam x)) with | .next s => (s.group? 0 0 0).getD {} | _ => {}

/-- Strands 0 to `n` − 1 of v(r) hold `f`. -/
def withV (r n : Nat) (f : Nat → Word32) (x : Group) : Group :=
  (List.range n).foldl (fun y k => y.setV r k (f k)) x

/-- The group of 08 Table 8.7. -/
def maskedGroup : Group :=
  withV 9 8 (fun s => BitVec.ofNat 32 ((s + 1) % 8)) (withV 3 8 (fun s => BitVec.ofNat 32 (s % 2))
    (withV 2 8 (fun s => BitVec.ofNat 32 (10 * s)) (withW [0, 0, 0x3C] (laneGroup 0xFF))))

def column (r : Nat) (x : Group) : List Word32 := (List.range 8).map fun s => x.vreg r s

/-- 08 Table 8.7, with the word that the spec gives for SHFL. -/
theorem test_shfl : column 6 (ran maskedGroup 0x8303_0165_0000_4800) = [0, 20, 30, 40, 50, 50, 60, 70] := by decide +kernel

theorem test_vote_gather : column 7 (did maskedGroup (.lVote { dst := 7, sa := 3, sb := 202, sc := 2 })) =
    [0, 2, 0x28, 0x28, 0x28, 0x28, 0, 0x80] := by decide +kernel

theorem test_vote_any : column 8 (did maskedGroup (.lVote { dst := 8, sa := 3, sb := 202, sc := 1 })) =
    [0, 0xFFFF_FFFF, 0xFFFF_FFFF, 0xFFFF_FFFF, 0xFFFF_FFFF, 0xFFFF_FFFF, 0, 0xFFFF_FFFF] := by decide +kernel

theorem test_gred_add : column 9 (did maskedGroup (.lGred { dst := 9, sa := 2, sb := 202 })) =
    [0, 10, 140, 140, 140, 140, 60, 70] := by decide +kernel

/-- 08 Table 8.6: the sources in v8 to v15 of strand 0, the scale entry in w11. -/
def quantGroup : Group :=
  let l : List Word32 := [0xBFA0_0000, 0x3F40_0000, 0x3E99_999A, 0x4120_0000, 0xC040_0000, 0x7FC0_0000, 0, 0]
  (List.range 8).foldl (fun y k => y.setV (8 + k) 0 (l.getD k 0)) (withW [0, 0, 0, 0x0008_3400] (laneGroup 1))

/-- 08 Table 8.6: QZ with the word that the spec gives; it raises NV and NX. -/
theorem test_qz : (let y := ran quantGroup 0x740A_0465_8000_0420; (y.vreg 20 0, y.asf)) = (0x8880_F9B3, 0x11) := by decide +kernel

/-- 08 Table 8.6: DQ with the word that the spec gives. -/
theorem test_dq : (let y := ran (quantGroup.setV 20 0 0x8880_F9B3) 0x730C_0A65_8001_0A00
    ((List.range 8).map fun k => y.vreg (24 + k) 0, y.asf)) =
    ([0xBFA0_0000, 0x3F40_0000, 0x3E80_0000, 0x3FE0_0000, 0xC000_0000, 0, 0, 0], 0) := by decide +kernel

/-- 08 R261's example. -/
theorem test_prmt :
    (did ((((laneGroup 1).setV 1 0 0x4D3C_2B1A).setV 2 0 0x8F7E_6958).setV 3 0 0x3C21_1307)
      (.lPrmt { dst := 4, sa := 1, sb := 2, sc := 3 })).vreg 4 0 = 0x00B2_B28F := by decide +kernel

/-- 02 Table 2.7: three calls through one residue, and the flags of the first. -/
theorem test_error_feedback :
    Fl.errorFeedback Fl.e4m3 false 0x3E99_999A 0 = (0x2A, 0xBC4C_CCC0, Fl.NX) ∧
    Fl.errorFeedback Fl.e4m3 false 0x3E99_999A 0xBC4C_CCC0 = (0x29, 0x3BCC_CD00, Fl.NX) ∧
    Fl.errorFeedback Fl.e4m3 false 0x3E99_999A 0x3BCC_CD00 = (0x2A, 0xBBCC_CC80, Fl.NX) := by decide +kernel

/-- 02 Table 2.8: a tie goes toward the sign of the exact sum S when products below the window are left out. -/
theorem test_dot_sticky :
    Fl.dotCell 0x3F80_0000 [(.fin false 1 (-12), .fin false 1 (-12))] = 0x3F80_0000 ∧
    Fl.dotCell 0x3F80_0000 [(.fin false 1 (-12), .fin false 1 (-12)), (.fin false 1 (-60), .fin false 1 (-60))] = 0x3F80_0001 ∧
    Fl.dotCell 0x3F80_0000 [(.fin false 1 (-12), .fin false 1 (-12)), (.fin true 1 (-60), .fin false 1 (-60))] = 0x3F80_0001 := by
  decide +kernel

/-- 02 Table 2.6 and the two decodes below it. -/
theorem test_decodes :
    decodeCode Fmt.F32 Fmt.A4G64 3 0x0008_3400 = 0xBFA0_0000 ∧ decodeCode Fmt.F32 Fmt.A4G64 11 0x0008_3400 = 0x3F40_0000 ∧
    decodeCode Fmt.BF16x2 Fmt.A4G64 3 0x0008_3400 = 0xBFA0 ∧ decodeCode Fmt.F32 Fmt.A4G64 11 0x0008_3555 = 0x3F7F_F000 ∧
    decodeCode Fmt.BF16x2 Fmt.A4G64 11 0x0008_3555 = 0x3F80 ∧ decodeCode Fmt.F32 Fmt.MX8E4 0x4A 0x7C = 0x3F20_0000 := by
  decide +kernel

/-- The action of 10's worked MMA.A4G64 step: A codes 9, 10, 6 of row 0 in v16, its scale entry in v60, KLIM 3. -/
def workedMma : MatAct :=
  { no := 0, i := .lMma { ra := 16, rb := 202, fmt := Fmt.A4G64 }, g := 0, owner := .pending 0,
    regs := SMap.insert (SMap.insert [] (32 * 16) (0x6A9 : Word32)) (32 * 60) 0x0008_3800,
    active := BitVec.allOnes 32, win := 0, edge := 60 * 2 ^ 20 + 3, ofs := 0, scNo := 0, j := 0, failed := false }

/-- 10, "A worked step": B codes 12, 4, 8 of column 0, cell 2.0 becomes 1.5. -/
theorem test_mma :
    stepCell { laneTeam (laneGroup 1) with sp := Mem.write [] 0 2 0x084C, scFill := SMap.insert [] 0 0x0008_3400 }
      workedMma 0 0 0 0x4000_0000 = 0x3FC0_0000 := by decide +kernel

/-- 08 R269's example: XSET x1, w12; XLD v4, x1, v9; XADD of −2. -/
theorem test_index :
    (did (withW [0, 0, 0, 0, 0x0002_0820] (laneGroup 1)) (.lXset { sa := 204, sc := 1 })).xreg 1 = 0x0002_0820 ∧
    (let x : Group := { laneGroup 0x3F with x := SMap.insert [] 1 0x0002_0820 }
     let y := withV 9 8 (fun s => BitVec.ofNat 32 s) ((List.range 6).foldl (fun y k => y.setV (34 + k) k (BitVec.ofNat 32 (100 + k))) x)
     (List.range 6).map (fun s => (ran y 0x8902_0480_0000_0800).vreg 4 s) = [100, 101, 102, 103, 104, 105]) ∧
    (let x : Group := { laneGroup 0x40 with x := SMap.insert [] 1 0x0002_0820 }
     (ran (withV 9 8 (fun s => BitVec.ofNat 32 s) x) 0x8902_0480_0000_0800).code = Code.IDXBOUND) ∧
    (let x : Group := withW [0, 0, 0, 0, 0, 0xFFFF_FFFE] { laneGroup 1 with x := SMap.insert [] 1 0x0002_0820 }
     (did x (.lXadd { sa := 205, sc := 1 })).xreg 1 = 0x0000_0820) := by decide +kernel

/-- Strands a to d of 05 Table 5.5 with their counters, and v1 true for the strands of `c`. -/
def nestedGroup (n : List (BitVec 8)) (c : BitVec 32) : Group :=
  withV 1 4 (fun s => if c.getLsbD s then 1 else 0)
    { laneGroup 0xF with nest := (List.range 4).foldl (fun m k => m.set 0 k (n.getD k 0)) [] }

def counters (x : Group) : List Nat := (List.range 4).map fun s => (x.nestOf s).toNat

/-- 05 Table 5.5, iteration 1 and the ENDL behind it. -/
theorem test_structured :
    counters (did (nestedGroup [0, 0, 0, 1] 0) (.lLoop {})) = [0, 0, 0, 3] ∧
    counters (did (nestedGroup [0, 0, 0, 3] 0b0011) (.lIf { cond := 1, t1 := 1 })) = [0, 0, 1, 4] ∧
    counters (did (nestedGroup [0, 0, 1, 4] 0b0010) (.lBreak { cond := 1, k := 1 })) = [0, 3, 1, 4] ∧
    counters (did (nestedGroup [0, 3, 1, 4] 0) (.lEndif {})) = [0, 2, 0, 3] := by decide +kernel

/-- ENDL with an active strand loops to block 0; with none it runs on into block 1. -/
theorem test_endl :
    (let y := did (nestedGroup [0, 2, 0, 3] 0) (.lEndl { t1 := 0 }); (counters y, (y.slot 0).block, (y.slot 0).word)) = ([0, 2, 0, 3], 0, 1) ∧
    (let y := did (nestedGroup [3, 3, 2, 3] 0) (.lEndl { t1 := 0 }); (counters y, (y.slot 0).block, (y.slot 0).word)) = ([1, 1, 0, 1], 1, 1) := by
  decide +kernel

/-- 09's example: ASF 0x11 and ATE 0x10 stop the group at TFENCE with ARITH. -/
theorem test_tfence :
    (let y := did { laneGroup 1 with asf := 0x11, ate := 0x10 } (.lTfence {}); (y.st, y.code, y.asf, y.frec.access)) =
      (.stopped, Code.ARITH, 0x11, 0x1011) := by decide +kernel

/-- 13 R384's record. -/
theorem test_fault_record :
    (let r : FaultRec :=
      { code := 1, cause := 0, fid := 3, slot := 1, group := 37, log := 37, phys := 179, die := 1,
        mask := 0xFFFF_FFFF, access := 0x20, va := 0x40_1000_0000, provn := 0x7112, woff := 42 }
     r.word) = 0x12CC_944B_3000_0001 + 0x20_FFFF_FFFF * 2 ^ 64 + 0x40_1000_0000 * 2 ^ 128 + 0x2A_0000_7112 * 2 ^ 192 := by
  decide +kernel

/-- 11 Table 11.7a: four draws from seed 1 with weights 2, 1 and 5 of queues 2, 5 and 9. -/
def drawn (seed : Word32) : Option Nat × Word32 :=
  let l : List Entrant := [{ q := 2, pkt := [], prio := 0, wt := 2, losses := 0 }, { q := 5, pkt := [], prio := 0, wt := 1, losses := 0 },
    { q := 9, pkt := [], prio := 0, wt := 5, losses := 0 }]
  ((drawWinner seed l).1.map (·.q), (drawWinner seed l).2)

theorem test_draws :
    drawn 1 = (some 9, 0x8020_0003) ∧ drawn 0x8020_0003 = (some 5, 0xC030_0002) ∧
    drawn 0xC030_0002 = (some 2, 0x6018_0001) ∧ drawn 0x6018_0001 = (some 9, 0xB02C_0003) := by decide +kernel

/-- 11's example under R350: queue 3 with HEAD 10 and two claims; a commit of 11 leaves HEAD at 10, and a claim of a full queue
answers bit 63 and TAIL. -/
def claimed (head tail : Word32) : State :=
  evSt probeTeam fun x => { x with queues := SMap.insert [] 3 { aQueue tail with head } }

def reply (o : Host.Outcome State Fault Refusal) : Word64 := match o with | .next s => s.busReply | _ => 0

theorem test_claim :
    reply (exec (.eClaim 3) (claimed 10 10)) = 10 ∧ reply (exec (.eClaim 3) (claimed 10 74)) = 0x8000_0000_0000_004A := by
  decide +kernel

/-- 05 Table 5.3: logical cores 0 to 2 in cluster 0, 3 to 6 in cluster 1; one row of seven cores, ten items in one dimension. -/
def dealDie : Die :=
  { Die.reset with l2pt := [0x8004_8002_8001_8000, 0x0000_8007_8006_8005] ++ List.replicate 62 0 }

theorem test_deal :
    (List.range 7).map (fun c => dealItem dealDie (launchPkt.set 4 0x0600) c 0) = [0, 2, 4, 1, 3, 5, 7] ∧
    [0, 1, 3].map (fun c => dealItem dealDie (launchPkt.set 4 0x0600) c 1) = [6, 8, 9] := by decide +kernel

/-- 01 Table 1.13: the walk of 0x0000_0040_0A32_1F40. -/
def walkDie : Die :=
  { Die.reset with
    ptroot := 1
    table := Mem.write (Mem.write (Mem.write [] 0 8 0x0001_0001) 0x1_0800 8 0x0001_1001) 0x1_1288 8 0x2_4600_544B
    sdt := Die.reset.sdt.set 5 { valid := true, geom := 1, fmt := 1, shadow := 0x40_0C00_0000, limit := 0x80_0000, base := 0x40_0A00_0000 } }

theorem test_walk :
    (match (walk walkDie 0x40_0A32_1F40).1 with
     | .ok e => decide (e.loc 0x40_0A32_1F40 = .hbm 0x2472_1F40) && e.leaf.w && !e.leaf.x && decide (e.leaf.fmt = 1 ∧ e.leaf.geom = 1 ∧ e.leaf.sdx = 5)
     | .error _ => false) = true := by decide +kernel

/-- 03's episode: units 2 and 5 of die 0 and a peer die's unit; the element reads 2^24. -/
theorem test_episode :
    (let p (die unit data : Nat) : Partial := { pkg := 0, die, unit, data := identityLine 0 Fmt.F32 - 0x8000_0000 + data, parked := false, seq := 0 }
     let x : Die := { Die.reset with
       episodes := [{ line := 0, op := 0, fmt := Fmt.F32, partials := [p 1 0 0x3F80_0000, p 0 5 0x3F80_0000, p 0 2 0x4B80_0000] }] }
     (x.endEpisode 0).hbm.read 0 4) = 0x4B80_0000 := by decide +kernel

/-- 12 Table 12.5: the permits of a core after its refills at RATE 240 and the charges of steps 0 to 2. -/
theorem test_permits :
    (4096 : Int) - 2600 = 1496 ∧
    (let t : Team := { laneTeam (laneGroup 1) with permits := { matrix := 1496, bucket := 100000 } }
     let s := evSt t fun x => { x with permitRate := [240, 0, 0, 0], permitCap := [4096, 0, 0, 0] }
     match exec (.ePermitRefill 0) s with
     | .next s => decide ((s.team? 0 0).map (fun t => (t.permits.matrix, t.permits.bucket)) = some (1736, 99760))
     | _ => false) = true := by decide +kernel

/-- Die 1 of program P2: core 41 fused off, its position served by core 256 of cluster 64 (15 Table 15.10). -/
def p2Die : Die := { Die.reset with
  l2pt := ((List.range 64).map regularL2pt).set 9 0x802D_802C_8100_8028 }

/-- Tables 15.10 and 15.14: entries 36 to 39, and first items of cores (5,2), (4,2), (5,3), (4,0) and (7,7). -/
theorem test_deal_p2 :
    regularL2pt 9 = 0x802D_802C_8029_8028 ∧
    (let p : List Word64 := [0x101, 0x40_0000_1000, 0, 0x1_0008_0001, 0x7304, 0x7F, 0, 0]
     [0x25, 0x24, 0x35, 0x04, 0x77].map (fun c => (List.range 4).map (dealItem p2Die p c)) =
       [[8, 17, 26, 35], [2, 29, 56, 83], [20, 47, 74, 101], [0, 36, 72, 108], [34, 70, 106, 142]]) := by decide +kernel

/-- 13 Tables 13.5, 13.6 and 13.6a: the sections' starts for a team of one group, and bytes of its group record. -/
theorem test_saved_context :
    (let x := { (laneGroup 3).setV 1 2 0xA1B2C3D4 with code := 0x0C, spill := [{ mark := 2, block := 1, mask := 0xF0 }] }
     let t := laneTeam x
     ctxStart t .store = 8192 ∧ ctxStart t .frames = 139264 ∧ ctxStart t .groups = 241664 ∧ ctxStart t .vregs = 245760 ∧
     savedByte t (241664 + 5) = some 0x0C ∧ savedByte t (241664 + 16) = some 3 ∧ savedByte t (241664 + 9) = some 0x10 ∧
     savedByte t (245760 + 128 + 8) = some 0xD4 ∧ (savedByte t 0).isSome = true) := by decide +kernel

/-- Registers as firmware reads them after reset: 05 Table 5.9, 12 Tables 12.8 to 12.10, 12.12, 12.15. -/
theorem test_register_views :
    (let x := Die.reset
     [0x3000, 0x3008, 0x5060, 0x5068, 0x5070, 0x5100].map (readDieReg x) =
       [0x7_0040, 0x7654_3210_7654_3210, 0x2008_5555_2001_4BB8, 1, 0x0960_6403_2007, 0xFFFF] ∧
     readControlReg State.reset 0x6010 = 0x1A0A_1A0A_0000_012C ∧ readControlReg State.reset 0x6028 = 0x03E8_0014) := by decide +kernel

/-- 05 R145: group 319 of 4 slots of 48 registers: quadrant 3, lane 19 of it, slot 3, whose v47 is lane register 191. -/
theorem test_placement :
    (Sys2Proof.Machine.quadrantOf 319, laneInQuadrant 319, laneOf 319, slotOf 319, laneRegister 48 319 47) = (3, 19, 79, 3, 191) ∧
    (laneOf 0, laneOf 1, laneOf 4, laneOf 79, laneOf 80, slotOf 80) = (0, 20, 1, 79, 0, 1) := by decide

/-- 14 R406 names SHA-512: the first bytes of the digest of "abc" in FIPS 180-4's published example. -/
theorem test_sha512 : (sha512 [0x61, 0x62, 0x63]).take 8 = [0xDD, 0xAF, 0x35, 0xA1, 0x93, 0x61, 0x7A, 0xBA] := by decide +kernel

/-- 05 R149: of two slot-PCs of a lane that are ready since the same boundary the lower one goes first, and an earlier one before
either; a YIELD puts its slot behind those ready at the next boundary. -/
theorem test_issue_order :
    (let x (a b : Nat) : Group := { laneGroup 1 with
       pc0 := { st := .live, mask := 1, mark := 0xFFF, block := 0, word := 1, since := a }
       pc1 := { st := .live, mask := 2, mark := 0xFFF, block := 0, word := 1, since := b } }
     goesBefore (laneTeam (x 3 3)) (0, 0) (0, 1) = true ∧ goesBefore (laneTeam (x 6 3)) (0, 0) (0, 1) = false ∧
     rankAfter (laneTeam (x 3 3)) (x 3 3) (x 3 3) 0 1 (some (.lYield {})) 0 = 7 ∧
     rankAfter (laneTeam (x 3 3)) (x 3 3) (x 3 3) 0 1 (some (.lNop {})) 0 = 6 ∧
     maybeReady (laneTeam (x 7 3)) 2 (0, 0) = true ∧ maybeReady (laneTeam (x 8 3)) 2 (0, 0) = false) := by decide +kernel

/-! Floating-point elements: a NaN, an infinity, finite numbers, sums and products that are and are not zero. -/

theorem wit_FloatElementRules :
    (IsNan Fl.f32 0x7FC0_0000 ∧ IsNan Fl.f16 0x7E00 ∧ IsNan Fl.bf16 0x7FC0) ∧
    (IsInf Fl.f32 0xFF80_0000 ∧ IsInf Fl.f16 0x7C00 ∧ IsInf Fl.bf16 0x7F80) ∧
    (IsFin Fl.f32 1 ∧ IsFin Fl.f16 0x7BFF ∧ IsFin Fl.bf16 0x8000 ∧ ¬ IsNan Fl.e4m3 0x7E) ∧
    (num Fl.f32 0x3F80_0000 + num Fl.f32 0xBF80_0000 = 0 ∧ num Fl.f32 0x3F80_0000 * num Fl.f32 0xC040_0000 = -3 ∧ num Fl.bf16 0x8000 = 0) ∧
    readFz Fl.f32 true 0x8000_0001 = 0x8000_0000 ∧ readFz Fl.f16 false 1 = 1 :=
  ⟨by decide +kernel, by decide +kernel, by decide +kernel, by decide +kernel, by decide +kernel⟩

theorem wit_SpecialAndConversionRules :
    (num Fl.f32 0x3F80_0000 = 1 ∧ num Fl.f32 0x4300_0000 = 128 ∧ num Fl.f32 0xC040_0000 < 0 ∧ num Fl.f16 0x3C00 = num Fl.f32 0x3F80_0000) ∧
    (Fmt.isInt (Checks.srcFmt { sc := 0x03 }) = true ∧ Fmt.isFloat (Checks.srcFmt { sc := 0x13 }) = true ∧ Fmt.is64 0x0B = true) ∧
    (Fmt.isAsym 0x21 = true ∧ Fmt.isA4 0x21 = true ∧ Fmt.isMx 0x28 = true) ∧
    (IsNan Fl.e4m3 0x7F ∧ IsInf Fl.e5m2 0x7C ∧ IsFin Fl.e2m1 0xF) ∧
    (¬ (2 ^ 24 ≤ 0x0F_3C00) ∧ 15 < 0x10_3C00 / 2 ^ 16 % 256) ∧
    (IsFin Fl.f16 0x3C00 ∧ num Fl.f16 0x3C00 ≠ 0 ∧ IsInf Fl.f16 0x7C00 ∧ num Fl.f16 0x8000 = 0) :=
  ⟨by decide +kernel, by decide +kernel, by decide +kernel, by decide +kernel, by decide +kernel, by decide +kernel⟩

end Sys2Proof.Tests
end

/-! PROOFS. O57: a step takes the first turn of the agenda, fetches and decodes the word of the party that it names, and is
exec of the instruction found. One rule for each of stepComposer, fetchComposer, fetchLane, withSources, runSlot and laneTurn
per case, and the statement assembled from them. -/

namespace Sys2Proof.Machine

open Sys2Proof

/-! ## The turn of a step -/

/-- A step takes the first turn of the agenda (log 1). -/
theorem step_of_agenda {s : State} {t : Turn} {rest : List Turn} (h : s.agenda = t :: rest) :
    step s = runTurn t { s with agenda := rest } := by
  simp [step, nextTurn, h]

theorem step_composer {s : State} {rest : List Turn} {d c : Nat} (h : s.agenda = .composer d c :: rest) :
    step s = stepComposer { s with agenda := rest, cur := .composer d c } d c := step_of_agenda h

theorem step_lane {s : State} {rest : List Turn} {d c g sl : Nat} (h : s.agenda = .lane d c g sl :: rest) :
    step s = stepLane { s with agenda := rest, cur := .lane d c g sl } d c g sl := step_of_agenda h

/-! ## A composer's turn -/

section Composer

variable {s : State} {d c : Nat} {t : Team}

theorem stepComposer_absent (ht : s.team? d c = none) : stepComposer s d c = .next s := by
  simp [stepComposer, ht]

theorem stepComposer_notReady (ht : s.team? d c = some t) (hr : compReady t = false) : stepComposer s d c = .next s := by
  simp [stepComposer, ht, hr]

theorem stepComposer_noPulse (ht : s.team? d c = some t) (hp : pulsePasses s (s.die d) c = false) :
    stepComposer s d c = .next s := by
  simp [stepComposer, ht, hp]

/-- A composer that moves executes what its fetch brings. -/
theorem stepComposer_of_instr {i : Instr} {s' : State} (ht : s.team? d c = some t) (hr : compReady t = true)
    (hp : pulsePasses s (s.die d) c = true) (hf : fetchComposer s d c t = .instr i s') : stepComposer s d c = exec i s' := by
  simp [stepComposer, ht, hr, hp, hf]

/-- A composer whose fetch faults has taken the fault. -/
theorem stepComposer_of_stop {s' : State} (ht : s.team? d c = some t) (hr : compReady t = true)
    (hp : pulsePasses s (s.die d) c = true) (hf : fetchComposer s d c t = .stop s') : stepComposer s d c = .next s' := by
  simp [stepComposer, ht, hr, hp, hf]

theorem decodeFetched_ok {w : Word32} {i : Instr} (h : decodeComposer w = .ok i) : decodeFetched s d c w = .instr i s := by
  simp [decodeFetched, h]

theorem decodeFetched_error {w : Word32} {e : DecodeError} (h : decodeComposer w = .error e) :
    decodeFetched s d c w = .stop (takeCompFault s d c { code := Code.GILLOP }) := by
  simp [decodeFetched, h]

/-- A line that the instruction cache holds is not read again (R88). -/
theorem fetchComposer_hit {v : Nat} (h : t.comp.icache.find? (t.comp.pc.toNat / 64) = some v) :
    fetchComposer s d c t = decodeFetched s d c (wordOfLine v t.comp.pc.toNat) := by
  simp [fetchComposer, h]

/-- An access whose translation is there and permitted goes on with the entry (R36). -/
theorem withEntry_of_ok {a : Access} {n va acc : Nat} {k : State → TlbEntry → CRes} {x : Die} {e : TlbEntry}
    (htr : translate (s.die d) c .composer t.comp.walkFail va = (x, .ok e)) (hd : denied x a n va e = none) :
    withEntry s d c t a n va acc k = k (s.updDie d fun _ => x) e := by
  simp [withEntry, htr, hd]

theorem find?_icachePut (m : SMap Nat) (line v : Nat) : (icachePut m line v).find? line = some v := by
  simp [icachePut, SMap.find?_insert]

/-- A line that the instruction cache lacks is read through its translation, and the cache then holds it (R88). -/
theorem fetchComposer_fill {x : Die} {e : TlbEntry} {s1 : State} {v : Nat} {t1 : Team}
    (hi : t.comp.icache.find? (t.comp.pc.toNat / 64) = none)
    (htr : translate (s.die d) c .composer t.comp.walkFail t.comp.pc.toNat = (x, .ok e))
    (hd : denied x .fetch 4 t.comp.pc.toNat e = none)
    (hv : readAt (s.updDie d fun _ => x) d (e.loc (t.comp.pc.toNat / 64 * 64)) 64
      (if e.leaf.peer then 2 else min 2 e.leaf.cache) = (s1, .ok v))
    (ht1 : s1.team? d c = some t1) :
    fetchComposer s d c t =
      decodeFetched (s1.updComp d c fun k => { k with icache := icachePut k.icache (t.comp.pc.toNat / 64) v }) d c
        (wordOfLine v t.comp.pc.toNat) := by
  simp only [fetchComposer, hi, withEntry_of_ok htr hd, hv]
  simp [ht1, find?_icachePut]

end Composer

/-! ## A PC slot's fetch -/

section Fetch

variable {s : State} {d c g sl : Nat} {t : Team} {x : Group}

theorem fetchLane_ranOff (h : (t.frameOf x).blockLen (x.slot sl).block ≤ (x.slot sl).word) :
    fetchLane s d c g sl t x = .stop (takeLaneFault s d c g sl { code := Code.BADTARGET }) := by
  simp [fetchLane, ranOff, h]

/-- ACCESS 0x63B of a frame-buffer word: kind 11, 8 bytes, space 6 (13 Table 13.2). -/
theorem fetchLane_badWord (hin : (x.slot sl).word < (t.frameOf x).blockLen (x.slot sl).block)
    (hb : Ram.fb (t.fbIndex x (x.slot sl).block (x.slot sl).word) ∈ t.bad) :
    fetchLane s d c g sl t x = .stop (takeLaneFault (reportUe s d) d c g sl { code := Code.UE, access := 0x63B }) := by
  simp [fetchLane, ranOff, Nat.not_le.mpr hin, badWord, hb, issueUe, accessOf]

theorem fetchLane_illop {n : Nat} (hin : (x.slot sl).word < (t.frameOf x).blockLen (x.slot sl).block)
    (hb : Ram.fb (t.fbIndex x (x.slot sl).block (x.slot sl).word) ∉ t.bad)
    (hw : decodeLane t.vregs (t.fb.get 0 (t.fbIndex x (x.slot sl).block (x.slot sl).word)) = .error (.illop n)) :
    fetchLane s d c g sl t x = .stop (takeLaneFault s d c g sl { code := Code.ILLOP, access := n }) := by
  simp only [fetchLane, ranOff, badWord, laneWord, hw]
  simp [Nat.not_le.mpr hin, hb]

theorem fetchLane_decoded {i : Instr} (hin : (x.slot sl).word < (t.frameOf x).blockLen (x.slot sl).block)
    (hb : Ram.fb (t.fbIndex x (x.slot sl).block (x.slot sl).word) ∉ t.bad)
    (hw : decodeLane t.vregs (t.fb.get 0 (t.fbIndex x (x.slot sl).block (x.slot sl).word)) = .ok i) :
    fetchLane s d c g sl t x = withSources s d c g sl t x i := by
  simp only [fetchLane, ranOff, badWord, laneWord, hw]
  simp [Nat.not_le.mpr hin, hb]

theorem withSources_of_correct {i : Instr} (h : badReads t g x i sl = 0) : withSources s d c g sl t x i = .instr i s := by
  simp [withSources, h]

/-- A fold each step of which keeps what it has answers what it began with. -/
theorem foldl_of_kept {α β : Type} {f : β → α → β} (h : ∀ b a, f b a = b) (l : List α) (b : β) : l.foldl f b = b := by
  induction l with
  | nil => rfl
  | cons a r ih => rw [List.foldl_cons, h, ih]

theorem badReads_of_good (h : t.bad = []) (i : Instr) : badReads t g x i sl = 0 := by
  have hreg (e : Nat × Nat) : t.badReg g e = false := by simp [Team.badReg, h]
  have hres (st : Nat) : badResidue t g i st = false := by
    unfold badResidue
    split <;> simp [h]
  have hany (st : Nat) : ((laneReads x (x.active sl) i st).any (t.badReg g) || badResidue t g i st) = false := by
    simp [hreg, hres]
  refine foldl_of_kept (fun m st => ?_) _ _
  rw [hany, Bool.and_false, if_neg Bool.false_ne_true]

/-- ACCESS 0x42A of a register: kind 10, 4 bytes, space 4 (13 Table 13.2). -/
theorem withSources_of_bad {i : Instr} (h : badReads t g x i sl ≠ 0) (ha : x.accessing = false)
    (hr : ((resReads i).isSome && residueBusy t g) = false) :
    withSources s d c g sl t x i =
      .stop (takeLaneFault (reportUe s d) d c g sl { code := Code.UE, access := 0x42A, mask := badReads t g x i sl }) := by
  have hbad : t.bad ≠ [] := fun hb => h (badReads_of_good hb i)
  simp only [withSources, decide_eq_false h, List.isEmpty_eq_false_iff.mpr hbad, ha, hr]
  rfl

end Fetch

/-! ## A PC slot's issue -/

section Issue

variable {v s' : State} {d c g sl : Nat} {t : Team} {x : Group} {i : Instr}

theorem with_cur_self {p : Agent} (h : v.cur = p) : { v with cur := p } = v := by
  subst h; rfl

theorem runSlot_notReady (ht : v.team? d c = some t) (hg : v.group? d c g = some x) (hr : laneReady t x sl = false) :
    runSlot v d c g sl = .next v := by
  simp [runSlot, ht, hg, hr]

variable (hc : v.cur = .lane d c g sl) (ht : v.team? d c = some t) (hg : v.group? d c g = some x)
  (hr : laneReady t x sl = true)

include hc ht hg hr

/-- A slot whose fetch faults has taken the fault. -/
theorem runSlot_of_stop (hf : fetchLane v d c g sl t x = .stop s') : runSlot v d c g sl = .next s' := by
  simp [runSlot, ht, hg, hr, with_cur_self hc, hf]

/-- An instruction that the scoreboard holds back passes (05 R148). -/
theorem runSlot_of_scoreboard (hf : fetchLane v d c g sl t x = .instr i v) (hs : scoreboard t g x sl i = true) :
    runSlot v d c g sl = .next v := by
  simp [runSlot, ht, hg, hr, with_cur_self hc, hf, hs]

/-- What follows an instruction is that the words it has replaced are correct again. -/
theorem runSlot_of_next (hf : fetchLane v d c g sl t x = .instr i v) (hs : scoreboard t g x sl i = false)
    (he : exec i v = .next s') : runSlot v d c g sl = .next (replacedWords t x d c g sl i s') := by
  simp [runSlot, ht, hg, hr, with_cur_self hc, hf, hs, he]

/-- Where the core holds no uncorrectable word, a slot whose word decodes, and that the scoreboard lets pass, is exec of it. -/
theorem runSlot_of_decoded (hin : (x.slot sl).word < (t.frameOf x).blockLen (x.slot sl).block) (hb : t.bad = [])
    (hw : decodeLane t.vregs (t.fb.get 0 (t.fbIndex x (x.slot sl).block (x.slot sl).word)) = .ok i)
    (hs : scoreboard t g x sl i = false) : runSlot v d c g sl = exec i v := by
  have hf : fetchLane v d c g sl t x = .instr i v :=
    (fetchLane_decoded hin (by simp [hb]) hw).trans (withSources_of_good hb v d c g sl x i)
  simp only [runSlot, ht, hg, hr, with_cur_self hc, hf, hs, replacedWords_of_good hb]
  cases exec i v <;> rfl

end Issue

/-! ## The party of the turn stays the same behind the refill of its core's cycle -/

section Agent

/-- A chain of operations none of which changes the party leaves it. -/
theorem foldl_cur {α : Type} {f : State → α → State} (h : ∀ s a, (f s a).cur = s.cur) (l : List α) (s : State) :
    (l.foldl f s).cur = s.cur := by
  induction l generalizing s with
  | nil => rfl
  | cons a r ih => rw [List.foldl_cons, ih, h]

theorem creditLink_cur (l : List Nat) (s : State) : (creditLink l s).1.cur = s.cur := by
  induction l generalizing s with
  | nil => rfl
  | cons k r ih =>
    simp only [creditLink]
    split
    · rfl
    · exact ih _

theorem forward_cur (s : State) (f : Flit) : (forward s f).cur = s.cur := by
  unfold forward
  split
  · rfl
  · dsimp only
    split <;> exact creditLink_cur _ s

theorem queueFlit_cur (s : State) (f : Flit) : (queueFlit s f).cur = s.cur :=
  foldl_cur forward_cur _ _

theorem postIntent_cur (s : State) (m : IntentMsg) : (postIntent s m).cur = s.cur :=
  foldl_cur (fun _ _ => queueFlit_cur _ _) _ _

theorem drawReached_cur (s : State) (d : Nat) : (drawReached s d).cur = s.cur := by
  simp only [drawReached]
  split
  · rfl
  · exact postIntent_cur _ _

theorem coreCycle_cur (s : State) (d c : Nat) : (coreCycle s d c).cur = s.cur := by
  unfold coreCycle
  split
  · rfl
  · dsimp only
    split
    · rfl
    · split
      · exact drawReached_cur _ d
      · rfl

theorem passBoundary_cur (s : State) (d c g p : Nat) (ready : List (Nat × Nat)) :
    (passBoundary s d c g p ready).cur = s.cur := rfl

end Agent

/-! ## A PC slot's turn -/

section Turn

variable {s s2 s3 : State} {d c g sl : Nat} {t : Team} {x : Group}

theorem stepLane_noPulse (hp : pulsePasses (coreCycle s d c) ((coreCycle s d c).die d) c = false) :
    stepLane s d c g sl = .next (coreCycle s d c) := by
  simp [stepLane, hp]

theorem stepLane_pulse (hp : pulsePasses (coreCycle s d c) ((coreCycle s d c).die d) c = true) :
    stepLane s d c g sl = laneTurn (coreCycle s d c) d c g sl := by
  simp [stepLane, hp]

theorem laneTurn_absent (hg : s.group? d c g = none) : laneTurn s d c g sl = .next s := by
  simp only [laneTurn, hg]
  cases s.team? d c <;> rfl

/-- The boundary at which a turn of a PC slot stands (R149). -/
def boundaryOf (t : Team) (g : Nat) : Nat := t.passNo.get 0 (laneOf g) + 1

/-- The other slot-PCs of the lane that would issue at the boundary of the turn. -/
def issuers (s : State) (t : Team) (d c g sl : Nat) : List (Nat × Nat) :=
  (rivals t g sl (boundaryOf t g)).filter (wouldIssue s d c)

variable (ht : s.team? d c = some t) (hg : s.group? d c g = some x)

include ht hg

theorem laneTurn_notReady (hr : maybeReady t (boundaryOf t g) (g, sl) = false) :
    laneTurn s d c g sl = .next (passBoundary s d c g (boundaryOf t g) (issuers s t d c g sl)) := by
  simp only [boundaryOf, issuers] at hr ⊢
  simp [laneTurn, ht, hg, hr]

/-- The turn of a slot that is ready, by what its issue answers: one that has issued gives way to a slot that goes before it. -/
theorem laneTurn_ready (hr : maybeReady t (boundaryOf t g) (g, sl) = true)
    (h2 : s2 = passBoundary s d c g (boundaryOf t g) ((g, sl) :: issuers s t d c g sl))
    (h3 : runSlot s2 d c g sl = .next s3) :
    laneTurn s d c g sl = .next
      (if hasIssued d c g s2 s3 = true then
        if (issuers s t d c g sl).any (fun o => goesBefore t o (g, sl)) = true then s2
        else rankGroup t x d c g sl (boundaryOf t g) s3
      else passBoundary s3 d c g (boundaryOf t g) (issuers s t d c g sl)) := by
  simp only [boundaryOf, issuers] at hr h2 ⊢
  simp only [laneTurn, ht, hg, ← h2, hr, h3]
  cases hasIssued d c g s2 s3 <;> rfl

end Turn

/-! ## The statement -/

/-- Settles O57, by the rules of the turns: a composer's turn by whether the instruction cache holds its line, a PC slot's turn by
what its issue answers, and the issue by what its fetch brings. -/
theorem stepRunsTheDecodedInstruction : Obligations.StepRunsTheDecodedInstruction := by
  intro s rest
  refine ⟨?composer, ?lane, ?slot, fun n h => step_of_agenda h, fun d i h => step_of_agenda h,
    fun d i j h => step_of_agenda h⟩
  case composer =>
    intro d c h
    rw [step_composer h]
    refine ⟨fun ht => stepComposer_absent ht, fun t ht => ⟨fun hr => stepComposer_notReady ht hr,
      fun _ hp => stepComposer_noPulse ht hp, fun hr hp => ⟨fun v hv => ⟨fun i hi => ?_, fun e he => ?_⟩, ?_⟩⟩⟩
    · exact stepComposer_of_instr ht hr hp ((fetchComposer_hit hv).trans (decodeFetched_ok hi))
    · exact stepComposer_of_stop ht hr hp ((fetchComposer_hit hv).trans (decodeFetched_error he))
    · intro hv x e htr hd s1 v t1 hread ht1 s2 i hi
      exact stepComposer_of_instr ht hr hp
        ((fetchComposer_fill (s := { s with agenda := rest, cur := .composer d c }) hv htr hd hread ht1).trans (decodeFetched_ok hi))
  case lane =>
    intro d c g sl h
    rw [step_lane h]
    intro s1
    refine ⟨fun hp => stepLane_noPulse hp, fun hg => ?_, fun t x hp ht hg => ?_⟩
    · cases hp : pulsePasses s1 (s1.die d) c with
      | false => exact stepLane_noPulse hp
      | true => exact (stepLane_pulse hp).trans (laneTurn_absent hg)
    · rw [stepLane_pulse hp]
      intro p others ready behind past s2
      have turn (hr : ready) (s3) (h3 : runSlot s2 d c g sl = .next s3) :
          laneTurn s1 d c g sl = .next (if hasIssued d c g s2 s3 = true then
            if behind then s2 else rankGroup t x d c g sl p s3 else passBoundary s3 d c g p others) :=
        laneTurn_ready ht hg hr rfl h3
      refine ⟨fun hr => laneTurn_notReady ht hg (Bool.eq_false_iff.mpr hr), turn, ?_⟩
      intro hr hb t2 x2 i s3 ht2 hg2 hr2 hin hw hgood hs he
      have hcur : s2.cur = .lane d c g sl := (passBoundary_cur s1 d c g p _).trans (coreCycle_cur _ d c)
      have h3 : runSlot s2 d c g sl = .next s3 := (runSlot_of_decoded hcur ht2 hg2 hr2 hin hgood hw hs).trans he
      rw [turn hr s3 h3, if_neg hb]
  case slot =>
    intro v d c g sl t x hc ht hg at_ w inside ue
    refine ⟨fun hr => runSlot_notReady ht hg hr,
      fun hr ho => runSlot_of_stop hc ht hg hr (fetchLane_ranOff ho),
      fun ⟨hr, hin⟩ hb => runSlot_of_stop hc ht hg hr (fetchLane_badWord hin hb),
      fun ⟨hr, hin⟩ hb n hw => runSlot_of_stop hc ht hg hr (fetchLane_illop hin hb hw),
      fun ⟨hr, hin⟩ hb i hw => ?_⟩
    have hf : fetchLane v d c g sl t x = withSources v d c g sl t x i := fetchLane_decoded hin hb hw
    have sound (hk : badReads t g x i sl = 0) := hf.trans (withSources_of_correct hk)
    exact ⟨fun hgood hs => runSlot_of_decoded hc ht hg hr hin hgood hw hs,
      fun hk hs s2 he => runSlot_of_next hc ht hg hr (sound hk) hs he,
      fun hk hs => runSlot_of_scoreboard hc ht hg hr (sound hk) hs,
      fun hk ha hres => runSlot_of_stop hc ht hg hr (hf.trans (withSources_of_bad hk ha hres))⟩

end Sys2Proof.Machine

/-! PROOFS. O35 fails: a store to local HBM runs the reports of merges that are still to come (`reportMerges`), and so records a
store error in a group of the storing team itself, where such a merge has dropped a contribution of that group. `Undisturbed`
asks nothing of `Die.mergeUe`, and a step can leave it filled: an entry of the watch table that fires reads its shape record, and
may end an episode, after `fireAll` has run its reports. -/

namespace Sys2Proof.Machine

open Sys2Proof

/-- A store of a composer to local HBM. -/
def hbmStore : Write := { party := .composer, loc := .hbm 64, kind := .store 4 5 }

/-- A team with that store in S. -/
def storingTeam : Team := { probeTeam with ts := [hbmStore] }

/-- The team stands on core 0 of die 0, which is being served, while die 1 has still to report a merge that has dropped a
contribution of the team's group 0 (13 R388). -/
def mergeUnreported : State :=
  { ((placeTeam State.reset storingTeam).updDie 1 fun x =>
      { x with mergeUe := [[(0, 0, storingTeam.key, .group 0)]] }) with
    cur := .service 0 }

theorem team?_mergeUnreported : mergeUnreported.team? 0 0 = some storingTeam := by decide +kernel

theorem mayLand_mergeUnreported : mayLand mergeUnreported 0 0 storingTeam 0 = true := by decide +kernel

/-- The die whose memory the store changes has no episode, no watch entry and no uncorrectable unit. -/
theorem undisturbed_mergeUnreported : Undisturbed mergeUnreported 0 where
  episodes := by decide +kernel
  watch    := by decide +kernel
  bad      := by decide +kernel
  badLlc   := by decide +kernel

/-- The store error that a group's next release takes (04 R139), in the state that a step answers. -/
def storeErrIn (d c g : Nat) : Host.Outcome State Fault Refusal → Option Nat
  | .next s => (s.group? d c g).bind (·.storeErr)
  | _ => none

/-- Performing the store runs the report of die 1, which leaves group 0 the error of its dropped contribution. -/
theorem storeErrIn_perform_mergeUnreported :
    storeErrIn 0 0 0 (exec (.eStorePerformed 0 (.perform 0)) mergeUnreported) = some Cause.UE := by decide +kernel

/-- Refutes O35: in `mergeUnreported` the composer's store to local HBM may be performed and its die is undisturbed, but the step
records UE as the store error of group 0, so that the groups of the team are not those it had. -/
theorem not_storesPerformed : ¬ Obligations.StoresPerformed := by
  unfold Obligations.StoresPerformed
  intro h
  obtain ⟨-, -, -, -, -, perform⟩ := h mergeUnreported 0 0 0 storingTeam hbmStore rfl team?_mergeUnreported
  obtain ⟨-, hbm, -⟩ := perform 64 4 5 rfl rfl
  obtain ⟨s', u, hexec, hteam, -, hgroups, -⟩ := hbm mayLand_mergeUnreported rfl undisturbed_mergeUnreported
  have kept : storeErrIn 0 0 0 (.next s') = none := by
    simp only [storeErrIn, State.group?, hteam, Option.bind_some, hgroups]
    rfl
  have changed : storeErrIn 0 0 0 (.next s') = some Cause.UE := hexec ▸ storeErrIn_perform_mergeUnreported
  exact nomatch kept.symm.trans changed

end Sys2Proof.Machine

/-! PROOFS. O28: a structured instruction steps the nesting counters of its slot's strands, or faults where one would pass 255, and
goes on at the next word or at its target. One rule for the step of the counters, one for each of the two kinds of effect, and the
function of each instruction as Table 5.4 has it. -/

namespace Sys2Proof.Machine

open Sys2Proof

/-! ## The nesting counters of a slot's strands (05 R161) -/

section Nesting

variable {s : State} {d c g sl : Nat} {t : Team} {x y : Group} {f : Nat → Nat → Nat} {t1 : Nat}

/-- A strand of the slot's mask, active or not. -/
abbrev InSlot (x : Group) (sl st : Nat) : Prop := st < 32 ∧ (x.slot sl).mask.getLsbD st = true

/-- The group `y` has the nesting counters that `F` gives to the strands of the slot's mask, and is `x` otherwise. -/
def Counted (x : Group) (sl : Nat) (F : Nat → Nat) (y : Group) : Prop :=
  y = { x with nest := y.nest } ∧
  ∀ st, st < 32 → (y.nestOf st).toNat = if (x.slot sl).mask.getLsbD st then F st else (x.nestOf st).toNat

theorem any_inSlot (p : Nat → Bool) :
    ((List.range 32).filter fun st => (x.slot sl).mask.getLsbD st).any p = true ↔ ∃ st, InSlot x sl st ∧ p st = true := by
  simp [and_assoc]

/-- What stands at a key once the keys of a list have been written. -/
theorem get_foldl_set {α : Type} [DecidableEq α] (z : α) (v : Nat → α) (l : List Nat) (m : SMap α) (k : Nat) :
    SMap.get z (l.foldl (fun m j => SMap.set z m j (v j)) m) k = if k ∈ l then v k else SMap.get z m k := by
  induction l generalizing m with
  | nil => simp
  | cons j r ih =>
    rw [List.foldl_cons, ih, SMap.get_set]
    by_cases hk : k = j <;> simp [hk]

/-- A counter that would pass 255 leaves every counter as it is. -/
theorem stepNest_none (h : ∃ st, InSlot x sl st ∧ 255 < f st (x.nestOf st).toNat) :
    stepNest (ctxOf d c g sl t x) f = none :=
  if_pos ((any_inSlot _).mpr (h.imp fun _ ⟨hst, hbig⟩ => ⟨hst, decide_eq_true hbig⟩))

/-- Where no counter would pass 255, those of the slot's strands are stepped. -/
theorem stepNest_some (h : ∀ st, InSlot x sl st → f st (x.nestOf st).toNat ≤ 255) :
    ∃ y, stepNest (ctxOf d c g sl t x) f = some y ∧ Counted x sl (fun st => f st (x.nestOf st).toNat) y := by
  have fits : ¬ ((List.range 32).filter fun st => (x.slot sl).mask.getLsbD st).any
      (fun st => decide (255 < f st (x.nestOf st).toNat)) = true := by
    rw [any_inSlot]
    rintro ⟨st, hst, hbig⟩
    exact absurd (of_decide_eq_true hbig) (Nat.not_lt.mpr (h st hst))
  refine ⟨_, if_neg fits, rfl, fun st hst => ?_⟩
  have hmem : st ∈ (List.range 32).filter (fun st => (x.slot sl).mask.getLsbD st) ↔ (x.slot sl).mask.getLsbD st = true := by
    simp [hst]
  simp only [Group.nestOf, get_foldl_set, ctxOf, hmem]
  split
  next hin => exact Nat.mod_eq_of_lt (Nat.lt_succ_of_le (h st ⟨hst, hin⟩))
  next => rfl

/-! ## The effect of a structured instruction -/

/-- A block that the frame has is entered. -/
theorem goTo_of_lt {b : Nat} (hb : b < (t.frameOf x).blocks) :
    (ctxOf d c g sl t x).goTo s y b = .moved (s.updGroup d c g fun _ => y.updSlot sl fun p => p.enter b) :=
  if_neg (Nat.not_le.mpr hb)

/-- A block that the frame lacks is not (06 R194). -/
theorem goTo_of_le {b : Nat} (hb : (t.frameOf x).blocks ≤ b) :
    (ctxOf d c g sl t x).goTo s y b = .fault { code := Code.BADTARGET } s :=
  if_pos hb

/-- A counter that would pass 255 faults NEST (R161). -/
theorem nestOnly_none (h : stepNest (ctxOf d c g sl t x) f = none) :
    nestOnly (ctxOf d c g sl t x) s f = .fault { code := Code.NEST } s := by
  rw [nestOnly, h]

theorem nestOnly_some (h : stepNest (ctxOf d c g sl t x) f = some y) :
    nestOnly (ctxOf d c g sl t x) s f = .done (s.updGroup d c g fun _ => y) := by
  rw [nestOnly, h]; rfl

theorem nestSkip_none (h : stepNest (ctxOf d c g sl t x) f = none) :
    nestSkip (ctxOf d c g sl t x) s t1 f = .fault { code := Code.NEST } s := by
  rw [nestSkip, h]

/-- With a skip target, the slot goes on at the next word while a strand of it is active. -/
theorem nestSkip_active (h : stepNest (ctxOf d c g sl t x) f = some y) (ha : y.active sl ≠ 0) :
    nestSkip (ctxOf d c g sl t x) s t1 f = .done (s.updGroup d c g fun _ => y) := by
  rw [nestSkip, h]; exact if_neg ha

/-- Where none is left active it goes to the skip target (R162). -/
theorem nestSkip_skips (h : stepNest (ctxOf d c g sl t x) f = some y) (ha : y.active sl = 0) :
    nestSkip (ctxOf d c g sl t x) s t1 f = (ctxOf d c g sl t x).goTo s y t1 := by
  rw [nestSkip, h]; exact if_pos ha

/-! ## The step that the effect leads to -/

/-- The step of an instruction that is charged entry 9 and whose effect answers `r`. -/
def controlStep (s : State) (d c g sl : Nat) (r : LRes) : Host.Outcome State Fault Refusal :=
  .next (laneOutcome s d c g sl .vector ((s.die d).priceOf 9) r)

/-- The step that puts the group `y` in place and goes on at the next word. -/
def slotPuts (s : State) (d c g sl : Nat) (y : Group) : Host.Outcome State Fault Refusal :=
  laneDone s (s.updGroup d c g fun _ => y) d c g sl .vector ((s.die d).priceOf 9)

/-- The step that puts the group `y` in place, its slot at block `b`. -/
def slotEnters (s : State) (d c g sl : Nat) (y : Group) (b : Nat) : Host.Outcome State Fault Refusal :=
  laneMoved s (s.updGroup d c g fun _ => y.updSlot sl fun p => p.enter b) d c g sl .vector ((s.die d).priceOf 9)

theorem controlStep_done (y : Group) :
    controlStep s d c g sl (.done (s.updGroup d c g fun _ => y)) = slotPuts s d c g sl y := rfl

theorem controlStep_fault (e : FaultInfo) : controlStep s d c g sl (.fault e s) = laneFaults s d c g sl e := rfl

theorem controlStep_goTo_of_lt {b : Nat} (hb : b < (t.frameOf x).blocks) :
    controlStep s d c g sl ((ctxOf d c g sl t x).goTo s y b) = slotEnters s d c g sl y b := by
  rw [goTo_of_lt hb]; rfl

theorem controlStep_goTo_of_le {b : Nat} (hb : (t.frameOf x).blocks ≤ b) :
    controlStep s d c g sl ((ctxOf d c g sl t x).goTo s y b) = laneFaults s d c g sl { code := Code.BADTARGET } := by
  rw [goTo_of_le hb, controlStep_fault]

/-- A structured instruction has its effect whether or not a strand is active (R294). -/
theorem execLane_structured (h : LaneAt s d c g sl t x .vector ((s.die d).priceOf 9)) (m : LaneCtx → State → LRes) :
    execLane structured 9 m s = controlStep s d c g sl (m (ctxOf d c g sl t x) s) :=
  execLaneWith_issue structured _ m s d c g sl t x h.cur h.team h.group h.ready (.inl rfl) (.inr rfl) h.paid

/-- An instruction with a skip target steps the counters, where each of them fits, and goes on by whether a strand is left
active. -/
theorem controlStep_nestSkip (h : ∀ st, InSlot x sl st → f st (x.nestOf st).toNat ≤ 255) :
    ∃ y, Counted x sl (fun st => f st (x.nestOf st).toNat) y ∧
      (y.active sl ≠ 0 → controlStep s d c g sl (nestSkip (ctxOf d c g sl t x) s t1 f) = slotPuts s d c g sl y) ∧
      (y.active sl = 0 → t1 < (t.frameOf x).blocks →
        controlStep s d c g sl (nestSkip (ctxOf d c g sl t x) s t1 f) = slotEnters s d c g sl y t1) ∧
      (y.active sl = 0 → (t.frameOf x).blocks ≤ t1 →
        controlStep s d c g sl (nestSkip (ctxOf d c g sl t x) s t1 f) = laneFaults s d c g sl { code := Code.BADTARGET }) := by
  obtain ⟨y, hy, hcount⟩ := stepNest_some (d := d) (c := c) (g := g) (t := t) h
  refine ⟨y, hcount, fun ha => ?_, fun ha hb => ?_, fun ha hb => ?_⟩
  · rw [nestSkip_active hy ha]; exact controlStep_done y
  · rw [nestSkip_skips hy ha]; exact controlStep_goTo_of_lt hb
  · rw [nestSkip_skips hy ha]; exact controlStep_goTo_of_le hb

/-- One without a skip target steps the counters and goes on at the next word. -/
theorem controlStep_nestOnly (h : ∀ st, InSlot x sl st → f st (x.nestOf st).toNat ≤ 255) :
    ∃ y, Counted x sl (fun st => f st (x.nestOf st).toNat) y ∧
      controlStep s d c g sl (nestOnly (ctxOf d c g sl t x) s f) = slotPuts s d c g sl y := by
  obtain ⟨y, hy, hcount⟩ := stepNest_some (d := d) (c := c) (g := g) (t := t) h
  exact ⟨y, hcount, by rw [nestOnly_some hy, controlStep_done]⟩

/-! ## The instructions of Table 5.4 -/

section Instructions

variable {o : COps} (h : LaneAt s d c g sl t x .vector ((s.die d).priceOf 9))

include h

theorem exec_if : exec (.lIf o) s = controlStep s d c g sl (nestSkip (ctxOf d c g sl t x) s o.t1.toNat fun st n =>
    if n = 0 then (if (ctxOf d c g sl t x).cond o st then 0 else 1) else n + 1) :=
  (execLane_structured h _ : execLIf o s = _)

theorem exec_else : exec (.lElse o) s = controlStep s d c g sl (nestSkip (ctxOf d c g sl t x) s o.t1.toNat fun _ n =>
    if n = 0 then 1 else if n = 1 then 0 else n) :=
  (execLane_structured h _ : execLElse o s = _)

theorem exec_endif : exec (.lEndif o) s = controlStep s d c g sl (nestOnly (ctxOf d c g sl t x) s fun _ n => n - 1) :=
  (execLane_structured h _ : execLEndif o s = _)

theorem exec_loop : exec (.lLoop o) s = controlStep s d c g sl (nestOnly (ctxOf d c g sl t x) s fun _ n =>
    if n = 0 then 0 else n + 2) :=
  (execLane_structured h _ : execLLoop o s = _)

theorem exec_break : exec (.lBreak o) s = controlStep s d c g sl (nestOnly (ctxOf d c g sl t x) s fun st n =>
    if n = 0 && (ctxOf d c g sl t x).cond o st then o.k.toNat + 2 else n) :=
  (execLane_structured h _ : execLBreak o s = _)

theorem exec_cont : exec (.lCont o) s = controlStep s d c g sl (nestOnly (ctxOf d c g sl t x) s fun st n =>
    if n = 0 && (ctxOf d c g sl t x).cond o st then o.k.toNat + 1 else n) :=
  (execLane_structured h _ : execLCont o s = _)

/-- ENDL with a strand that is to run again rejoins the continued strands and goes to its target (R161). -/
theorem exec_endl_again (hr : ∃ st, InSlot x sl st ∧ (x.nestOf st).toNat ≤ 1) :
    ∃ y, Counted x sl (fun st => if (x.nestOf st).toNat = 1 then 0 else (x.nestOf st).toNat) y ∧
      exec (.lEndl o) s = controlStep s d c g sl ((ctxOf d c g sl t x).goTo s y o.t1.toNat) := by
  have runs := (any_inSlot (x := x) (sl := sl) fun st => decide ((x.nestOf st).toNat ≤ 1)).mpr
    (hr.imp fun _ ⟨hst, hle⟩ => ⟨hst, decide_eq_true hle⟩)
  have fits (st : Nat) : (if (x.nestOf st).toNat = 1 then 0 else (x.nestOf st).toNat) ≤ 255 := by
    split <;> omega
  obtain ⟨y, hy, hcount⟩ := stepNest_some (d := d) (c := c) (g := g) (t := t) (x := x) (sl := sl)
    (f := fun _ n => if n = 1 then 0 else n) fun st _ => fits st
  refine ⟨y, hcount, ?_⟩
  change execLEndl o s = _
  rw [execLEndl, execLane_structured h]
  refine congrArg (controlStep s d c g sl) ((if_pos runs).trans ?_)
  rw [hy]

/-- ENDL with no such strand finishes the loop. -/
theorem exec_endl_ends (hr : ¬ ∃ st, InSlot x sl st ∧ (x.nestOf st).toNat ≤ 1) :
    exec (.lEndl o) s = controlStep s d c g sl (nestOnly (ctxOf d c g sl t x) s fun _ n => n - 2) := by
  have ends : ¬ ((List.range 32).filter fun st => (x.slot sl).mask.getLsbD st).any
      (fun st => decide ((x.nestOf st).toNat ≤ 1)) = true := by
    rw [any_inSlot]
    exact fun ⟨st, hst, hle⟩ => hr ⟨st, hst, of_decide_eq_true hle⟩
  change execLEndl o s = _
  rw [execLEndl, execLane_structured h]
  exact congrArg (controlStep s d c g sl) (if_neg ends)

end Instructions

end Nesting

/-! ## The statement -/

/-- Settles O28, by what IF and ELSE, and what the instructions without a skip target, do for any step of the counters; of ENDL by
whether a strand is to run again. -/
theorem structuredNesting : Obligations.StructuredNesting := by
  intro s d c g sl t x o h price blocks mine n condOf runs counted puts enters skipping straight overflows ifF elseF loopF
    breakF contF
  have skips {i f F} (hi : exec i s = controlStep s d c g sl (nestSkip (ctxOf d c g sl t x) s o.t1.toNat f))
      (hF : ∀ st, f st (n st) = F st) : skipping i F ∧ overflows i F := by
    obtain rfl : (fun st => f st (n st)) = F := funext hF
    exact ⟨fun hle => hi ▸ controlStep_nestSkip hle,
      fun hbig => by rw [hi, nestSkip_none (stepNest_none hbig), controlStep_fault]⟩
  have goesOn {i f F} (hi : exec i s = controlStep s d c g sl (nestOnly (ctxOf d c g sl t x) s f))
      (hF : ∀ st, f st (n st) = F st) : straight i F ∧ overflows i F := by
    obtain rfl : (fun st => f st (n st)) = F := funext hF
    exact ⟨fun hle => hi ▸ controlStep_nestOnly hle,
      fun hbig => by rw [hi, nestOnly_none (stepNest_none hbig), controlStep_fault]⟩
  have cond (st : Nat) (a : Nat) :
      (if n st = 0 && (ctxOf d c g sl t x).cond o st then a else n st) = if n st = 0 ∧ condOf st = true then a else n st := by
    simp only [Bool.and_eq_true, decide_eq_true_eq]; rfl
  obtain ⟨ifSkips, ifFaults⟩ := skips (F := ifF) (exec_if h) fun _ => rfl
  obtain ⟨elseSkips, -⟩ := skips (F := elseF) (exec_else h) fun _ => rfl
  obtain ⟨endif, -⟩ := goesOn (F := fun st => n st - 1) (exec_endif h) fun _ => rfl
  obtain ⟨loop, loopFaults⟩ := goesOn (F := loopF) (exec_loop h) fun _ => rfl
  obtain ⟨brk, brkFaults⟩ := goesOn (F := breakF) (exec_break h) fun st => cond st _
  obtain ⟨cont, contFaults⟩ := goesOn (F := contF) (exec_cont h) fun st => cond st _
  refine ⟨ifSkips, ifFaults, elseSkips, endif, loop, loopFaults, brk, brkFaults, cont, contFaults,
    fun hr hb => ?again, fun hr hb => ?lacks, fun hr => ?ends⟩
  case again =>
    obtain ⟨y, hcount, step⟩ := exec_endl_again (o := o) h hr
    exact ⟨y, hcount, step.trans (controlStep_goTo_of_lt hb)⟩
  case lacks =>
    obtain ⟨y, -, step⟩ := exec_endl_again (o := o) h hr
    exact step.trans (controlStep_goTo_of_le hb)
  case ends => exact (goesOn (exec_endl_ends h hr) fun _ => rfl).1

end Sys2Proof.Machine

/-! PROOFS. O47: the state that each of TEMPLATE_IMAGE_LOAD, TEAM_START, HAWKER_FETCH_SERVE and TEAM_RETIRE answers, and what its
teams and launches are. -/

namespace Sys2Proof.Machine

open Sys2Proof

/-! ## Launches and teams of a die after an update -/

section Launches

variable {s : State} {d c e : Nat} {k : LKey} {l : Launch} {x : Die}

theorem launch?_key (h : x.launch? k = some l) : l.key = k :=
  of_decide_eq_true (List.find?_some (p := fun l : Launch => decide (l.key = k)) h)

/-- A launch after an update of it that keeps its key. -/
theorem launch?_updLaunch {f : Launch → Launch} (h : x.launch? k = some l) (hf : ∀ m : Launch, m.key = k → (f m).key = k) :
    (x.updLaunch k f).launch? k = some (f l) := by
  have key (m : Launch) : decide ((if m.key = k then f m else m).key = k) = decide (m.key = k) := by
    by_cases hm : m.key = k
    · simp [hm, hf m hm]
    · simp [hm]
  have found : x.launches.find? (fun m => decide (m.key = k)) = some l := h
  simp only [Die.launch?, Die.updLaunch, List.find?_map, Function.comp_def, key, found, Option.map_some,
    launch?_key h, if_true]

/-- A launch stands only on a die of the package. -/
theorem lt_of_launch (h : (s.die d).launch? k = some l) : d < s.dies.length := by
  refine Decidable.byContradiction fun hd => ?_
  simp [State.die, Die.launch?, List.getD_eq_getElem?_getD, hd] at h

/-- The teams of a die after an update of it. -/
theorem team?_updDie_same (hd : d < s.dies.length) (f : Die → Die) :
    (s.updDie d f).team? d c = (f (s.die d)).teams.find? c := by
  simp [State.team?, hd]

/-- An update of a team leaves the launches of every die. -/
theorem updTeam_launches (f : Team → Team) : ((s.updTeam d c f).die e).launches = (s.die e).launches := by
  rw [State.updTeam, die_updDie]
  split
  next h =>
    obtain ⟨rfl, -⟩ := h
    split <;> rfl
  next => rfl

theorem updTeam_launch? (f : Team → Team) : ((s.updTeam d c f).die e).launch? k = (s.die e).launch? k := by
  simp only [Die.launch?, updTeam_launches]

theorem team?_updLaunchAt (f : Launch → Launch) : (updLaunchAt s d k f).team? e c = s.team? e c :=
  team?_updDie_of_teams s d e c (fun x => x.updLaunch k f) fun _ => rfl

theorem execEvent_of_cur (m : Nat → State → State) (hc : s.cur = .service d) : execEvent m s = .next (m d s) := by
  simp [execEvent, hc]

end Launches

/-! ## TEMPLATE_IMAGE_LOAD -/

section Image

variable {s s1 : State} {d v : Nat} {k : LKey} {l : Launch}

theorem exec_templateImageLoad (hc : s.cur = .service d) (hl : (s.die d).launch? k = some l) (hst : l.st = .started)
    (hread : rangeRead translateDie d (Pkt.tmpl l.pkt) (64 * Pkt.tmpl64 l.pkt) s = (s1, .ok v)) :
    exec (.eTemplateImageLoad k) s = .next (updLaunchAt s1 d k fun m =>
      { m with st := .loaded, image := Mem.write [] 0 (64 * Pkt.tmpl64 l.pkt) v }) := by
  change execETemplateImageLoad k s = _
  simp [execETemplateImageLoad, execEvent_of_cur _ hc, hl, hst, hread]

end Image

/-! ## TEAM_START -/

section Start

variable {s : State} {d c : Nat} {k : LKey} {l : Launch}

/-- The state once the launch has its team on core `c`. -/
def teamStarted (s : State) (d c : Nat) (k : LKey) (l : Launch) : State :=
  (updLaunchAt s d k fun m =>
    { m with st := .running, teams := m.teams.map fun t => if t.core = c then { t with started := true } else t }).updDie d
    fun y => { y with teams := y.teams.insert c (freshTeam k l.pkt l.image) }

theorem exec_teamStart (hc : s.cur = .service d) (hl : (s.die d).launch? k = some l)
    (hst : l.st = .loaded ∨ l.st = .running)
    (hgate : rectGated (s.die d) l.pkt = false) (hfree : s.team? d c = none)
    (hdue : ∃ t ∈ l.teams, t.core = c ∧ t.started = false) :
    exec (.eTeamStart c k) s = .next (teamStarted s d c k l) := by
  have due : (l.teams.any fun t => decide (t.core = c) && !t.started) = true := by simpa [and_assoc] using hdue
  have stage : (decide (l.st ≠ .loaded) && decide (l.st ≠ .running)) = false := by
    rcases hst with h | h <;> simp [h]
  change execETeamStart c k s = _
  simp only [execETeamStart, execEvent_of_cur _ hc, hl, stage, hgate, hfree, due]
  rfl

theorem team?_teamStarted (hd : d < s.dies.length) (e : Nat) :
    (teamStarted s d c k l).team? d e = if e = c then some (freshTeam k l.pkt l.image) else s.team? d e := by
  rw [teamStarted, team?_updDie_same (by simpa [updLaunchAt] using hd), SMap.find?_insert]
  simp [updLaunchAt, hd, Die.updLaunch, State.team?]

theorem teamStarted_hbm (hd : d < s.dies.length) : ((teamStarted s d c k l).die d).hbm = (s.die d).hbm := by
  simp [teamStarted, updLaunchAt, hd, Die.updLaunch]

end Start

/-! ## TEAM_RETIRE -/

section Retire

variable {s : State} {d c : Nat} {k : LKey} {t : Team} {l : Launch} {x : Die}

theorem returnBucket_team?_of_ne {e : Nat} (he : e ≠ c) : (returnBucket s d c).team? d e = s.team? d e := by
  unfold returnBucket
  split
  next => rfl
  next => rw [team?_updTeam, if_neg fun h => he h.2]; exact team?_updDie_of_teams s d d e _ fun _ => rfl

theorem returnBucket_launches : ((returnBucket s d c).die d).launches = (s.die d).launches := by
  unfold returnBucket
  split
  next => rfl
  next => rw [updTeam_launches, State.updPower, die_updDie]; split <;> simp_all

theorem returnBucket_length : (returnBucket s d c).dies.length = s.dies.length := by
  unfold returnBucket
  split
  next => rfl
  next => rw [State.updTeam, dies_length_updDie, State.updPower, dies_length_updDie]

/-- Only the team of its core is gone (R151). -/
theorem dropTeam_team? (hd : d < s.dies.length) (e : Nat) :
    (dropTeam s d c).team? d e = if e = c then none else s.team? d e := by
  rw [dropTeam, team?_updDie_same (returnBucket_length.symm ▸ hd), SMap.find?_erase]
  split
  next => rfl
  next he => exact returnBucket_team?_of_ne he

theorem dropTeam_launch? : ((dropTeam s d c).die d).launch? k = (s.die d).launch? k := by
  have launches : ((dropTeam s d c).die d).launches = (s.die d).launches := by
    rw [dropTeam, die_updDie]
    split <;> exact returnBucket_launches
  simp only [Die.launch?, launches]

theorem keepTeam_of_collected (h : t.uncollected = []) : l.keepTeam c t = l := by
  rw [Launch.keepTeam, h]; rfl

/-- The teams of a launch once that of core `c` has retired. -/
def retiredTeams (l : Launch) (c : Nat) : List TeamStat :=
  l.teams.map fun e => if e.core = c then { e with trig := true, retired := true } else e

theorem markRetired_launch? (h : x.launch? k = some l) :
    (markRetired x k c).launch? k = some { l with teams := retiredTeams l c } :=
  launch?_updLaunch h fun _ hm => hm

/-- The state once the team of core `c` has left it, while other teams of its launch are left. -/
def teamRetired (s : State) (d c : Nat) (t : Team) : State :=
  (dropTeam (updLaunchAt s d t.key fun l => l.keepTeam c t) d c).updDie d fun x => markRetired x t.key c

theorem team?_teamRetired (hd : d < s.dies.length) (e : Nat) :
    (teamRetired s d c t).team? d e = if e = c then none else s.team? d e := by
  have counted : (teamRetired s d c t).team? d e = (dropTeam (updLaunchAt s d t.key fun l => l.keepTeam c t) d c).team? d e :=
    team?_updDie_of_teams _ d d e _ fun _ => rfl
  rw [counted, dropTeam_team? (by simpa [updLaunchAt] using hd), team?_updLaunchAt]

theorem launch?_teamRetired (hl : (s.die d).launch? k = some l) (hk : t.key = k) (hu : t.uncollected = []) :
    ((teamRetired s d c t).die d).launch? k = some { l with teams := retiredTeams l c } := by
  subst hk
  have hd := lt_of_launch hl
  have kept : ((dropTeam (updLaunchAt s d t.key fun l => l.keepTeam c t) d c).die d).launch? t.key = some l := by
    rw [dropTeam_launch?, updLaunchAt, die_updDie, if_pos ⟨rfl, hd⟩,
      launch?_updLaunch hl fun m hm => by rw [keepTeam_of_collected hu, hm], keepTeam_of_collected hu]
  have hd' := lt_of_launch kept
  rw [teamRetired, die_updDie, if_pos ⟨rfl, hd'⟩]
  exact markRetired_launch? kept

theorem exec_teamRetire (hc : s.cur = .service d) (ht : s.team? d c = some t) (hm : mayRetire s d c t = true)
    (hl : ((teamRetired s d c t).die d).launch? t.key = some l) (hall : l.teams.all (·.retired) = false) :
    exec (.eTeamRetire c) s = .next (teamRetired s d c t) := by
  change execETeamRetire c s = _
  rw [teamRetired] at hl ⊢
  simp only [execETeamRetire, execEvent_of_cur _ hc, ht, hm, hl, hall]
  rfl

end Retire

/-! ## HAWKER_FETCH_SERVE -/

section Hawker

variable {s : State} {d c : Nat} {k : LKey} {t : Team} {l : Launch} {x : Die} {r : BitVec 5}

/-- Items of a DYNAMIC launch are handed out in order, each once (R158). -/
theorem nextItem_dynamic (h : Pkt.hmode l.pkt = 0) :
    nextItem x l c = if l.next < items l.pkt then (some l.next, { l with next := l.next + 1 }) else (none, l) := by
  simp [nextItem, dealMode, h]

/-- What a fetch of a DYNAMIC index-space launch receives: the coordinate of the next item, or DONE. -/
def fetchedWord (l : Launch) : Nat := if l.next < items l.pkt then coordWord l.pkt l.next else 2 ^ 63

/-- The launch behind that fetch. -/
def afterFetch (l : Launch) : Launch := { l with next := if l.next < items l.pkt then l.next + 1 else l.next }

/-- The composer behind its WFETCH, the word in its register. -/
def fetchDone (t : Team) (r : BitVec 5) (w : Nat) : Composer :=
  { ({ t.comp with wait := .none }.setReg r (BitVec.ofNat 64 w)) with pc := t.comp.pc + 4, walkFail := [] }

/-- A composer that is not stepped goes on at the next word with what its WFETCH has brought. -/
theorem fetch_completes (w : Nat) (ht : s.team? d c = some t) (hd : t.comp.dbgStep = false) :
    compStepped (setPc (s.updComp d c fun k => { k with wait := .none }.setReg r (BitVec.ofNat 64 w)) d c (t.comp.pc + 4)) d c =
      s.updTeam d c fun _ => { t with comp := fetchDone t r w } := by
  have e : setPc (s.updComp d c fun k => { k with wait := .none }.setReg r (BitVec.ofNat 64 w)) d c (t.comp.pc + 4) =
      s.updTeam d c fun _ => { t with comp := fetchDone t r w } := by
    rw [setPc, updComp_eq, updComp_eq, updTeam_updTeam]
    exact updTeam_congr s d c t _ _ ht rfl
  rw [e]
  simp [compStepped, ht, fetchDone, hd]

theorem answerFetch_dynamic (hh : Pkt.hmode l.pkt = 0) (ht : s.team? d c = some t) (hd : t.comp.dbgStep = false) :
    answerFetch s d c r t l =
      (updLaunchAt s d l.key fun _ => afterFetch l).updTeam d c fun _ => { t with comp := fetchDone t r (fetchedWord l) } := by
  have list : listMode l.pkt = false := by simp [listMode, hh]
  have kept (f : Launch → Launch) : (updLaunchAt s d l.key f).team? d c = some t :=
    (team?_updLaunchAt f).trans ht
  unfold answerFetch
  rw [nextItem_dynamic hh, list, afterFetch, fetchedWord]
  split
  next => simp only [Bool.false_eq_true, if_false]; exact fetch_completes _ (kept _) hd
  next => simp only [Bool.false_eq_true, if_false]; exact fetch_completes _ (kept _) hd

theorem exec_hawkerFetchServe {a : Nat} (hc : s.cur = .service d) (hf : firstFetch (fetches s d) = some (a, c, r))
    (ht : s.team? d c = some t) (hl : (s.die d).launch? t.key = some l) :
    exec .eHawkerFetchServe s = .next (answerFetch s d c r t l) := by
  change execEHawkerFetchServe s = _
  simp only [execEHawkerFetchServe, execEvent_of_cur _ hc, hf, ht, hl]

theorem launch?_afterFetch (hl : (s.die d).launch? k = some l) (f : Team → Team) :
    (((updLaunchAt s d k fun _ => afterFetch l).updTeam d c f).die d).launch? k = some (afterFetch l) := by
  rw [updTeam_launch?, updLaunchAt, die_updDie, if_pos ⟨rfl, lt_of_launch hl⟩]
  exact launch?_updLaunch (f := fun _ => afterFetch l) hl fun _ _ => (launch?_key hl : l.key = k)

end Hawker

/-! ## The statement -/

/-- Settles O47, by the state that each of the four events answers. -/
theorem launchLife : Obligations.LaunchLife := by
  intro s d c k l hc hl
  have hd := lt_of_launch hl
  refine ⟨fun hst s1 v hread => exec_templateImageLoad hc hl hst hread, fun hst hgate hfree hdue => ?start,
    fun r a t hf ht hk hlk hh hdbg hrun hr => ?fetch, fun t ht hk hm hu hleft => ?retire⟩
  case start =>
    have team := team?_teamStarted (c := c) (k := k) (l := l) hd
    exact ⟨_, freshTeam k l.pkt l.image, exec_teamStart hc hl hst hgate hfree hdue, (team c).trans (if_pos rfl),
      fun e he => (team e).trans (if_neg he), rfl, rfl, rfl, fun r => by simp [freshTeam, Composer.reg, SMap.get], rfl, rfl, rfl, rfl,
      teamStarted_hbm hd⟩
  case fetch =>
    subst hk
    intro w
    have team : ((updLaunchAt s d t.key fun _ => afterFetch l).updTeam d c fun _ =>
        { t with comp := fetchDone t r w }).team? d c = some { t with comp := fetchDone t r w } := by
      simp [team?_updLaunchAt, ht]
    have read (q : BitVec 5) : (fetchDone t r w).reg q = if q = r ∧ r ≠ 0 then BitVec.ofNat 64 w else t.comp.reg q :=
      reg_setReg { t.comp with wait := .none } r q _
    have step := (exec_hawkerFetchServe hc hf ht hl).trans (congrArg _ (answerFetch_dynamic hh ht hdbg))
    rw [hlk] at step
    refine ⟨_, _, step, team, setReg_wait _ _ _, rfl, (read r).trans (if_pos ⟨rfl, hr⟩),
      fun q hq => (read q).trans (if_neg fun h => hq h.1), ?_⟩
    rw [launch?_afterFetch hl]; rfl
  case retire =>
    subst hk
    have team := team?_teamRetired (c := c) (t := t) hd
    have launch := launch?_teamRetired (c := c) hl rfl hu
    have left : ({ l with teams := retiredTeams l c } : Launch).teams.all (·.retired) = false := by
      obtain ⟨e, he, hcore, hret⟩ := hleft
      rw [List.all_eq_false]
      exact ⟨e, List.mem_map.mpr ⟨e, he, if_neg hcore⟩, by simp [hret]⟩
    refine ⟨_, exec_teamRetire hc ht hm launch left, (team c).trans (if_pos rfl),
      fun e he => (team e).trans (if_neg he), ?_⟩
    rw [launch]; rfl

end Sys2Proof.Machine

/-! PROOFS. O55 fails: a group that goes idle in the step of a lane instruction loses its record of a faulted access. -/

namespace Sys2Proof.Machine

open Sys2Proof

/-- A running group whose last strands have exited, with a record of a faulted access. -/
def emptiedGroup : Group := { st := .running, heldFrom := some 3 }

/-- Its team. -/
def emptiedTeam : Team := { probeTeam with groups := [emptiedGroup] }

/-- The team stands on core 0 of die 0. -/
def emptiedState : State := placeTeam State.reset emptiedTeam

theorem team?_emptiedState : emptiedState.team? 0 0 = some emptiedTeam := by decide +kernel

theorem group?_emptiedState : emptiedState.group? 0 0 0 = some emptiedGroup := by decide +kernel

/-- The record of group 0 of core 0 of die 0, in the state that a step answers. -/
def heldFromIn : Host.Outcome State Fault Refusal → Option Nat
  | .next s => (s.group? 0 0 0).bind (·.heldFrom)
  | _ => none

/-- The step in which the group ends takes the record away: `idleGroup` empties it with the PC slots. -/
theorem heldFromIn_laneMoved_emptiedState :
    heldFromIn (laneMoved emptiedState emptiedState 0 0 0 0 .vector 0) = none := by decide +kernel

/-- Refutes O55: `GroupKept` names the record `heldFrom` of a faulted access among what the step of a lane instruction leaves, but a
group that goes idle in that step loses it (`idleGroup`). The group of `emptiedState` runs with such a record and has no strand left.
The steps of the model set the record only where they stop the group, and take it away where the group runs again; the statement
lacks the hypothesis that a running group has none. -/
theorem not_laneStepFrame : ¬ Obligations.LaneStepFrame := by
  unfold Obligations.LaneStepFrame
  rintro ⟨frame, -⟩
  obtain ⟨-, -, -, y, hy, -, -, -, -, -, kept⟩ := frame emptiedState emptiedState 0 0 0 0 .vector 0 emptiedTeam emptiedGroup
    team?_emptiedState group?_emptiedState _ (.inr rfl)
  have lost := heldFromIn_laneMoved_emptiedState
  rw [laneMoved, heldFromIn, hy, Option.bind_some, kept.heldFrom] at lost
  exact nomatch lost

end Sys2Proof.Machine

/-! PROOFS. O59: `Laws/PerInstr.lean` has one law of coding per instruction, and no word encodes an event; so decoding gives back
what was encoded. -/

namespace Sys2Proof.Laws.Coding

open Sys2Proof

/-- The law of coding holds of every instruction: each kind by the law of its name, an event because it is not well-formed. -/
theorem statement_holds (i : Instr) : Statement i := by
  cases i with
  -- composer ALU group
  | cAdd d a b => exact cAdd d a b | cSub d a b => exact cSub d a b | cMul d a b => exact cMul d a b
  | cMulh d a b => exact cMulh d a b | cDivu d a b => exact cDivu d a b | cRemu d a b => exact cRemu d a b
  | cAnd d a b => exact cAnd d a b | cOr d a b => exact cOr d a b | cXor d a b => exact cXor d a b
  | cShl d a b => exact cShl d a b | cShr d a b => exact cShr d a b | cSra d a b => exact cSra d a b
  | cSlt d a b => exact cSlt d a b | cSltu d a b => exact cSltu d a b | cMin d a b => exact cMin d a b
  | cMax d a b => exact cMax d a b | cAddi d a i => exact cAddi d a i | cAndi d a i => exact cAndi d a i
  | cOri d a i => exact cOri d a i | cXori d a i => exact cXori d a i | cShli d a n => exact cShli d a n
  | cShri d a n => exact cShri d a n | cSrai d a n => exact cSrai d a n | cSlti d a i => exact cSlti d a i
  | cLui d i => exact cLui d i | cInsf d a l p => exact cInsf d a l p | cExtf d a l p => exact cExtf d a l p
  -- composer memory
  | cLd d a z s o => exact cLd d a z s o | cSt d a z s o => exact cSt d a z s o
  | cAmo d a b o s z r c => exact cAmo d a b o s z r c | cFence k c => exact cFence k c
  -- composer branches
  | cBeq a b o => exact cBeq a b o | cBne a b o => exact cBne a b o | cBlt a b o => exact cBlt a b o
  | cBge a b o => exact cBge a b o | cBltu a b o => exact cBltu a b o | cBgeu a b o => exact cBgeu a b o
  | cJal d o => exact cJal d o | cJalr d a i => exact cJalr d a i
  -- composer events and ends
  | cEvwait d => exact cEvwait d | cBrkc i => exact cBrkc i
  -- emission
  | cEmit a => exact cEmit a | cEmitt a b c => exact cEmitt a b c | cEmitb a b => exact cEmitb a b
  | cEmitr a b c => exact cEmitr a b c | cEmith a => exact cEmith a | cSeal d => exact cSeal d
  -- groups and frames
  | cRun a b => exact cRun a b | cWaitf a b => exact cWaitf a b | cFree a => exact cFree a
  | cGctlStop a => exact cGctlStop a | cGctlResume a => exact cGctlResume a | cGctlStep a => exact cGctlStep a
  | cGctlKill a => exact cGctlKill a
  -- work, shapes, dependences, special registers
  | cWfetch d => exact cWfetch d | cMkshp d a => exact cMkshp d a | cMfs d s => exact cMfs d s
  | cMts a s => exact cMts a s
  -- lane integer instructions
  | lIadd o => exact lIadd o | lIsub o => exact lIsub o | lImul o => exact lImul o | lImulh o => exact lImulh o
  | lImad o => exact lImad o | lImin o => exact lImin o | lImax o => exact lImax o | lIabs o => exact lIabs o
  | lIdot4 o => exact lIdot4 o | lAnd o => exact lAnd o | lOr o => exact lOr o | lXor o => exact lXor o
  | lAndn o => exact lAndn o | lNot o => exact lNot o | lShl o => exact lShl o | lShr o => exact lShr o
  | lSha o => exact lSha o | lRotl o => exact lRotl o | lPopc o => exact lPopc o | lClz o => exact lClz o
  | lBrev o => exact lBrev o | lBfe o => exact lBfe o | lBfi o => exact lBfi o | lIcmp o => exact lIcmp o
  | lSel o => exact lSel o | lWform op o => exact lWform op o
  -- lane floating point
  | lFadd o => exact lFadd o | lFsub o => exact lFsub o | lFmul o => exact lFmul o | lFfma o => exact lFfma o
  | lFmin o => exact lFmin o | lFmax o => exact lFmax o | lFcmp o => exact lFcmp o | lFclass o => exact lFclass o
  | lFscale o => exact lFscale o | lFrnd o => exact lFrnd o | lFrcp o => exact lFrcp o | lFrsq o => exact lFrsq o
  | lFsqrt o => exact lFsqrt o | lFexp2 o => exact lFexp2 o | lFlog2 o => exact lFlog2 o | lFsin o => exact lFsin o
  | lFcos o => exact lFcos o | lFtanh o => exact lFtanh o | lFsigm o => exact lFsigm o
  -- lane conversion
  | lCvt o => exact lCvt o | lCvtn o => exact lCvtn o | lCvtw o => exact lCvtw o | lDq o => exact lDq o
  | lQz o => exact lQz o | lEfclr o => exact lEfclr o | lEfmov o => exact lEfmov o
  -- moves, masked operations, index registers
  | lMov o => exact lMov o | lMovi o => exact lMovi o | lWmov o => exact lWmov o | lPrmt o => exact lPrmt o
  | lShfl o => exact lShfl o | lVote o => exact lVote o | lGred o => exact lGred o | lXset o => exact lXset o
  | lXadd o => exact lXadd o | lXld o => exact lXld o | lXst o => exact lXst o
  -- lane memory
  | lLd n o => exact lLd n o | lSt n o => exact lSt n o | lLds n o => exact lLds n o | lSts n o => exact lSts n o
  | lFeopSetf o => exact lFeopSetf o | lFeopSete o => exact lFeopSete o | lFeopRdf o => exact lFeopRdf o
  | lAtom o => exact lAtom o | lRed o => exact lRed o | lRedCu o => exact lRedCu o | lPref o => exact lPref o
  | lFence o => exact lFence o
  -- lane synchronisation
  | lSync o => exact lSync o | lRvinit o => exact lRvinit o | lArrive o => exact lArrive o
  | lWait o => exact lWait o | lRarrive o => exact lRarrive o | lSpana o => exact lSpana o
  | lSpanw o => exact lSpanw o
  -- lane control
  | lBra o => exact lBra o | lBrx o => exact lBrx o | lCall o => exact lCall o | lRet o => exact lRet o
  | lIf o => exact lIf o | lElse o => exact lElse o | lEndif o => exact lEndif o | lLoop o => exact lLoop o
  | lBreak o => exact lBreak o | lCont o => exact lCont o | lEndl o => exact lEndl o | lExit o => exact lExit o
  | lYield o => exact lYield o | lNop o => exact lNop o
  -- lane system
  | lTfence o => exact lTfence o | lTrap o => exact lTrap o | lBrk o => exact lBrk o | lRds o => exact lRds o
  | lWrs o => exact lWrs o
  -- matrix, copy and collective
  | lMma o => exact lMma o | lMloop o => exact lMloop o | lMbatch o => exact lMbatch o | lMwait o => exact lMwait o
  | lAclr o => exact lAclr o | lAld o => exact lAld o | lAst o => exact lAst o | lScfeed o => exact lScfeed o
  | lCpy o => exact lCpy o | lCwait o => exact lCwait o | lColl o => exact lColl o | lCtrig o => exact lCtrig o
  | lCdisarm o => exact lCdisarm o
  -- words that are no instruction
  | xAbsentComposerOpcode w => exact xAbsentComposerOpcode w
  | xUnallocatedLaneOpcode w => exact xUnallocatedLaneOpcode w
  -- composer instructions without operands
  | cEret => exact cEret | cDone => exact cDone | cLtrig => exact cLtrig | cDepwait => exact cDepwait
  -- events
  | _ => exact of_event _ rfl

/-- Settles O59, by the law of coding of each instruction. -/
theorem decodeEncode : Obligations.DecodeEncode := statement_holds

end Sys2Proof.Laws.Coding

/-! PROOFS. O54: a word without an instruction has no effect but its fault, and O60: the words of the spec's examples. -/

namespace Sys2Proof.Machine

open Sys2Proof

section NoInstruction

variable {s : State} {d c g sl : Nat} {t : Team} {x : Group}

/-- The effect of an absent opcode is the fault GILLOP, on an unchanged state (R180). -/
theorem exec_absentComposerOpcode (w : Word32) (hc : s.cur = .composer d c) (ht : s.team? d c = some t)
    (hr : compReady t = true) :
    exec (.xAbsentComposerOpcode w) s = .next (takeCompFault s d c { code := Code.GILLOP }) := by
  change execXAbsentComposerOpcode w s = _
  exact execComposer_fault _ s s _ d c t hc ht hr rfl

/-- An unallocated opcode faults ILLOP under check 1 without a look at the active strands or the tokens (R197). -/
theorem exec_unallocatedLaneOpcode (w : Word64) (hc : s.cur = .lane d c g sl) (ht : s.team? d c = some t)
    (hg : s.group? d c g = some x) (hr : laneReady t x sl = true) :
    exec (.xUnallocatedLaneOpcode w) s = .next (takeLaneFault s d c g sl { code := Code.ILLOP, access := 1 }) := by
  change execXUnallocatedLaneOpcode w s = _
  simp only [execXUnallocatedLaneOpcode, hc, ht, hg, hr, if_true]

/-- A stepped composer that still runs after its instruction stops with GBRK (R395). -/
theorem compStepped_stops (ht : s.team? d c = some t) (hd : t.comp.dbgStep = true) (hr : t.comp.stat = .running) :
    compStepped s d c = takeCompFault s d c { code := Code.GBRK, access := 0x10000 } := by
  simp [compStepped, ht, hd, hr]

/-- A composer that is not stepped goes on. -/
theorem compStepped_goesOn (ht : s.team? d c = some t) (hd : t.comp.dbgStep = false) : compStepped s d c = s := by
  simp [compStepped, ht, hd]

end NoInstruction

/-- Settles O54, by what each of the two rows answers and by the two cases of the debug step. -/
theorem wordsWithoutInstruction : Obligations.WordsWithoutInstruction :=
  ⟨fun _ _ _ _ w => exec_absentComposerOpcode w, fun _ _ _ _ _ _ _ w => exec_unallocatedLaneOpcode w,
    fun _ _ _ _ ht => ⟨compStepped_stops ht, compStepped_goesOn ht⟩⟩

/-- Settles O60: the decoder, evaluated on each word, reads the instruction and the operands that the spec writes it for. -/
theorem decodedWords : Obligations.DecodedWords := by
  unfold Obligations.DecodedWords
  decide +kernel

end Sys2Proof.Machine
